-- ==== Sys2Proof/Word.lean ====
section
/-! DEFINITION. The words of the module: bytes, registers' words, FP32 words, and the sparse maps that hold
memories, register files and tables as plain data. -/
namespace Sys2Proof

/-- One byte of memory. -/
abbrev Byte := BitVec 8

/-- A 32-bit word of memory or of a register (R9). -/
abbrev W32 := BitVec 32

/-- A 64-bit word of memory or of a register (R9). -/
abbrev W64 := BitVec 64

/-- The bits of an FP32 value (R36). -/
abbrev F32 := BitVec 32

/-- A sparse table of words: pairs of a key and a word, keys strictly rising, no word equal to what an unlisted
key reads as. The operations and the canonical form stand in Machine/Sparse.lean. -/
abbrev Sparse (w : Nat) := List (Nat × BitVec w)

/-- An FP32 pair (hi, lo) of R63: it stands for the sum hi + lo. -/
structure Pair where
  hi : F32
  lo : F32
deriving DecidableEq, Repr, Inhabited

/-- Two to the power `k`. -/
def pow2 (k : Nat) : Nat := 1 <<< k

end Sys2Proof
end

