-- ==== Sys2Proof/Syntax.lean ====
section
/-! DEFINITION. The commands of the module, one constructor per row of the opcode table, with their operands. What
the module decides by itself is computed from the state; what the physical world or the host decides (an error met, a
temperature, a number of clocks, bytes that the host wrote) is an operand of the command that meets it. -/
namespace Sys2Proof

/-- A byte that the host wrote at a host bus address. -/
structure HostStore where
  addr : Nat
  byte : Byte
deriving DecidableEq, Repr

/-- What a read of a graph structure, a descriptor or a length word met (R382, R122): a foul found at `reads` reads of
the block of `addr`, or nothing but what the side table already says. -/
structure ReadFault where
  addr : Nat
  reads : Nat
deriving DecidableEq, Repr

/-- Clocks that passed, with the state as it stands, while the sequencer of die `d` held ready work that it could not issue
(R16); the causes are read from the state. -/
structure StallWait where
  d : Nat
  clocks : Nat
deriving DecidableEq, Repr

/-- What goes wrong in one chunk of a tile (R93 to R95): a cell's chunk sum off by an amount with residue `delta`, the
checksum-row cell of a column or the checksum-column cell of a row off by one, the load path's residue of position `k` over
the rows of A or over the columns of B off by one, the duplicate of a round-and-accumulate stage, an accumulator word that
its code cannot correct. Rows, columns and positions count within the tile and its chunk. -/
inductive ArrayFault where
  | cell (row col delta : Nat)
  | checkRow (col delta : Nat)
  | checkCol (row delta : Nat)
  | loadSum (ofA : Bool) (k delta : Nat)
  | duplicate (row col : Nat)
  | accWord (row col : Nat)
deriving DecidableEq, Repr

/-- What one chunk of a product met: the VXE that takes the first row of a prologue, clocks of the assignment before it, the
accumulator words that it read corrected (R93), what went wrong in the array, the row at which a prologue met a lane parity
error (R180) or an uncorrectable function-table word, and the table words that it read corrected (R187). -/
structure ChunkEnv where
  vxe : Nat
  wait : Nat
  corr : Nat := 0
  faults : List ArrayFault := []
  parity : Option Nat := none
  ftEcc : Option Nat := none
  ftCorr : Nat := 0
deriving DecidableEq, Repr

/-- What an attention unit met: array faults in its score engine or its output engine (R94, R95), an RSU parity error at a
row (R242), or an uncorrectable function-table word at a row (R187). -/
inductive UnitFault where
  | arrayCheck (out : Bool) (faults : List ArrayFault)
  | parity (row : Nat)
  | table (row : Nat)
deriving DecidableEq, Repr

/-- What a step of an attention unit met: accumulator words of its score engine and of its output engine, and table words of its
RSU, that were read corrected (R93, R187), and what went wrong. -/
structure RsuEnv where
  corrS : Nat := 0
  corrO : Nat := 0
  ftCorr : Nat := 0
  fault : Option UnitFault := none
deriving DecidableEq, Repr, Inhabited

/-- What reading a tile's slot met (R93): words corrected, and the row and column of one that could not be. -/
structure SlotRead where
  corr : Nat := 0
  bad : Option (Nat × Nat) := none
deriving DecidableEq, Repr, Inhabited

/-- What a drain or an apply pass met: the VXE that takes its first row, the clocks of the assignment that it charges, the row at
which a lane parity error or an uncorrectable function-table word arose, what reading the slot met, and for an apply pass the
column tile of the element that met the error. -/
structure DrainEnv where
  vxe : Nat
  clocks : Nat
  parity : Option Nat
  ftEcc : Option Nat
  /-- Table words that the drain read corrected (R187), and clocks in which an engine waited on the pool (R177). -/
  ftCorr : Nat
  backpress : Nat
  slot : SlotRead := {}
  tile : Nat := 0
deriving DecidableEq, Repr

/-- The readings of the frame that a tick closes: its clocks, the supply power averaged over it in W, the supply in
units of 0.01 V and 0.01 A, the energy in mJ, and the temperatures of the twenty logic dies and of the eight stacks in
degrees Celsius (R586, R587, R590). -/
structure TickEnv where
  clocks : Nat
  power : Nat
  vin : Nat
  iin : Nat
  energy : Nat
  dieTemps : List Nat
  stackTemps : List Nat
  /-- Clocks of the frame in which a completion ring of a partition was full, as (partition, clocks) (R397). -/
  cqFull : List (Nat × Nat)
  /-- Clocks of the frame in which ready work waited that no issue ended, a waiting START among it (R16, R457). -/
  waits : List StallWait
deriving DecidableEq, Repr

/-- What the KSC-144 code finds in one word of a read (R350): the word's number among the words read, and whether the error is
uncorrectable. A word that no entry names has no error. -/
structure WordErr where
  word : Nat
  uncorr : Bool
deriving DecidableEq, Repr

/-- What a request does in the DRAM: it reads, it writes whole blocks, or it writes a part of one, whose old sectors are read
first (R354). -/
inductive HbmOp where
  | read
  | write
  | update
deriving DecidableEq, Repr

/-- Who a request is made for (R357): a task, the narrow path, firmware's own rewrites (migration, compression and narrowing,
scrubs of returned frames, context images), the patrol scrub, or the host through BAR2. -/
inductive HbmFor where
  | task (tid : Nat)
  | narrow
  | firmware
  | patrol
  | host
deriving DecidableEq, Repr

/-- A request for sectors `first` to `first + n - 1` of a line of a pseudo-channel, which hold bytes of block `blk` (R345, R357,
R359), and what the code finds in the words that it reads. -/
structure HbmReq where
  pc : Nat
  line : Nat
  first : Nat
  n : Nat
  op : HbmOp
  src : HbmFor
  blk : Nat
  errs : List WordErr
deriving DecidableEq, Repr

/-- Why a pseudo-channel is retrained (R361). -/
inductive RetrainCause where
  | temperature
  | errors
  | interval
  | frame
deriving DecidableEq, Repr

/-- What a start message says (R453 to R458). -/
inductive StartKind where
  | arrival
  | release
  | count
  | withdrawal
deriving DecidableEq, Repr

/-- A start message: what it says, the group and the start number, the partition it is for, METHOD, the member list whose
digest it carries, the member list entry that sent it, and a counter value (R453, R455, R456). -/
structure StartMsg where
  kind : StartKind
  group : Nat
  seq : Nat
  p : Nat
  method : Nat
  list : List Nat
  sender : Nat
  count : Nat
deriving DecidableEq, Repr

/-- A timing message: the port it arrives on, the stamped count of the module above, the round trip of the hop in clocks,
the hops of the sender from the master (R448, R449), and the clocks since the last frame tick. -/
structure TimingMsg where
  clocks : Nat
  port : Nat
  stamp : Nat
  rtt : Nat
  depth : Nat
deriving DecidableEq, Repr

/-- A picture that a standard's output process releases: its buffer, its picture order count, its cropped extent, and its
samples, one list for each component in raster order (R482, R491, R494). -/
structure PicOut where
  buf : Nat
  poc : Int
  width : Nat
  height : Nat
  planes : List (List Nat)
deriving DecidableEq, Repr

/-- A coded picture that the encoder has made: its number, whether it is a key picture, the buffer that held its input picture,
and its bytes (R491). -/
structure PicCoded where
  num : Nat
  key : Bool
  buf : Nat
  bytes : List Byte
deriving DecidableEq, Repr

/-- What the standard makes of the next picture of a codec task (R484 to R492): clocks waited for a free buffer, missing
references, regions with a syntax error, the buffers of the pictures that it predicts from, whether it is a random-access or key
picture, whether it takes a buffer, the buffers that carry SHORT_REF and LONG_REF after it, the pictures that the output process releases, the pictures coded, a
core with an internal memory error, a fouled block, and whether it ends the task. -/
structure CodecPic where
  wait : Nat
  missing : Nat
  syntaxErrs : Nat
  refs : List Nat
  random : Bool
  takes : Bool
  short : List Nat
  long : List Nat
  outs : List PicOut
  coded : List PicCoded
  coreErr : Option Nat
  foul : Option Nat
  last : Bool
deriving DecidableEq, Repr

/-- A block of a collective: the place of its sender in the member list, its index, its bytes, whether its CRC-32C agrees, the
digest of the descriptor that its messages carry, and its sender's member list (R524, R527). -/
structure CollBlock where
  member : Nat
  idx : Nat
  bytes : List Byte
  good : Bool
  digest : List Nat
  list : List Nat
deriving DecidableEq, Repr

/-- A flit as a port receives or sends it (R518, R519): its header fields, its payload, and what the codes found: 0 nothing, 1
a corrected word, 2 an uncorrectable word or a failed FCHK. -/
structure Flit where
  dest : Nat
  src : Nat
  part : Nat
  vc : Nat
  kind : Nat
  seq : Nat
  ackSeq : Nat
  ackValid : Bool
  nak : Bool
  crVc : Nat
  crCount : Nat
  hops : Nat
  len : Nat
  msg : Nat
  payload : List Byte
  found : Nat
deriving DecidableEq, Repr

/-- What a request to host memory met (R511): a poisoned completion or a timeout, the block that it was to fill, and the ring
whose read it was. -/
structure HostFault where
  poisoned : Bool
  blk : Option Nat
  ring : Option (Nat × Nat)
deriving DecidableEq, Repr

/-- A unit that fails a self-test (R575): the test, the UNIT number of R600, and the first failing address or pin. -/
structure DiagFail where
  test : Nat
  unitId : Nat
  place : Nat
deriving DecidableEq, Repr

/-- The result of a run of a traffic generator (R574): passes completed, sectors checked, words that mismatched, words
corrected, and the first failure as HBM_TG_FIRST_FAIL reports it. -/
structure TgResult where
  loops : Nat
  sectors : Nat
  mismatch : Nat
  corr : Nat
  first : Option W64
deriving DecidableEq, Repr

/-- The commands of the module: one constructor per row of the opcode table. -/
inductive Instr where
  -- Registers (00, 05, 11, 17, 19)
  /-- REGISTER_WRITE. A BAR0 write of `bytes` bytes through PCIe function `fn` (0 is PF0, n is VF n) at offset `off` (R11). -/
  | registerWrite (fn off bytes : Nat) (value : W64)
  /-- BAD_REGISTER_ACCESS. An access of the wrong width or alignment (R10). -/
  | badRegisterAccess (fn off bytes : Nat) (isWrite : Bool)
  /-- SNAP_TAKE. A write of 1 to TAKE of the snapshot register at `off` (R183). -/
  | snapTake (fn off : Nat)
  /-- MEM_RT_SNAP_TAKE. A write of TAKE of MEM_RT_SNAP (R342). -/
  | memRtSnapTake (fn : Nat)
  /-- RAS_SB_SNAP_TAKE. A write of TAKE of RAS_SB_SNAP (R582). -/
  | rasSbSnapTake (fn : Nat)
  /-- RAS_SNAP_ALL_TAKE. A write of TAKE of RAS_SNAP_ALL (R591). -/
  | rasSnapAllTake (fn : Nat)
  -- Frames, rings, graphs and tasks (01, 13)
  /-- FRAME_TICK. The frame tick (R29) with the readings of the closing frame. -/
  | frameTick (env : TickEnv)
  /-- IDLE_POLL. The expiry of the idle-poll interval, `clocks` after the last tick (R33). -/
  | idlePoll (clocks : Nat)
  /-- RING_READ_COMPLETE. The ring read of ring `r` of partition `p` completes; `host` are the host's stores that became visible before it (R393). -/
  | ringReadComplete (p r : Nat) (host : List HostStore)
  /-- GRAPH_ADMIT. The header of a taken graph is read (R394); `fault` is what its blocks met (R382). -/
  | graphAdmit (p r seq : Nat) (fault : Option ReadFault)
  /-- BACKLOG_ADMIT. The first graph of the backlog of `p` is admitted (R394). -/
  | backlogAdmit (p : Nat) (fault : Option ReadFault)
  /-- TASK_ADMIT. The graph engine admits a task (R311). -/
  | taskAdmit (tid : Nat) (fault : Option ReadFault)
  /-- TASK_READY. A task becomes ready (R384). -/
  | taskReady (tid : Nat)
  /-- DEP_FAILED. A task whose predecessor failed completes without running (R385). -/
  | depFailed (tid clocks : Nat)
  /-- UNIT_ISSUE. The sequencer of die `d` has engine `k` free and issues the next unit (R403); `waits` are the clocks in which ready work waited before it (R16). -/
  | unitIssue (d k : Nat) (waits : List StallWait)
  /-- VIRTUAL_TIME_UPDATE. The graph engine updates the virtual times of the tenants of `p` (R403). -/
  | virtualTimeUpdate (p : Nat)
  /-- SLICE_START. The sequencer of die `d` starts a slice of a task, `clocks` after the last tick, which it expects to take `expect` clocks (R34); `fault` is what the length word met (R122). -/
  | sliceStart (tid d : Nat) (clocks expect : Nat) (fault : Option ReadFault)
  /-- SLICE_HALT. A slice still running at a tick halts at its tile boundary (R34); `reads` are what reading the slots of units met. -/
  | sliceHalt (tid d : Nat) (reads : List (Nat × SlotRead))
  /-- RT_SLOT_HALT_RAISE. The halt 2,048 clocks before the offset of a real-time slot (R35). -/
  | rtSlotHaltRaise (slot : Nat)
  /-- UNIT_HALT_AT_BOUNDARY. A unit under a halt stops at its boundary (R35); `read` is what reading its slot met. -/
  | unitHaltAtBoundary (tid uid : Nat) (read : SlotRead)
  /-- RT_SLOT_BEGIN. The offset of a real-time slot (R402). -/
  | rtSlotBegin (slot : Nat)
  /-- RT_WINDOW_END_HALT. The halt 2,048 clocks before the end of a slot's window (R402). -/
  | rtWindowEndHalt (slot : Nat)
  /-- TASK_COMPLETE. `clocks` after the last tick, all outputs of a task are durable (R25). -/
  | taskComplete (tid clocks : Nat)
  /-- COMPLETION_ENTRY_WRITE. The module writes the next completion entry of a ring (R396). -/
  | completionEntryWrite (p r : Nat)
  /-- MSIX_MODERATION_EXPIRE. MOD_US of a ring expires (R398). -/
  | msixModerationExpire (p r : Nat)
  /-- RING_ENABLE. A write of SCH_RING_CFG that sets ENABLE (R400). -/
  | ringEnable (fn p r : Nat) (value : W32) (host : List HostStore)
  /-- RING_DISABLE. A write of SCH_RING_CFG that clears ENABLE (R397). -/
  | ringDisable (fn p r : Nat) (value : W32)
  /-- PART_SAVE. A write of SCH_PART_CTRL with CMD SAVE (R411). -/
  | partSave (fn p : Nat) (value : W32)
  /-- SAVE_DONE. A save ends with an image of `size` bytes (R411). -/
  | saveDone (p size : Nat)
  /-- PART_RESTORE. A write of SCH_PART_CTRL with CMD RESTORE (R412); `host` are the host's stores before it. -/
  | partRestore (fn p : Nat) (value : W32) (host : List HostStore)
  /-- RESTORE_DONE. A restore ends (R412, R413). -/
  | restoreDone (p : Nat)
  /-- PART_START. A write of SCH_PART_CTRL with CMD START (R407). -/
  | partStart (fn p : Nat) (value : W32)
  /-- PART_RESET. A write of SCH_PART_CTRL with CMD RESET (R408). -/
  | partReset (fn p : Nat) (value : W32)
  /-- RESET_DONE. The scrub of a partition reset ends (R408). -/
  | resetDone (p : Nat)
  /-- PREEMPT_TASK. Firmware pre-empts one task (R414). -/
  | preemptTask (tid : Nat)
  -- Products (02, 03, 04, 14)
  /-- PRODUCT. A product task is validated and divided (R145). -/
  | product (tid : Nat)
  /-- TILE_ISSUE. A tile is issued to engine `k` of its die (R124). -/
  | tileIssue (tid uid k : Nat)
  /-- OPERAND_BLOCK_ARRIVE. An operand block arrives at its consumer (R355). -/
  | operandBlockArrive (tid uid blk : Nat) (mismatch : Bool)
  /-- CHUNK_COMPLETE. An engine sums one chunk (R82). -/
  | chunkComplete (tid uid : Nat) (env : ChunkEnv)
  /-- SCOREBOOK_MIRROR_COPY. Firmware copies the next record into the mirror ring (R579). -/
  | scorebookMirrorCopy
  /-- ENGINE_HANG. An engine is declared hung (R426); `late` rows of the abandoned attempt leave it later (R434). -/
  | engineHang (tid uid late : Nat)
  /-- TILE_REEXECUTE. A failed tile is reissued (R96). -/
  | tileReexecute (tid uid k : Nat)
  /-- ACCUM_SPILL. Partial sums of an open tile are spilled (R133); `read` is what reading its slot met. -/
  | accumSpill (tid uid : Nat) (read : SlotRead)
  /-- ACCUM_RELOAD. Spilled partial sums are reloaded (R133). -/
  | accumReload (tid uid : Nat)
  /-- TILE_DRAIN. A finished tile drains through the epilogue and the store path (R75). -/
  | tileDrain (tid uid : Nat) (env : DrainEnv)
  /-- TILE_STORE_COMPLETE. A tile's store completes (R103). -/
  | tileStoreComplete (tid uid : Nat)
  /-- ESCALATED_RERUN. An escalated tile is issued again with its shadows (R105). -/
  | escalatedRerun (tid uid k : Nat)
  /-- SPLITK_REDUCE. The parts of a tile are added and drained (R131); `uid` is the tile's part 0. -/
  | splitkReduce (tid uid : Nat) (env : DrainEnv)
  /-- MXE_RETIRE. Retirement of engine `k` of die `d` (R100); `gen` is the tag the replacement receives. -/
  | mxeRetire (d k gen : Nat)
  /-- WRITE_AT_CHECKPOINT. The `i`-th write in flight reaches a checking point (R433). -/
  | writeAtCheckpoint (i : Nat)
  /-- APPLY_PASS. The apply pass of a row block (R171). -/
  | applyPass (tid b rb : Nat) (env : DrainEnv)
  /-- APPLY_REPEAT. The repeated apply pass of a row block (R175). -/
  | applyRepeat (tid b rb : Nat) (env : DrainEnv)
  -- Vector programs and transfers (05, 06, 08, 09, 10, 13)
  /-- VECTOR_PROGRAM. A vector-program task runs (R388), its first row on VXE `env.vxe` of its dies. -/
  | vectorProgram (tid : Nat) (env : DrainEnv)
  /-- CONVERT. A CONVERT task runs (R389). -/
  | convert (tid : Nat)
  /-- CODEBOOK_LOAD. A codebook load (R51). -/
  | codebookLoad (tid : Nat)
  /-- FT_LOAD. A function-table load checks its image (R200). -/
  | ftLoad (tid : Nat)
  /-- FT_BANK_WRITE. The inactive banks are written (R201). -/
  | ftBankWrite (tid : Nat)
  /-- FT_BANK_SWAP. The inactive banks become active (R201). -/
  | ftBankSwap (tid : Nat)
  /-- SEED_LOAD. A seed load (R292). -/
  | seedLoad (tid : Nat)
  /-- RNG_FILL. A generation task (R300). -/
  | rngFill (tid : Nat)
  /-- REUSE_GATE. A reuse gate (R257), its first block on VXE `vxe` of its dies. -/
  | reuseGate (tid vxe : Nat)
  /-- FINITE_CHECK. A finite check (R280) on VXE `vxe` of its die. -/
  | finiteCheck (tid vxe : Nat)
  -- Attention (07)
  /-- ATTEND. An ATTEND task is validated and divided into units (R215). -/
  | attend (tid : Nat)
  /-- ATTEND_PAGED. An ATTEND_PAGED task (R233). -/
  | attendPaged (tid : Nat)
  /-- APPEND_ATTEND. An APPEND_ATTEND task (R234). -/
  | appendAttend (tid : Nat)
  /-- KV_ALLOC_RETRY. The allocations of a stalled task are tried again (R236). -/
  | kvAllocRetry (tid : Nat)
  /-- KV_RELEASE. A RELEASE task (R235). -/
  | kvRelease (tid : Nat)
  /-- KV_DEADLOCK_BREAK. The deadlock break of a partition (R240). -/
  | kvDeadlockBreak (p : Nat)
  /-- ATTENTION_KEY_BLOCK. A pipeline processes one key block (R215). -/
  | attentionKeyBlock (tid uid wait : Nat) (env : RsuEnv)
  /-- ATTENTION_UNIT_FINAL. An attention unit ends (R217). -/
  | attentionUnitFinal (tid uid : Nat) (env : RsuEnv)
  -- Memory tiers (11)
  /-- MAP. A MAP task (R316). -/
  | map (tid : Nat)
  /-- UNMAP. An UNMAP task (R316). -/
  | unmap (tid : Nat)
  /-- HINT. A HINT task (R316). -/
  | hint (tid : Nat)
  /-- MIGRATION_START. Firmware starts migrating a page (R327). -/
  | migrationStart (page tier die : Nat)
  /-- MIGRATION_PASS_END. A copy pass of a migration ends; `uncorr` are the blocks whose copy met an uncorrectable error (R327, R332), and `stored` the bytes that moved of a NARROW page, whose narrowed blocks move in short. -/
  | migrationPassEnd (page stored : Nat) (uncorr : List Nat)
  /-- SOURCE_FRAME_RETURN. The source frame of a migration returns to its pool (R327). -/
  | sourceFrameReturn (page : Nat)
  /-- EVICTION. Firmware evicts a page (R323). -/
  | eviction (page : Nat)
  /-- PROMOTION. Firmware promotes a page (R324). -/
  | promotion (page die : Nat)
  /-- NARROWING. The written blocks of NARROW pages are narrowed (R336). -/
  | narrowing (tid : Nat)
  /-- HPOOL_BASE_WRITE. A write of MEM_HPOOL_BASE (R325). -/
  | hpoolBaseWrite (fn p : Nat) (value : W64)
  /-- HPOOL_COUNT_WRITE. A write of MEM_HPOOL_COUNT (R325, R326). -/
  | hpoolCountWrite (fn p : Nat) (value : W32) (host : List HostStore)
  /-- SHRINK_DONE. A host-pool shrink ends (R326). -/
  | shrinkDone (p : Nat)
  /-- BAR2_READ. A BAR2 read of `len` bytes (R508, R598). -/
  | bar2Read (fn off len : Nat) (uncorr : Bool)
  /-- BAR2_WRITE. A BAR2 write (R312). -/
  | bar2Write (fn off : Nat) (data : List Byte)
  -- HBM (12)
  /-- HBM_REQUEST. Requests arrive at a controller, which serves the next one in arbitration order (R357 to R359). -/
  | hbmRequest (pc : Nat) (arrivals : List HbmReq)
  /-- NARROW_PATH_REQUEST. The graph engine or firmware reads `sectors` sectors of a block through the narrow path (R356); `errs` are what the code finds in the 256 words of the block's 16 granules. -/
  | narrowPathRequest (p blk sectors : Nat) (errs : List WordErr) (mismatch : Bool)
  /-- PATROL_SCRUB. The patrol scrub reads a line (R351); `errs` are what the code finds in its 16 words. -/
  | patrolScrub (pc line : Nat) (errs : List WordErr)
  /-- RETRAIN_START. Firmware starts retraining a pseudo-channel (R361). -/
  | retrainStart (pc : Nat) (cause : RetrainCause)
  /-- RETRAIN_COMPLETE. Training ends or fails (R362). -/
  | retrainComplete (pc clocks : Nat) (ok : Bool)
  /-- REPAIR_GO. A write of HBM_CONTROL.REPAIR_GO (R374). -/
  | repairGo (fn : Nat)
  /-- REPAIR_START. The due repair of the row of lines 4 × `row` to 4 × `row` + 3 starts (R366). -/
  | repairStart (pc row : Nat)
  /-- REPAIR_COMPLETE. A repair ends (R366), `lost` being the blocks with an uncorrectable word. -/
  | repairComplete (pc clocks : Nat) (errs : List WordErr)
  -- Recovery (14)
  /-- TASK_REEXECUTE. Firmware re-executes a task (R423). -/
  | taskReexecute (tid : Nat)
  /-- CONTROL_CORE_FAULT. A control core faults (R431), by its watchdog or by an exception; `waiting` are the tasks that wait on it, `pages` those whose migration it was running, `second` says that it faulted within the last second. -/
  | controlCoreFault (core : Nat) (exception : Bool) (waiting pages : List Nat) (second : Bool)
  /-- CORE_RESTART_COMPLETE. A control core has restarted (R431). -/
  | coreRestartComplete (core : Nat)
  /-- LINK_TIMEOUT. A collective had no route for LINK_TIMEOUT_MS (R430). -/
  | linkTimeout (tid : Nat)
  -- Starts and time (15)
  /-- START. A START task (R452). -/
  | start (tid : Nat)
  /-- START_MESSAGE. A start message arrives (R453). -/
  | startMessage (msg : StartMsg)
  /-- HUDDLE_ARRIVAL. An arrival reaches the root (R455). -/
  | huddleArrival (msg : StartMsg)
  /-- HUDDLE_RELEASE. A release reaches a member (R455). -/
  | huddleRelease (msg : StartMsg)
  /-- WHISTLE_COUNT. The agreed count reaches a member (R456). -/
  | whistleCount (msg : StartMsg)
  /-- WHISTLE_RELEASE. SYN_GCOUNT reaches C (R456). -/
  | whistleRelease (tid : Nat)
  /-- START_TIMEOUT. A START has waited TIMEOUT_MS (R457). -/
  | startTimeout (tid : Nat)
  /-- START_WITHDRAWAL. A withdrawal arrives (R458). -/
  | startWithdrawal (msg : StartMsg)
  /-- TIMING_MESSAGE. A timing message arrives (R448). -/
  | timingMessage (msg : TimingMsg)
  /-- GC_SLEW. The follower steers its counter after `clocks` clocks (R449). -/
  | gcSlew (clocks : Nat)
  /-- FSYNC_EDGE. A rising edge of FSYNC_IN, `stamp` clocks from the next tick (R460). -/
  | fsyncEdge (stamp : Int)
  -- Video codec (16)
  /-- CODEC_OPEN. OPEN (R478). -/
  | codecOpen (tid : Nat)
  /-- CODEC_DECODE. DECODE (R490); `within` says that the access unit keeps within the limits of R470. -/
  | codecDecode (tid : Nat) (within : Bool)
  /-- CODEC_ENCODE. ENCODE (R490). -/
  | codecEncode (tid : Nat)
  /-- CODEC_KEY_REQUEST. KEY_REQUEST (R489). -/
  | codecKeyRequest (tid : Nat)
  /-- CODEC_RELEASE. RELEASE (R475). -/
  | codecRelease (tid : Nat)
  /-- CODEC_FLUSH. FLUSH (R473). -/
  | codecFlush (tid : Nat)
  /-- CODEC_RESUME. RESUME (R488). -/
  | codecResume (tid : Nat)
  /-- CODEC_CLOSE. CLOSE (R479). -/
  | codecClose (tid : Nat)
  /-- CODEC_PICTURE. A group of cores codes one picture (R492). -/
  | codecPicture (tid : Nat) (pic : CodecPic)
  -- Host core callbacks (13)
  /-- HOST_CALLBACK. A callback task starts (R391). -/
  | hostCallback (tid : Nat)
  /-- CALLBACK_DONE. Tenant code writes `value` into the done word of a callback (R391). -/
  | callbackDone (tid : Nat) (value : W32)
  -- Collectives and links (17)
  /-- ALL_REDUCE. ALL_REDUCE (R526). -/
  | allReduce (tid : Nat)
  /-- ALL_GATHER. ALL_GATHER (R526). -/
  | allGather (tid : Nat)
  /-- REDUCE_SCATTER. REDUCE_SCATTER (R526). -/
  | reduceScatter (tid : Nat)
  /-- COLL_BLOCK_RECEIVE. A collective block arrives (R524). -/
  | collBlockReceive (tid : Nat) (blk : CollBlock)
  /-- COLL_BLOCK_ACK. Member `member` acknowledges block `idx` end to end (R524). -/
  | collBlockAck (tid member idx : Nat)
  /-- COLL_ROUTE_CHANGE. The route of a collective changes (R524). -/
  | collRouteChange (tid : Nat)
  /-- FLIT_RECEIVE. Port `i` receives a flit (R521), having held a flit without a credit for `stall` clocks since the last one (R520). -/
  | flitReceive (i : Nat) (f : Flit) (stall : Nat)
  /-- NAK_RECEIVE. A NAK with ACK_SEQ `ack` arrives (R521). -/
  | nakReceive (i ack : Nat)
  /-- ACK_TIMEOUT. No acknowledgement for 10 µs (R521). -/
  | ackTimeout (i : Nat)
  /-- PORT_TRAINED. A port completes training at a rate (1 or 2) with a partner (R517). -/
  | portTrained (i partner rate : Nat)
  /-- PORT_RETRAIN_TIMER. The one-second retraining timer (R521). -/
  | portRetrainTimer (i : Nat)
  /-- LINK_PORT_DOWN. A port goes down (R521). -/
  | linkPortDown (i : Nat)
  -- Power, resets and the host interface (17, 18, 19)
  /-- PWREN_RISE. The rise of PWREN (R547). -/
  | pwrenRise
  /-- PWREN_FALL. The fall of PWREN (R515); a flush in progress had programmed `programmed` records. -/
  | pwrenFall (programmed : Nat)
  /-- SUPPLY_LOSS. The supply is lost (R584); a flush in progress had programmed `programmed` records. -/
  | supplyLoss (programmed : Nat)
  /-- PERST_N_ASSERT. PERST_N is asserted (R510). -/
  | perstNAssert
  /-- PCIE_LINK_UP. The PCIe link trains (R513). -/
  | pcieLinkUp (gen width : Nat)
  /-- PCIE_LINK_DOWN. Link down or hot reset (R510). -/
  | pcieLinkDown
  /-- FLR_PF0. Function level reset of PF0 (R510). -/
  | flrPf0
  /-- FLR_VF. Function level reset of VF n (R510). -/
  | flrVf (n : Nat)
  /-- D3HOT_ENTRY. A D3hot request (R510). -/
  | d3hotEntry (fn : Nat)
  /-- VF_CONFIG_CHANGE. VF Enable and NumVFs change to `n` virtual functions (R505); `master` says that the old functions have Bus Master Enable set. -/
  | vfConfigChange (n : Nat) (master : Bool)
  /-- HOST_COMPLETION_FAULT. A poisoned host completion or a completion timeout (R511). -/
  | hostCompletionFault (fault : HostFault)
  /-- PREPARE_REMOVE. PREPARE_REMOVE (R514). -/
  | prepareRemove (fn : Nat)
  /-- SMBUS_FALLBACK. The sideband falls back to SMBus (R529). -/
  | smbusFallback
  /-- PLDM_GET_SENSOR. A sensor request (R530). -/
  | pldmGetSensor (n : Nat)
  /-- PLDM_SET_POWER_CAP. The power-cap effecter (R587). -/
  | pldmSetPowerCap (w : Nat)
  /-- PLDM_GET_FRU. A FRU request (R530). -/
  | pldmGetFru
  -- Attestation and security (18)
  /-- SPDM_GET_VERSION. GET_VERSION (R559). -/
  | spdmGetVersion
  /-- SPDM_GET_CAPABILITIES. GET_CAPABILITIES (R559). -/
  | spdmGetCapabilities
  /-- SPDM_NEGOTIATE_ALGORITHMS. NEGOTIATE_ALGORITHMS (R559). -/
  | spdmNegotiateAlgorithms
  /-- SPDM_GET_DIGESTS. GET_DIGESTS (R559). -/
  | spdmGetDigests
  /-- SPDM_GET_CERTIFICATE. GET_CERTIFICATE (R560). -/
  | spdmGetCertificate (off len : Nat)
  /-- SPDM_CHALLENGE. CHALLENGE (R559). -/
  | spdmChallenge (nonce : List Byte)
  /-- SPDM_GET_MEASUREMENTS. GET_MEASUREMENTS (R558) of one index, or of all for 0xFF. -/
  | spdmGetMeasurements (index : Nat) (nonce : List Byte)
  /-- SPDM_UNSUPPORTED. An unsupported SPDM request (R559). -/
  | spdmUnsupported
  /-- STAGE_FW. STAGE_FW (R540). -/
  | stageFw (fn : Nat) (host : List HostStore)
  /-- STAGE_FORM. STAGE_FORM (R545). -/
  | stageForm (fn : Nat) (host : List HostStore)
  /-- FORM_LOAD. FORM_LOAD (R549). -/
  | formLoad (fn slot : Nat)
  /-- FORMATION_LOAD. The formation load (R550); `kat` are the KCG-128 units that fail their vectors, as (die, unit). -/
  | formationLoad (kat : List (Nat × Nat))
  /-- LC_TRANSITION. LC_TRANSITION (R554). -/
  | lcTransition (fn : Nat) (host : List HostStore)
  /-- DEBUG_OPEN. DEBUG_OPEN (R557). -/
  | debugOpen (fn : Nat) (host : List HostStore)
  /-- DEBUG_CLOSE. DEBUG_CLOSE (R557). -/
  | debugClose (fn : Nat)
  /-- DEBUG_TOKEN_EXPIRE. REMAIN_S reaches 0 (R557). -/
  | debugTokenExpire
  /-- SEC_CMD_COMPLETE. A security command ends (R566). -/
  | secCmdComplete
  -- Diagnostics, scorebook and physical limits (19)
  /-- DIAG_HOLD. A write of HOLD (R568). -/
  | diagHold (fn : Nat) (value : W32)
  /-- DIAG_RUN. A write of RUN (R575). -/
  | diagRun (fn : Nat) (value : W32)
  /-- DIAG_RUN_COMPLETE. The self-tests end (R576), `fails` being the units that failed. -/
  | diagRunComplete (fails : List DiagFail)
  /-- DIAG_ABORT. A RUN is stopped (R592). -/
  | diagAbort
  /-- HBM_TG_START. A write of HBM_TG_CTRL with START (R572), run by control core `core`. -/
  | hbmTgStart (fn ch : Nat) (value : W64) (core : Nat)
  /-- HBM_TG_STOP. A write of HBM_TG_CTRL with STOP (R572). -/
  | hbmTgStop (fn ch : Nat) (value : W64)
  /-- HBM_TG_RUN_DONE. A generator run ends (R574). -/
  | hbmTgRunDone (ch : Nat) (res : TgResult)
  /-- SCOREBOOK_FLUSH. A flush that has been asked for starts (R580); `unreadable` says that the mirror cannot be read. -/
  | scorebookFlush (unreadable : Bool)
  /-- FLUSH_COMPLETE. A flush ends (R580). -/
  | flushComplete
  /-- SEGMENT_ERASE_DONE. The erase of a segment ends (R580). -/
  | segmentEraseDone
  /-- THERMAL_CRITICAL. Logic die `n`, or stack `n` − 20, reaches its critical temperature (R586). -/
  | thermalCritical (n temp : Nat)
  /-- GRANT_EXHAUSTED. The granted share is used (R587). -/
  | grantExhausted
  /-- POWER_TRIP. The fast trip (R588). -/
  | powerTrip (w : Nat)
  /-- THERM_N_DEASSERT. Every reading lies 10 °C below its critical value (R586). -/
  | thermNDeassert (dieTemps stackTemps : List Nat)
  /-- CORE_RESTART_TIMEOUT. A restart exceeds 50 ms (R432). -/
  | coreRestartTimeout (core : Nat)
  /-- PC_CONTROLLER_FAULT. An unrecoverable controller fault (R369). -/
  | pcControllerFault (pc : Nat)
  /-- CALLBACK_QUEUE_ROOM. Tenant code advances the consumer count of a callback queue (R391). -/
  | callbackQueueRoom (tid consumer : Nat)
  /-- TEST_HOLD_SCRUB_DONE. The scrub of test hold ends (R568). -/
  | testHoldScrubDone
  /-- SUPPLY_RETURN. The supply returns (R584). -/
  | supplyReturn
deriving DecidableEq, Repr

end Sys2Proof
end

