-- ==== Sys2Proof/Decode.lean ====
section
/-! DEFINITION. The table of commands gives no row any bits: a command reaches the module as a register access, a descriptor, a
message, an edge of a pin or an event inside, and no word spells one. -/
namespace Sys2Proof

/-- The command that a word of the table spells: none, for any word. -/
def decodeTableWord (_nbits _w : Nat) : Option Instr := none

end Sys2Proof
end

