-- ==== Sys2Proof/Config.lean ====
section
/-! DEFINITION. What the spec leaves to an implementation or leaves open: constants without a body, so that no proof
can rest on a value of them. -/
namespace Sys2Proof

/-- The coefficient bits of the function library: word `c` (0 to 2) of segment entry `i` in the data file of firmware
version `fw` (R198). The file is not in the spec: a free value. -/
opaque Config.libCoef (fw i c : Nat) : W32

/-- The place of the segment range that starts with library slot `f` in the order of the ranges (R196 gives their counts and
that they fill entries 0 to 9,471, not their order): a free value. -/
opaque Config.libOrder (fw f : Nat) : Nat

/-- Which of the eight-operation programs of the form of R196 slot 35 holds: a free value, taken modulo 3. -/
opaque Config.geluForm (fw : Nat) : Nat

/-- The segments of the table-normal method (R298), word `c` of segment `i`: a free value. -/
opaque Config.normalCoef (fw i c : Nat) : W32

/-- The value of a segment reduction on an argument outside the domain of its reduction (LOG2 or BINADE of a zero or a
negative number, R191), which the spec does not state: a free value. -/
opaque Config.unstatedFn (slot : Nat) (a : W32) : W32

/-- The byte at an address of a buffer that the `n`-th completion leaves undefined (R15, R384): a free value. -/
opaque Config.undefinedByte (n a : Nat) : Byte

/-- The code of the record that a partition's move between functions writes (R505 gives none; R578 leaves 0x8000 to 0xFFFF to firmware): a
free value, taken modulo 0x8000. -/
opaque Config.moveCode : Nat

/-- The frame that firmware takes from a pool at the `n`-th choice (R319 gives counts, not an order): a free value. -/
opaque Config.frame (n : Nat) : Nat

/-- The stored size of a compressed block at the `n`-th compression (R334 keeps the form internal): a free value. -/
opaque Config.sectors (n : Nat) : Nat

/-- The bytes that a NARROW page moves as at a save (R329 counts stored bytes, R336 gives the form of single blocks): a free value. -/
opaque Config.movedBytes (n : Nat) : Nat

/-- The severity that firmware writes into a scorebook record of a code (R577 gives its values, R578 no value by code):
a free value, taken modulo 5. -/
opaque Config.sev (code : Nat) : Nat

/-- The number that firmware writes for a cause into a scorebook record of a code (R578 names a cause and gives no
numbers): a free value. -/
opaque Config.causeNo (code cause : Nat) : Nat

/-- The HBM frames of the firmware reserve that are spare (R320 names the reserve's uses, not their shares): a free
value. -/
opaque Config.spareFrames : Nat

/-- Word `i` of the first 32 bytes of a flush segment's header (R580 names the fields but MAGIC's, not their offsets): a
free value of its contents. -/
opaque Config.flushHeader (boot reason firstSeq time count i : Nat) : W64

/-- A word of the debug window while debug access is open (R564 gives the window no contents): a free value of the offset. -/
opaque Config.debugWord (off : Nat) : W64

/-- SHA3-384 (FIPS 202), which the spec names and does not define: a free function of the bytes, 48 bytes as a number. -/
opaque Config.sha3 (bytes : List Byte) : BitVec 384

/-- Verification of an ML-DSA-65 signature (FIPS 204), which the spec names and does not define: a free function of the public
key, the 48-byte message and the signature. -/
opaque Config.verify (key msg sig : List Byte) : Bool

/-- The signature of the device identity key (R560) on a message at the `n`-th use: a free value. -/
opaque Config.sign (n : Nat) (msg : List Byte) : List Byte

/-- The digest of the vendor key, fused at manufacture (R538): a free value. -/
opaque Config.vendorKey : List Byte

/-- The Device Serial Number (R538): a free value. -/
opaque Config.serial : W64

/-- The ordering number and the serial number of the FRU data (R530), as words: a free value. -/
opaque Config.fruWords : List Nat

/-- The certificate chain of slot 0 (R560): a free value. -/
opaque Config.certChain : List Byte

/-- Measurements 1 and 6, and the bytes of the disabled-unit map (R558), recorded outside the spec: free values. -/
opaque Config.bootRom : List Byte
opaque Config.madeRecord : List Byte

/-- A 64-bit word that the true random source supplies at the `n`-th draw (R305, R556): a free value. -/
opaque Config.nonce (n i : Nat) : W64

/-- Byte `i` of the body of the `n`-th context image (R409 keeps the form internal): a free value. -/
opaque Config.imageByte (n i : Nat) : Byte

/-- The lineup generation tag that firmware gives at the `n`-th choice (R550 gives no numbers): a free value. -/
opaque Config.tag (n : Nat) : Nat

/-- The colour coefficients of the firmware data file (R495), entry (row, column) of a COLOUR, or of its inverse (R496): free
values. -/
opaque Config.colour (fw kind row col : Nat) : W32
opaque Config.colourInv (fw kind row col : Nat) : W32

/-- A profile code and a level code of a standard (R477) name a profile and a level of R468 for the direction, bit depth and chroma
format: the numbers are the standards' own, which the spec does not repeat: a free function. -/
opaque Config.codingOk (codec dir profile level depth chroma : Nat) : Bool

/-- The largest decoded-picture buffer of a level at a picture size (R481), which the standards give: a free function. -/
opaque Config.dpb (codec level width height : Nat) : Nat

/-- Byte `i` of a frame buffer (R480) or of the internal part of a session record (R476) as the `n`-th write leaves it: the layouts
are internal: free values. -/
opaque Config.bufferByte (n i : Nat) : Byte
opaque Config.recordByte (n i : Nat) : Byte

/-- The per-tensor scale of a latent in scale mode 1, and the block scales of one that the encoder reads in mode 2: R494 allows the
modes and R490 gives neither a field nor a place for them: free values. -/
opaque Config.latentScale : F32
opaque Config.latentBlockScale (n i : Nat) : Byte

end Sys2Proof
end

