-- ==== Sys2Proof/Machine/Fp.lean ====
section
/-! DEFINITION. Exact values, rounding, and the FP32 arithmetic of R150: every result is rounded once from the
exact value. -/
namespace Sys2Proof

/-- A value of an element or of an FP32 word: a NaN, an infinity, or (−1)^neg × m × 2^e exactly. A zero keeps its
sign. It is also the common internal form of R47: CLASS is the constructor, SIG is `m`, EXP is `e`. -/
inductive Xv where
  | nan
  | inf (neg : Bool)
  | fin (neg : Bool) (m : Nat) (e : Int)
deriving DecidableEq, Repr, Inhabited

/-- The rounding modes RND of R54. -/
inductive Rnd where
  | rne
  | rtz
  | sr
  | rna
deriving DecidableEq, Repr, Inhabited

/-- The exact dyadic number m × 2^e. -/
structure Dy where
  m : Int
  e : Int
deriving DecidableEq, Repr, Inhabited

/-- `m × 2^k` for a shift `k` of either sign, as a fraction: (numerator, denominator). -/
def fracShift (m : Nat) (k : Int) : Nat × Nat :=
  if 0 ≤ k then (m <<< k.toNat, 1) else (m, 1 <<< (-k).toNat)

/-- ⌊log2 (num / den)⌋ for num and den above 0. -/
def ratLog2 (num den : Nat) : Int :=
  let l : Int := (Nat.log2 num : Int) - (Nat.log2 den : Int)
  let ge : Bool := if 0 ≤ l then decide (den <<< l.toNat ≤ num) else decide (den ≤ num <<< (-l).toNat)
  if ge then l else l - 1

/-- Whether a magnitude of whole part `q` and fraction `rem / den` of a unit rounds up (R58, R60). `r` is the
16-bit draw of R60, read by SR alone. -/
def roundsUp (rnd : Rnd) (q rem den r : Nat) : Bool :=
  match rnd with
  | .rne => decide (den < 2 * rem) || (decide (2 * rem = den) && decide (q % 2 = 1))
  | .rna => decide (den ≤ 2 * rem)
  | .rtz => false
  | .sr => decide (65536 ≤ rem * 65536 / den + r)

/-- A magnitude num / den × 2^e rounded to a multiple m × 2^q, where q is the larger of `qmin` and the unit of a
significand of `prec` bits: the pair (m, q) (R58). -/
def roundMag (num den : Nat) (e : Int) (prec : Nat) (qmin : Int) (rnd : Rnd) (r : Nat) : Nat × Int :=
  if num = 0 then (0, qmin)
  else
    let q : Int := max qmin (ratLog2 num den + e - (prec : Int) + 1)
    let s := fracShift num (e - q)
    let d := den * s.2
    let w := s.1 / d
    let rem := s.1 % d
    (if roundsUp rnd w rem d r then w + 1 else w, q)

/-- The bits of +0, of the canonical NaN and of the infinities in FP32 (R36, R150). -/
def f32Zero : F32 := 0#32
def f32NaN : F32 := 0x7FC00000#32
def f32Inf (neg : Bool) : F32 := if neg then 0xFF800000#32 else 0x7F800000#32
def f32One : F32 := 0x3F800000#32

/-- The FP32 bits of a significand `m` at unit 2^q, both as `roundMag 24 (-149)` gives them; beyond the range it is
infinity. -/
def packF32 (neg : Bool) (m : Nat) (q : Int) : F32 :=
  let s : Nat := if neg then 0x80000000 else 0
  if m = 0 then BitVec.ofNat 32 s
  else
    let l := Nat.log2 m
    let ex : Int := (l : Int) + q
    if 127 < ex then f32Inf neg
    else if ex < -126 then BitVec.ofNat 32 (s + (fracShift m (q + 149)).1)
    else
      let sig := if 23 ≤ l then m >>> (l - 23) else m <<< (23 - l)
      BitVec.ofNat 32 (s + (((ex + 127).toNat) <<< 23) + (sig - 0x800000))

/-- RNE_FP32 of (−1)^neg × num / den × 2^e. -/
def rne32 (neg : Bool) (num den : Nat) (e : Int) : F32 :=
  let p := roundMag num den e 24 (-149) .rne 0
  packF32 neg p.1 p.2

/-- The value of FP32 bits (R36). -/
def f32Val (x : F32) : Xv :=
  let n := x.toNat
  let neg := decide (0x80000000 ≤ n)
  let ex := (n >>> 23) % 256
  let f := n % 0x800000
  if ex = 255 then (if f = 0 then .inf neg else .nan)
  else if ex = 0 then .fin neg f (-149)
  else .fin neg (0x800000 + f) ((ex : Int) - 150)

/-- RNE_FP32 of an exact value; a NaN is canonical. -/
def valF32 : Xv → F32
  | .nan => f32NaN
  | .inf neg => f32Inf neg
  | .fin neg m e => rne32 neg m 1 e

/-- The exact sum of two dyadic numbers. -/
def dyAdd (a b : Dy) : Dy :=
  if a.m = 0 then b
  else if b.m = 0 then a
  else
    let e := min a.e b.e
    ⟨a.m * ((1 <<< (a.e - e).toNat : Nat) : Int) + b.m * ((1 <<< (b.e - e).toNat : Nat) : Int), e⟩

/-- The exact product of two dyadic numbers. -/
def dyMul (a b : Dy) : Dy := ⟨a.m * b.m, a.e + b.e⟩

/-- A signed magnitude as a dyadic number. -/
def dyOf (neg : Bool) (m : Nat) (e : Int) : Dy := ⟨if neg then -(m : Int) else (m : Int), e⟩

/-- RNE_FP32 of a dyadic number; an exact zero takes the sign `zneg`. -/
def dyF32 (zneg : Bool) (d : Dy) : F32 :=
  if d.m = 0 then packF32 zneg 0 0 else rne32 (decide (d.m < 0)) d.m.natAbs 1 d.e

/-- Whether `a` is below `b`, as exact numbers. -/
def dyLt (a b : Dy) : Bool := decide ((dyAdd a ⟨-b.m, b.e⟩).m < 0)

/-- The finite FP32 value as a dyadic number (0 for the others). -/
def f32Dy (x : F32) : Dy :=
  match f32Val x with
  | .fin neg m e => dyOf neg m e
  | _ => ⟨0, 0⟩

def f32Neg (x : F32) : Bool := x.msb
def f32IsNaN (x : F32) : Bool := match f32Val x with | .nan => true | _ => false
def f32IsInf (x : F32) : Bool := match f32Val x with | .inf _ => true | _ => false
def f32IsZero (x : F32) : Bool := match f32Val x with | .fin _ m _ => m == 0 | _ => false
def f32Finite (x : F32) : Bool := match f32Val x with | .fin _ _ _ => true | _ => false

/-- a × b + c of exact values, rounded once; IEEE rules for NaN, infinities and the sign of zero (R150). -/
def xvFma (a b c : Xv) : F32 :=
  match a, b, c with
  | .nan, _, _ => f32NaN
  | _, .nan, _ => f32NaN
  | _, _, .nan => f32NaN
  | .inf _, .fin _ 0 _, _ => f32NaN
  | .fin _ 0 _, .inf _, _ => f32NaN
  | .inf s, .inf t, c => infPlus (s != t) c
  | .inf s, .fin t _ _, c => infPlus (s != t) c
  | .fin s _ _, .inf t, c => infPlus (s != t) c
  | .fin _ _ _, .fin _ _ _, .inf u => f32Inf u
  | .fin s m e, .fin t n f, .fin u k g =>
    let p := dyOf (s != t) (m * n) (e + f)
    let d := dyAdd p (dyOf u k g)
    dyF32 ((s != t) && u) d
where
  /-- An infinite product plus the addend. -/
  infPlus (neg : Bool) : Xv → F32
    | .nan => f32NaN
    | .inf u => if u = neg then f32Inf neg else f32NaN
    | .fin _ _ _ => f32Inf neg

/-- FMA: a × b + c rounded once (R150). -/
def fma (a b c : F32) : F32 := xvFma (f32Val a) (f32Val b) (f32Val c)

/-- a + b rounded once (R150). -/
def fadd (a b : F32) : F32 :=
  match f32Val a, f32Val b with
  | .nan, _ => f32NaN
  | _, .nan => f32NaN
  | .inf s, .inf t => if s = t then f32Inf s else f32NaN
  | .inf s, .fin _ _ _ => f32Inf s
  | .fin _ _ _, .inf t => f32Inf t
  | .fin s m e, .fin t n f => dyF32 (s && t) (dyAdd (dyOf s m e) (dyOf t n f))

/-- a with its sign flipped; a NaN is canonical (R157). -/
def fneg (a : F32) : F32 := if f32IsNaN a then f32NaN else a ^^^ 0x80000000#32

/-- a with its sign cleared; a NaN is canonical (R157). -/
def fabs (a : F32) : F32 := if f32IsNaN a then f32NaN else a &&& 0x7FFFFFFF#32

/-- a − b rounded once (R150). -/
def fsub (a b : F32) : F32 := fadd a (fneg b)

/-- a × b rounded once (R150). -/
def fmul (a b : F32) : F32 :=
  match f32Val a, f32Val b with
  | .nan, _ => f32NaN
  | _, .nan => f32NaN
  | .inf s, .inf t => f32Inf (s != t)
  | .inf s, .fin t m _ => if m = 0 then f32NaN else f32Inf (s != t)
  | .fin s m _, .inf t => if m = 0 then f32NaN else f32Inf (s != t)
  | .fin s m e, .fin t n f => rne32 (s != t) (m * n) 1 (e + f)

/-- a / b rounded once (R150). -/
def fdiv (a b : F32) : F32 :=
  match f32Val a, f32Val b with
  | .nan, _ => f32NaN
  | _, .nan => f32NaN
  | .inf _, .inf _ => f32NaN
  | .inf s, .fin t _ _ => f32Inf (s != t)
  | .fin s _ _, .inf t => packF32 (s != t) 0 0
  | .fin s m e, .fin t n f =>
    if n = 0 then (if m = 0 then f32NaN else f32Inf (s != t))
    else rne32 (s != t) m n (e - f)

/-- Whether `a` is below `b`; −0 equals +0, and a comparison with a NaN is false. -/
def flt (a b : F32) : Bool :=
  match f32Val a, f32Val b with
  | .nan, _ => false
  | _, .nan => false
  | .inf s, .inf t => s && !t
  | .inf s, .fin _ _ _ => s
  | .fin _ _ _, .inf t => !t
  | .fin s m e, .fin t n f => dyLt (dyOf s m e) (dyOf t n f)

/-- Whether `a` is at or below `b`. -/
def fle (a b : F32) : Bool := !f32IsNaN a && !f32IsNaN b && !flt b a

/-- a = b as values: −0 equals +0, and NaN equals nothing. -/
def feq (a b : F32) : Bool := fle a b && fle b a

/-- MAX of R150: a NaN gives NaN, and MAX(−0, +0) is +0. -/
def fmax (a b : F32) : F32 :=
  if f32IsNaN a || f32IsNaN b then f32NaN
  else if flt a b then b
  else if flt b a then a
  else if f32Neg a then b else a

/-- MIN of R150: a NaN gives NaN, and MIN(−0, +0) is −0. -/
def fmin (a b : F32) : F32 :=
  if f32IsNaN a || f32IsNaN b then f32NaN
  else if flt a b then a
  else if flt b a then b
  else if f32Neg a then a else b

/-- The FP32 word of a natural number. -/
def f32OfNat (n : Nat) : F32 := rne32 false n 1 0

/-- two_sum of R65. -/
def twoSum (a b : F32) : F32 × F32 :=
  let s := fadd a b
  let bb := fsub s a
  (s, fadd (fsub a (fsub s bb)) (fsub b bb))

/-- fast_two_sum of R65. -/
def fastTwoSum (a b : F32) : F32 × F32 :=
  let s := fadd a b
  (s, fsub b (fsub s a))

/-- pair_add of R65; a pair whose hi is infinity or NaN has lo = +0. -/
def pairAdd (x y : Pair) : Pair :=
  let s := twoSum x.hi y.hi
  let t := twoSum x.lo y.lo
  let v := fastTwoSum s.1 (fadd s.2 t.1)
  let z := fastTwoSum v.1 (fadd t.2 v.2)
  if f32Finite z.1 then ⟨z.1, z.2⟩ else ⟨z.1, f32Zero⟩

/-- The chunk result as a pair by R64: hi = RNE(x), lo = RNE(x − hi), and +0 where x − hi is zero or hi is not
finite. `zneg` is the sign that an exact zero takes. -/
def pairOfDy (zneg : Bool) (d : Dy) : Pair :=
  let hi := dyF32 zneg d
  if f32Finite hi then
    let h := f32Dy hi
    ⟨hi, dyF32 false (dyAdd d ⟨-h.m, h.e⟩)⟩
  else ⟨hi, f32Zero⟩

end Sys2Proof
end

