-- ==== Sys2Proof/Machine/Formats.lean ====
section
/-! DEFINITION. The element formats of R12, R36 and R37, their packing by R41, their decoding by R48, and the
scale modes of R13 and R43 to R46. -/
namespace Sys2Proof

/-- The operand and storage formats of R12. `cb i` is codebook format i, 0 to 13. -/
inductive Fmt where
  | fp32 | fp32pair | bf16 | fp16 | e4m3 | e5m2 | e3m2 | e2m3 | e2m1
  | int4 | cb (i : Nat) | int8 | uint8 | uint10 | int2 | ternary | int16
deriving DecidableEq, Repr, Inhabited

/-- The format a 6-bit code names; none for an unlisted code (R12). -/
def fmtOfCode (c : Nat) : Option Fmt :=
  if c = 0x00 then some .fp32
  else if c = 0x01 then some .fp32pair
  else if c = 0x02 then some .bf16
  else if c = 0x03 then some .fp16
  else if c = 0x08 then some .e4m3
  else if c = 0x09 then some .e5m2
  else if c = 0x0C then some .e3m2
  else if c = 0x0D then some .e2m3
  else if c = 0x10 then some .e2m1
  else if c = 0x11 then some .int4
  else if 0x12 ≤ c ∧ c ≤ 0x1F then some (.cb (c - 0x12))
  else if c = 0x20 then some .int8
  else if c = 0x21 then some .uint8
  else if c = 0x22 then some .uint10
  else if c = 0x24 then some .int2
  else if c = 0x25 then some .ternary
  else if c = 0x28 then some .int16
  else none

/-- The code of a format (R12). -/
def Fmt.code : Fmt → Nat
  | .fp32 => 0x00 | .fp32pair => 0x01 | .bf16 => 0x02 | .fp16 => 0x03 | .e4m3 => 0x08 | .e5m2 => 0x09
  | .e3m2 => 0x0C | .e2m3 => 0x0D | .e2m1 => 0x10 | .int4 => 0x11 | .cb i => 0x12 + i | .int8 => 0x20
  | .uint8 => 0x21 | .uint10 => 0x22 | .int2 => 0x24 | .ternary => 0x25 | .int16 => 0x28

/-- The width of an element in bits (R36, R37). -/
def Fmt.width : Fmt → Nat
  | .fp32 => 32 | .fp32pair => 64 | .bf16 => 16 | .fp16 => 16 | .e4m3 => 8 | .e5m2 => 8
  | .e3m2 => 6 | .e2m3 => 6 | .e2m1 => 4 | .int4 => 4 | .cb _ => 4 | .int8 => 8
  | .uint8 => 8 | .uint10 => 16 | .int2 => 2 | .ternary => 2 | .int16 => 16

/-- How the all-ones exponent reads (R36): infinity and NaN, the one NaN of E4M3, or finite values only. -/
inductive TopExp where
  | infNaN
  | nanOnly
  | finite
deriving DecidableEq, Repr

/-- The encoding of a float format (R36). -/
structure FloatFmt where
  ebits : Nat
  bias : Int
  mbits : Nat
  top : TopExp
deriving DecidableEq, Repr

/-- The float encodings of R36; none for the other formats. -/
def Fmt.float : Fmt → Option FloatFmt
  | .fp32 => some ⟨8, 127, 23, .infNaN⟩
  | .bf16 => some ⟨8, 127, 7, .infNaN⟩
  | .fp16 => some ⟨5, 15, 10, .infNaN⟩
  | .e5m2 => some ⟨5, 15, 2, .infNaN⟩
  | .e4m3 => some ⟨4, 7, 3, .nanOnly⟩
  | .e3m2 => some ⟨3, 3, 2, .finite⟩
  | .e2m3 => some ⟨2, 1, 3, .finite⟩
  | .e2m1 => some ⟨2, 1, 1, .finite⟩
  | _ => none

/-- The range of an integer format (R37); none for the other formats. -/
def Fmt.intRange : Fmt → Option (Int × Int)
  | .int8 => some (-128, 127)
  | .uint8 => some (0, 255)
  | .int4 => some (-8, 7)
  | .int2 => some (-2, 1)
  | .ternary => some (-1, 1)
  | .uint10 => some (0, 1023)
  | .int16 => some (-32768, 32767)
  | _ => none

/-- The exponent of the smallest unit of a float format: subnormals are f × 2^this (R48). -/
def FloatFmt.qmin (f : FloatFmt) : Int := 1 - f.bias - (f.mbits : Int)

/-- The value of a float code (R36, R48). -/
def FloatFmt.val (f : FloatFmt) (c : Nat) : Xv :=
  let neg := decide ((c >>> (f.ebits + f.mbits)) % 2 = 1)
  let ex := (c >>> f.mbits) % pow2 f.ebits
  let m := c % pow2 f.mbits
  let topE := pow2 f.ebits - 1
  if ex = 0 then .fin neg m f.qmin
  else if ex = topE ∧ f.top = .infNaN then (if m = 0 then .inf neg else .nan)
  else if ex = topE ∧ f.top = .nanOnly ∧ m = pow2 f.mbits - 1 then .nan
  else .fin neg (pow2 f.mbits + m) ((ex : Int) - f.bias - (f.mbits : Int))

/-- The largest finite magnitude of a float format, as m × 2^e (R36). -/
def FloatFmt.maxMag (f : FloatFmt) : Nat × Int :=
  let topE := pow2 f.ebits - 1
  match f.top with
  | .infNaN => (pow2 (f.mbits + 1) - 1, (topE : Int) - 1 - f.bias - (f.mbits : Int))
  | .nanOnly => (pow2 (f.mbits + 1) - 2, (topE : Int) - f.bias - (f.mbits : Int))
  | .finite => (pow2 (f.mbits + 1) - 1, (topE : Int) - f.bias - (f.mbits : Int))

/-- The code of sign and magnitude m × 2^q, a value of the format (R36). -/
def FloatFmt.pack (f : FloatFmt) (neg : Bool) (m : Nat) (q : Int) : Nat :=
  let s := if neg then pow2 (f.ebits + f.mbits) else 0
  if m = 0 then s
  else
    let l := Nat.log2 m
    let ex : Int := (l : Int) + q
    if ex < 1 - f.bias then s + (fracShift m (q - f.qmin)).1
    else
      let sig := if f.mbits ≤ l then m >>> (l - f.mbits) else m <<< (f.mbits - l)
      s + (((ex + f.bias).toNat) <<< f.mbits) + (sig - pow2 f.mbits)

/-- The codes of infinity and of the canonical NaN of a float format (R61). -/
def FloatFmt.infCode (f : FloatFmt) (neg : Bool) : Nat :=
  (if neg then pow2 (f.ebits + f.mbits) else 0) + ((pow2 f.ebits - 1) <<< f.mbits)

/-- The canonical NaN of R61: 0x7FC0_0000, 0x7FC0, 0x7E00, 0x7E and 0x7F. -/
def FloatFmt.nanCode (f : FloatFmt) : Nat :=
  match f.top with
  | .infNaN => ((pow2 f.ebits - 1) <<< f.mbits) + pow2 (f.mbits - 1)
  | .nanOnly => ((pow2 f.ebits - 1) <<< f.mbits) + (pow2 f.mbits - 1)
  | .finite => 0

/-- A w-bit code as a two's-complement integer (R37). -/
def signedOf (w c : Nat) : Int := if c < pow2 (w - 1) then (c : Int) else (c : Int) - (pow2 w : Int)

/-- An integer as an exact value; SIGN = 1 when it is negative (R48). -/
def xvOfInt (v : Int) : Xv := .fin (decide (v < 0)) v.natAbs 0

/-- A word in the layout of R47 as a value; CLASS 11 reads as NaN and never occurs in a valid word. -/
def xvOfCif (w : W32) : Xv :=
  let n := w.toNat
  let cls := (n >>> 23) % 4
  let neg := decide ((n >>> 22) % 2 = 1)
  if cls = 0 then .fin neg ((n >>> 11) % 2048) (signedOf 9 (n % 512))
  else if cls = 1 then .inf neg
  else .nan

/-- Whether a word in the layout of R47 has CLASS 11 or a non-zero reserved bit (R47, R117). -/
def cifInvalid (w : W32) : Bool :=
  let n := w.toNat
  decide (n >>> 25 ≠ 0) || decide ((n >>> 9) % 4 ≠ 0) || decide ((n >>> 23) % 4 = 3)

/-- The decoder (R48): the value of an element code, and whether it counts in CD_CONV_BADCODE (the ternary code 10,
which reads as 0, R38). A codebook element is the entry of `tab` at its index; an FP32 pair reads as its hi. -/
def decodeElem (f : Fmt) (tab : List W32) (c : Nat) : Xv × Bool :=
  match f with
  | .cb _ => (xvOfCif (tab.getD (c % 16) 0), false)
  | .fp32pair => (f32Val (BitVec.ofNat 32 c), false)
  | .int8 => (xvOfInt (signedOf 8 (c % 256)), false)
  | .int4 => (xvOfInt (signedOf 4 (c % 16)), false)
  | .int2 => (xvOfInt (signedOf 2 (c % 4)), false)
  | .int16 => (xvOfInt (signedOf 16 (c % 65536)), false)
  | .uint8 => (.fin false (c % 256) 0, false)
  | .uint10 => (.fin false (c % 1024) 0, false)
  | .ternary =>
    if c % 4 = 1 then (.fin false 1 0, false)
    else if c % 4 = 3 then (.fin true 1 0, false)
    else if c % 4 = 2 then (.fin false 0 0, true)
    else (.fin false 0 0, false)
  | f =>
    match f.float with
    | some ff => (ff.val (c % pow2 f.width), false)
    | none => (.fin false 0 0, false)

/-- The scale modes of R13. -/
inductive SMode where
  | none
  | tensor
  | e8m0
  | two
deriving DecidableEq, Repr, Inhabited

/-- The scale mode of a 2-bit code (R13). -/
def smodeOf (n : Nat) : SMode :=
  if n % 4 = 0 then .none else if n % 4 = 1 then .tensor else if n % 4 = 2 then .e8m0 else .two

/-- The elements of a scale block: 32 under mode 2, 16 under mode 3 (R43). -/
def SMode.block : SMode → Nat
  | .two => 16
  | _ => 32

/-- Whether a mode carries one scale byte per block (R43). -/
def SMode.blocked : SMode → Bool
  | .e8m0 => true
  | .two => true
  | _ => false

/-- Whether a mode reads the per-tensor scale (R43). -/
def SMode.perTensor : SMode → Bool
  | .tensor => true
  | .two => true
  | _ => false

/-- The pairs of format and scale mode that R43 accepts. -/
def smodeOk (f : Fmt) (m : SMode) : Bool :=
  match m with
  | .none => true
  | .tensor => f != .fp32pair
  | .e8m0 =>
    match f with
    | .e4m3 | .e5m2 | .e3m2 | .e2m3 | .e2m1 | .int8 | .int4 | .cb _ | .int2 | .ternary => true
    | _ => false
  | .two =>
    match f with
    | .e2m1 | .int4 | .cb _ => true
    | _ => false

/-- The value of a block-scale byte (R44): an E8M0 power of two, or an E4M3 value with its sign ignored. -/
def scaleVal (m : SMode) (b : Nat) : Xv :=
  match m with
  | .e8m0 => if b % 256 = 255 then .nan else .fin false 1 ((b % 256 : Nat) - 127)
  | .two => (⟨4, 7, 3, .nanOnly⟩ : FloatFmt).val (b % 128)
  | _ => .fin false 1 0

/-- The conversion specifier of R54. -/
structure Conv where
  fmt : Fmt
  smode : SMode
  rnd : Rnd
  satInf : Bool
  stream : Nat
deriving DecidableEq, Repr, Inhabited

/-- The rounding mode of a 2-bit code (R54). -/
def rndOf (n : Nat) : Rnd :=
  if n % 4 = 0 then .rne else if n % 4 = 1 then .rtz else if n % 4 = 2 then .sr else .rna

/-- A conversion specifier read from its word; none when its code is unlisted, a reserved bit is set, or R43 refuses
the pair of format and scale mode (R12, R43, R54). -/
def convOf (w : W32) : Option Conv :=
  let n := w.toNat
  if n >>> 16 ≠ 0 ∨ (n >>> 11) % 2 ≠ 0 then none
  else
    match fmtOfCode (n % 64) with
    | none => none
    | some f =>
      let m := smodeOf (n >>> 6)
      if smodeOk f m then
        some ⟨f, m, rndOf (n >>> 8), decide ((n >>> 10) % 2 = 1), (n >>> 12) % 16⟩
      else none

/-- The stored length in bytes of a row of `n` elements (R41, R42). -/
def rowBytes (f : Fmt) (n : Nat) : Nat :=
  match f.width with
  | 6 => (n + 3) / 4 * 3
  | w => (n * w + 7) / 8

/-- The number of elements that a row of `f` must be a multiple of (R42). -/
def Fmt.group (f : Fmt) : Nat :=
  match f.width with
  | 6 => 4
  | 4 => 2
  | 2 => 4
  | _ => 1

/-- The rate class of an operand format (R73); FP32 and INT16 are split into passes by R88. -/
def Fmt.rateClass : Fmt → Nat
  | .int2 | .ternary => 1
  | .e2m1 | .int4 | .cb _ => 2
  | .e3m2 | .e2m3 => 3
  | .e4m3 | .e5m2 | .int8 | .uint8 => 4
  | _ => 5

/-- The clocks that a chunk of a rate class takes (R73). -/
def chunkClocks (cls : Nat) : Nat :=
  if cls = 1 then 4 else if cls = 2 then 8 else if cls = 3 then 16 else if cls = 4 then 32 else 64

/-- One part of a split operand element: its power-of-two weight and its value (R39, R88, R90). -/
structure Part where
  shift : Nat
  val : Xv
  lo : Bool
deriving DecidableEq, Repr, Inhabited

/-- a rounded toward zero to BF16, and the remainder rounded to nearest even in BF16 (R90). -/
def splitF32 (a : F32) : Xv × Xv :=
  match f32Val a with
  | .nan => (.nan, .fin false 0 0)
  | .inf s => (.inf s, .fin false 0 0)
  | .fin s m e =>
    let p := roundMag m 1 e 8 (-133) .rtz 0
    let hi := Xv.fin s p.1 p.2
    let rest := dyAdd (dyOf false m e) ⟨-(p.1 : Int), p.2⟩
    let q := roundMag rest.m.natAbs 1 rest.e 8 (-133) .rne 0
    -- a significand that rounds up to 256 is 128 at the next exponent, as BF16 encodes it (R48)
    (hi, if q.1 = 256 then .fin s 128 (q.2 + 1) else .fin s q.1 q.2)

/-- The parts of an operand element (R39, R88, R90): INT16 splits into hi × 2^8 and lo, FP32 into two BF16 parts, and
every other element is its own single part. A padding word that stands in for an INT16 element is split by its SIG alone,
its EXP read as 0 (DESIGN CHOICE, log 114: R88 and R117 say nothing of a word with another EXP). -/
def elemParts (f : Fmt) (v : Xv) : List Part :=
  match f, v with
  | .int16, .fin s m _ =>
    let i : Int := if s then -(m : Int) else m
    let hi := i / 256
    let lo := i % 256
    [⟨8, xvOfInt hi, false⟩, ⟨0, xvOfInt lo, true⟩]
  | .fp32, v =>
    let p := splitF32 (valF32 v)
    [⟨0, p.1, false⟩, ⟨0, p.2, true⟩]
  | _, v => [⟨0, v, false⟩]

/-- Whether the pass of two parts, low ones or not, is formed: FP32 × FP32 omits lo × lo (R88, R90). -/
def passFormed (fa fb : Fmt) (alo blo : Bool) : Bool :=
  !(fa == .fp32 && fb == .fp32 && alo && blo)

/-- The clocks of one chunk of a product, all passes of R88 at the class of their parts (R73, R74). -/
def productChunkClocks (fa fb : Fmt) (complex : Nat) : Nat :=
  let wide (f : Fmt) : Bool := f == .fp32 || f == .int16
  let cls (f : Fmt) : Nat := if f == .int16 then 4 else f.rateClass
  let passes : Nat :=
    if fa == .fp32 && fb == .fp32 then 3
    else (if wide fa then 2 else 1) * (if wide fb then 2 else 1)
  let planes : Nat := if complex = 1 then 4 else if complex = 2 then 3 else 1
  chunkClocks (max (cls fa) (cls fb)) * passes * planes

end Sys2Proof
end

