-- ==== Sys2Proof/Machine/Convert.lean ====
section
/-! DEFINITION. The converter and the scaled reads of the load path (R44, R46, R55 to R62), and the packing of
elements in bytes (R41). -/
namespace Sys2Proof

/-- What one conversion adds to the counters of R68: saturated elements, overflows written as infinity, NaNs written
as 0 and NaN-scaled blocks written, bad codes and NaN-scaled blocks read, and elements rounded under SR. -/
structure Cnt where
  sat : Nat := 0
  inf : Nat := 0
  nan : Nat := 0
  bad : Nat := 0
  sr : Nat := 0
deriving DecidableEq, Repr, Inhabited

def Cnt.add (a b : Cnt) : Cnt := ⟨a.sat + b.sat, a.inf + b.inf, a.nan + b.nan, a.bad + b.bad, a.sr + b.sr⟩

/-- The saturation count that R62 compares at an output tile. -/
def Cnt.guard (c : Cnt) : Nat := c.sat + c.inf

/-- What the converter takes: FP32 bits, an FP32 pair, or a decoded element of another format. -/
inductive Src where
  | f32 (b : F32)
  | pair (p : Pair)
  | elem (f : Fmt) (v : Xv)
deriving DecidableEq, Repr, Inhabited

/-- The value that the converter converts: hi of a pair (R67). -/
def Src.val : Src → Xv
  | .f32 b => f32Val b
  | .pair p => f32Val p.hi
  | .elem _ v => v

/-- The value as FP32 (R46, R67). -/
def Src.f32Bits : Src → F32
  | .f32 b => b
  | .pair p => p.hi
  | .elem _ v => valF32 v

/-- The format that the source carries. -/
def Src.fmt : Src → Fmt
  | .f32 _ => .fp32
  | .pair _ => .fp32pair
  | .elem f _ => f

/-- Whether magnitude a.1 × 2^a.2 is at or below b.1 × 2^b.2. -/
def magLe (a b : Nat × Int) : Bool := !dyLt ⟨b.1, b.2⟩ ⟨a.1, a.2⟩

/-- Whether two magnitudes are equal. -/
def magEq (a b : Nat × Int) : Bool := magLe a b && magLe b a

/-- The w-bit two's-complement code of an integer. -/
def codeOfInt (w : Nat) (v : Int) : Nat := (v % (pow2 w : Int)).toNat

/-! ### Codebook targets -/

/-- A codebook entry: its index, its sign and its magnitude. -/
structure CbEntry where
  idx : Nat
  neg : Bool
  mag : Nat × Int
deriving DecidableEq, Repr

/-- The entries of a codebook table, in index order (R49). -/
def cbEntries (tab : List W32) : List CbEntry :=
  (List.range 16).map fun i =>
    match xvOfCif (tab.getD i 0) with
    | .fin neg m e => ⟨i, neg, (m, e)⟩
    | _ => ⟨i, false, (0, 0)⟩

/-- The entry of extreme magnitude, the first of its kind: the smallest when `small`, else the largest. -/
def cbExtreme (small : Bool) : List CbEntry → Option CbEntry
  | [] => none
  | x :: xs =>
    match cbExtreme small xs with
    | none => some x
    | some y =>
      if (if small then magLe x.mag y.mag else magLe y.mag x.mag) then some x else some y

/-- Among the candidates equal in magnitude to `c`, the one whose sign is the value's, lowest index first; else the
lowest index (R58, duplicate entries). -/
def cbPick (cands : List CbEntry) (neg : Bool) (c : CbEntry) : Nat :=
  let same := cands.filter (fun x => magEq x.mag c.mag)
  match same.find? (fun x => x.neg == neg) with
  | some x => x.idx
  | none => (same.headD c).idx

/-- A finite magnitude (−1)^neg × m × 2^e into a codebook (R58, R60): the index and whether it saturates. -/
def cbRound (tab : List W32) (rnd : Rnd) (r : Nat) (neg : Bool) (mag : Nat × Int) : Nat × Bool :=
  let es := cbEntries tab
  let cands := es.filter (fun x => x.neg == neg || x.mag.1 == 0)
  match cbExtreme false (cands.filter (fun x => magLe x.mag mag)),
        cbExtreme true (cands.filter (fun x => magLe mag x.mag)) with
  | none, none => (((cbExtreme true es).map (·.idx)).getD 0, true)
  | none, some hi => (cbPick cands neg hi, false)
  | some lo, none => (cbPick cands neg lo, true)
  | some lo, some hi =>
    if magEq lo.mag hi.mag then (cbPick cands neg lo, false)
    else
      let d := dyAdd ⟨mag.1, mag.2⟩ ⟨-(lo.mag.1 : Int), lo.mag.2⟩
      let g := dyAdd ⟨hi.mag.1, hi.mag.2⟩ ⟨-(lo.mag.1 : Int), lo.mag.2⟩
      let e := min d.e g.e
      let rem := d.m.natAbs <<< (d.e - e).toNat
      let den := g.m.natAbs <<< (g.e - e).toNat
      -- a tie goes to the neighbour of smaller magnitude under RNE, which is also the zero entry; RNA takes the
      -- non-zero entry of larger magnitude
      let up :=
        match rnd with
        | .rne => decide (den < 2 * rem)
        | rnd => roundsUp rnd 0 rem den r
      (cbPick cands neg (if up then hi else lo), false)

/-- The index written for an infinity (R59). -/
def cbInf (tab : List W32) (neg : Bool) : Nat :=
  let es := cbEntries tab
  let cands := es.filter (fun x => x.neg == neg || x.mag.1 == 0)
  match cbExtreme false cands with
  | some hi => cbPick cands neg hi
  | none => ((cbExtreme true es).map (·.idx)).getD 0

/-- The index written for +0 (R61): the entry that R58 gives the value +0. -/
def cbZero (tab : List W32) : Nat := (cbRound tab .rne 0 false (0, 0)).1

/-- The largest magnitude of a table (R56). -/
def cbMax (tab : List W32) : Nat × Int :=
  ((cbExtreme false (cbEntries tab)).map (·.mag)).getD (0, 0)

/-! ### One element -/

/-- The largest finite magnitude F of a target (R56). For the signed integers it is the end that both signs reach. -/
def Fmt.bigF (f : Fmt) (tab : List W32) : Nat × Int :=
  match f with
  | .cb _ => cbMax tab
  | f =>
    match f.float, f.intRange with
    | some ff, _ => ff.maxMag
    | none, some r => (r.2.toNat, 0)
    | none, none => (1, 0)

/-- Whether the target has infinity (R36). -/
def Fmt.hasInf (f : Fmt) : Bool :=
  match f.float with
  | some ff => ff.top == .infNaN
  | none => false

/-- The saturated code of a float or integer target, and its counts (R59): infinity where the target has it and
SAT_INF = 0, else the end of the range on the source's side. -/
def satCode (f : Fmt) (satInf neg : Bool) : Nat × Cnt :=
  match f.float, f.intRange with
  | some ff, _ =>
    if ff.top == .infNaN && !satInf then (ff.infCode neg, { inf := 1 })
    else (ff.pack neg ff.maxMag.1 ff.maxMag.2, { sat := 1 })
  | none, some r => (codeOfInt f.width (if neg then r.1 else r.2), { sat := 1 })
  | none, none => (0, {})

/-- The converter on one value, into a format other than FP32 and FP32 pair (R58 to R62). `exact` marks a conversion
of R55, which ignores RND and SAT_INF and counts nothing. Every finite element that draws under SR counts as rounded, an
exactly representable one and a saturated one too (DESIGN CHOICE, log 49: R60 lets the former draw and counts "each element
rounded under SR"). -/
def convElem (f : Fmt) (tab : List W32) (rnd0 : Rnd) (satInf exact : Bool) (r : Nat) (v : Xv) : Nat × Cnt :=
  let rnd := if exact then Rnd.rne else rnd0
  let srN : Nat := if rnd == .sr then 1 else 0
  match f with
  | .cb _ =>
    match v with
    | .nan => (cbZero tab, { nan := 1 })
    | .inf s => (cbInf tab s, { sat := 1 })
    | .fin s m e =>
      let p := cbRound tab rnd r s (m, e)
      (p.1, { sat := if p.2 then 1 else 0, sr := srN })
  | f =>
    match f.float, f.intRange with
    | some ff, _ =>
      match v with
      | .nan => if ff.top == .finite then (0, { nan := 1 }) else (ff.nanCode, {})
      | .inf s => if exact then (ff.infCode s, {}) else satCode f satInf s
      | .fin s m e =>
        let p := roundMag m 1 e (ff.mbits + 1) ff.qmin rnd r
        if magLe p ff.maxMag then (ff.pack s p.1 p.2, { sr := srN })
        else
          let c := satCode f satInf s
          (c.1, { c.2 with sr := srN })
    | none, some rg =>
      match v with
      | .nan => (0, { nan := 1 })
      | .inf s => satCode f satInf s
      | .fin s m e =>
        -- an integer target has no exponent: its unit is 1 at every magnitude
        let sh := fracShift m e
        let w := sh.1 / sh.2
        let q := if roundsUp rnd w (sh.1 % sh.2) sh.2 r then w + 1 else w
        let i : Int := if s then -(q : Int) else q
        if rg.1 ≤ i ∧ i ≤ rg.2 then (codeOfInt f.width i, { sr := srN })
        else
          let c := satCode f satInf s
          (c.1, { c.2 with sr := srN })
    | none, none => (0, {})

/-- Whether a finite value is a value of the target. -/
def heldBy (f : Fmt) (tab : List W32) (v : Xv) : Bool :=
  match v with
  | .fin s m e =>
    match (decodeElem f tab (convElem f tab .rne true false 0 v).1).1 with
    | .fin s' m' e' => magEq (m, e) (m', e') && (m == 0 || s == s')
    | _ => false
  | _ => true

/-- Whether the target holds every value of the source exactly (R55). -/
def holdsAll (src dst : Fmt) (stab dtab : List W32) : Bool :=
  if src == dst then true
  else if dst == .fp32 || dst == .fp32pair then true
  else
    match src with
    | .fp32 | .fp32pair | .bf16 | .fp16 | .int16 => false
    | .uint10 => dst == .fp16 || dst == .int16
    | .e5m2 => dst == .bf16 || dst == .fp16
    | .e4m3 => dst == .bf16 || dst == .fp16
    | src => (List.range (pow2 src.width)).all fun c => heldBy dst dtab (decodeElem src stab c).1

/-- The elements of a conversion draw: RND is SR and the conversion is not exact by R55, which ignores RND (R60). -/
def Conv.draws (c : Conv) (src : Fmt) (stab dtab : List W32) : Bool :=
  c.rnd == .sr && c.fmt != .fp32 && c.fmt != .fp32pair && !(c.smode == .none && holdsAll src c.fmt stab dtab)

/-! ### A row -/

/-- ⌈log2 (a / b)⌉ of two positive magnitudes. -/
def ceilLog2 (a b : Nat × Int) : Int :=
  let l := ratLog2 a.1 b.1
  let s := fracShift b.1 l
  let exactly := decide (s.1 = a.1 * s.2)
  (if exactly then l else l + 1) + a.2 - b.2

/-- The magnitude that an element brings to amax; an infinity counts as the largest finite FP32 (R56, R61). -/
def amaxMag : Xv → Nat × Int
  | .fin _ m e => (m, e)
  | _ => (0xFFFFFF, 104)

def magMax (a b : Nat × Int) : Nat × Int := if magLe a b then b else a

/-- amax of a block (R56). -/
def amax (vs : List Xv) : Nat × Int := vs.foldl (fun a v => magMax a (amaxMag v)) (0, 0)

/-- The E8M0 scale byte of a block (R56). -/
def scaleByte2 (f : Fmt) (tab : List W32) (am : Nat × Int) : Nat :=
  let F := f.bigF tab
  if am.1 = 0 ∨ F.1 = 0 then 0x7F
  else (max (-127) (min 127 (ceilLog2 am F)) + 127).toNat

/-- The E4M3 scale byte of a block under the per-tensor scale T (R56): the smallest positive value with
amax ≤ s × T × F, else 448; 0 for a block whose amax is 0. -/
def scaleByte3 (f : Fmt) (tab : List W32) (t : F32) (am : Nat × Int) : Nat :=
  if am.1 = 0 then 0
  else
    let F := f.bigF tab
    let fits (c : Nat) : Bool :=
      match f32Val t, scaleVal .two c with
      | .inf false, _ => F.1 != 0
      | .fin false m e, .fin _ sm se => magLe am (sm * m * F.1, se + e + F.2)
      | _, _ => false
    (((List.range 126).map (· + 1)).find? fits).getD 126

/-- A pair in the form that the converter writes (R63): lo is +0 beside an infinite or NaN hi, and hi = RNE(hi + lo); a
pair that keeps the form stands. -/
def pairForm (p : Pair) : Pair :=
  if !f32Finite p.hi then ⟨p.hi, f32Zero⟩
  else if feq (fadd p.hi p.lo) p.hi then p
  else if f32Finite p.lo then pairOfDy (f32Neg p.hi && f32Neg p.lo) (dyAdd (f32Dy p.hi) (f32Dy p.lo))
  else ⟨fadd p.hi p.lo, f32Zero⟩

/-- The bits of a Src in FP32 or FP32 pair (R55, R63, R67): the identity and hi keep every bit; another format's NaN is
canonical. -/
def convWide (f : Fmt) (x : Src) : Nat :=
  match f, x with
  | .fp32pair, .pair p => (pairForm p).hi.toNat + ((pairForm p).lo.toNat <<< 32)
  | .fp32pair, x => (valF32 x.val).toNat
  | _, x => x.f32Bits.toNat

/-- x divided by d = T (mode 1) or d = s × T (mode 3) in FP32 (R57). -/
def divScaled (x : Src) (d : F32) : Src := .f32 (fdiv x.f32Bits d)

/-- The exact quotient x / 2^k (R57). -/
def divPow2 (k : Int) : Xv → Xv
  | .fin s m e => .fin s m (e - k)
  | v => v

/-- One element of a conversion without block scales, modes 0 and 1 (R55, R57). -/
def convPlain (c : Conv) (t : F32) (tab stab : List W32) (r : Nat) (x : Src) : Nat × Cnt :=
  let y := if c.smode == .tensor then divScaled x t else x
  match c.fmt with
  | .fp32 => (convWide .fp32 y, {})
  | .fp32pair => (convWide .fp32pair y, {})
  | f =>
    let exact := c.smode == .none && holdsAll x.fmt f stab tab
    convElem f tab c.rnd c.satInf exact r y.val

/-- The codes of one element list with their draws. -/
def convMap (g : Nat → Src → Nat × Cnt) : Nat → List Src → List Nat × Cnt
  | _, [] => ([], {})
  | i, x :: xs =>
    let p := g i x
    let q := convMap g (i + 1) xs
    (p.1 :: q.1, p.2.add q.2)

/-- A converted element whose saturation no counter counts (R118). -/
def hush (quiet : Bool) (p : Nat × Cnt) : Nat × Cnt := if quiet then (p.1, { p.2 with sat := 0 }) else p

/-- One block of a block-scaled target (R56, R57, R61): its codes, its scale byte and its counts. `i` is the index in
the row of the block's first element. -/
def convBlock (c : Conv) (t : F32) (tab : List W32) (draw : Nat → Nat) (quiet : Nat → Bool) (i : Nat) (xs : List Src) :
    List Nat × Nat × Cnt :=
  let vs := xs.map Src.val
  let zc : Nat := match c.fmt with | .cb _ => cbZero tab | _ => 0
  if vs.any (fun v => v == .nan) then
    (xs.map (fun _ => zc), if c.smode == .two then 0x7F else 0xFF, { nan := 1 })
  else
    let am := amax vs
    if c.smode == .two then
      let sb := scaleByte3 c.fmt tab t am
      let d := fmul (valF32 (scaleVal .two sb)) t
      let q := convMap (fun j x => hush (quiet j) (convElem c.fmt tab c.rnd c.satInf false (draw j) (divScaled x d).val)) i xs
      (q.1, sb, q.2)
    else
      let sb := scaleByte2 c.fmt tab am
      let q := convMap (fun j x =>
        hush (quiet j) (convElem c.fmt tab c.rnd c.satInf false (draw j) (divPow2 ((sb : Int) - 127) x.val))) i xs
      (q.1, sb, q.2)

/-- Whether a block-scale byte reads as NaN, which counts in CD_CONV_BADCODE for each block read (R44). -/
def scaleNaN (m : SMode) (sb : Nat) : Bool := m.blocked && scaleVal m sb == .nan

/-- The blocks of a row, by fuel. -/
def convBlocks (c : Conv) (t : F32) (tab : List W32) (draw : Nat → Nat) (quiet : Nat → Bool) :
    Nat → Nat → List Src → List Nat × List Nat × Cnt
  | 0, _, _ => ([], [], {})
  | _, _, [] => ([], [], {})
  | n + 1, i, xs =>
    let b := c.smode.block
    let p := convBlock c t tab draw quiet i (xs.take b)
    let q := convBlocks c t tab draw quiet n (i + b) (xs.drop b)
    (p.1 ++ q.1, p.2.1 :: q.2.1, p.2.2.add q.2.2)

/-- The converter on one row: codes, scale bytes and counts. `draw i` is r of element i of the row (R60); `tab` is
the target's codebook table and `stab` the source's; `quiet` names the padded positions, which no saturation counter
counts (R118). -/
def convRowPad (c : Conv) (t : F32) (tab stab : List W32) (draw : Nat → Nat) (quiet : Nat → Bool) (xs : List Src) :
    List Nat × List Nat × Cnt :=
  if c.smode.blocked then convBlocks c t tab draw quiet xs.length 0 xs
  else
    let q := convMap (fun i x => hush (quiet i) (convPlain c t tab stab (draw i) x)) 0 xs
    (q.1, [], q.2)

/-- The converter on a row without padded positions. -/
def convRow (c : Conv) (t : F32) (tab stab : List W32) (draw : Nat → Nat) (xs : List Src) :
    List Nat × List Nat × Cnt := convRowPad c t tab stab draw (fun _ => false) xs

/-! ### The scaled reads of the load path -/

/-- The exact product of two values. -/
def xvMul : Xv → Xv → Xv
  | .nan, _ => .nan
  | _, .nan => .nan
  | .inf s, .inf t => .inf (s != t)
  | .inf s, .fin t m _ => if m = 0 then .nan else .inf (s != t)
  | .fin s m _, .inf t => if m = 0 then .nan else .inf (s != t)
  | .fin s m e, .fin t n f => .fin (s != t) (m * n) (e + f)

/-- The value decoded × scale of R46, exact; a NaN block scale gives NaN and a zero E4M3 scale gives zero (R44). That zero
keeps the element's own sign, whatever the sign of the per-tensor scale (DESIGN CHOICE, log 29: R44 names no sign). -/
def scaledVal (m : SMode) (t : F32) (sb : Nat) (v : Xv) : Xv :=
  match m with
  | .none => v
  | .tensor => xvMul v (f32Val t)
  | .e8m0 => xvMul v (scaleVal .e8m0 sb)
  | .two =>
    match scaleVal .two sb, v with
    | .nan, _ => .nan
    | .fin _ 0 _, .fin s _ _ => .fin s 0 0
    | sv, v => xvMul v (xvMul sv (f32Val t))

/-- An element delivered in FP32 by the load path (R46): FP32 without a scale keeps its bits. -/
def loadF32 (f : Fmt) (m : SMode) (tab : List W32) (t : F32) (sb code : Nat) : F32 × Nat :=
  match f, m with
  | .fp32, .none => (BitVec.ofNat 32 code, 0)
  | .fp32pair, .none => (BitVec.ofNat 32 code, 0)
  | f, m =>
    let d := decodeElem f tab code
    (valF32 (scaledVal m t sb d.1), if d.2 then 1 else 0)

/-! ### Packing (R41) -/

/-- The little-endian number in a list of bytes. -/
def leNat : List Byte → Nat
  | [] => 0
  | b :: bs => b.toNat + 256 * leNat bs

/-- `n` little-endian bytes of a number. -/
def leBytes : Nat → Nat → List Byte
  | 0, _ => []
  | n + 1, v => BitVec.ofNat 8 (v % 256) :: leBytes n (v / 256)

/-- The code of element i of a packed row whose bytes `byteAt` reads (R41): the bits are numbered from the least
significant bit of the first byte. -/
def elemCode (f : Fmt) (byteAt : Nat → Byte) (i : Nat) : Nat :=
  let w := f.width
  let first := i * w / 8
  let n := (i * w % 8 + w + 7) / 8
  (leNat ((List.range n).map (fun j => byteAt (first + j))) >>> (i * w % 8)) % pow2 w

/-- The bytes of a packed row after element i takes `code`: (offset, byte) for each byte that holds a part of it; the
other bits of those bytes are kept (R41, R120). -/
def elemWrite (f : Fmt) (byteAt : Nat → Byte) (i code : Nat) : List (Nat × Byte) :=
  let w := f.width
  let first := i * w / 8
  let sh := i * w % 8
  let n := (sh + w + 7) / 8
  let old := leNat ((List.range n).map (fun j => byteAt (first + j)))
  let kept := old - ((old >>> sh) % pow2 w) <<< sh
  let bs := leBytes n (kept + (code % pow2 w) <<< sh)
  (List.range n).map (fun j => (first + j, bs.getD j 0))

end Sys2Proof
end

