-- ==== Sys2Proof/Machine/FuncTable.lean ====
section
/-! DEFINITION. Function tables: the descriptors of R188, their evaluation by R190 to R195, and the library of R196. -/
namespace Sys2Proof

/-- What evaluations add to the counters of R212, and the result slots they spend (R195). -/
structure FtCnt where
  limit : Nat := 0
  domain : Nat := 0
  undef : Nat := 0
  slots : Nat := 0
deriving DecidableEq, Repr, Inhabited

def FtCnt.add (a b : FtCnt) : FtCnt := ⟨a.limit + b.limit, a.domain + b.domain, a.undef + b.undef, a.slots + b.slots⟩

/-- The words of a bank: word `w` of descriptor `f`, and coefficient `c` of segment entry `i` (R186). -/
structure FtView where
  word : Nat → Nat → W32
  coef : Nat → Nat → W32

/-- A function descriptor (R188). -/
structure FnDesc where
  valid : Bool
  micro : Bool
  red : Nat
  quad : Bool
  sym : Bool
  odd : Bool
  dom : Bool
  idh : Bool
  phase : Bool
  bmode : Nat
  segW : Int
  segBase : Nat
  segCount : Nat
  lo : F32
  rc : F32
  xLo : F32
  yLo : F32
  xHi : F32
  yHi : F32
  small : F32
  smallK : F32
  k : List F32
  uops : List W32
deriving DecidableEq, Repr

/-- Bits [hi:lo] of a number. -/
def fld (n hi lo : Nat) : Nat := (n >>> lo) % pow2 (hi + 1 - lo)

/-- Bit i of a number. -/
def bit (n i : Nat) : Bool := (n >>> i) % 2 = 1

/-- The descriptor in words (R188). -/
def fnDesc (w : Nat → W32) : FnDesc :=
  let c := (w 0).toNat
  let s := (w 1).toNat
  { valid := bit c 31, micro := bit c 30, red := fld c 29 27, quad := bit c 26, sym := bit c 25, odd := bit c 24,
    dom := bit c 23, idh := bit c 22, phase := bit c 21, bmode := fld c 19 18,
    segW := (BitVec.ofNat 8 (fld c 15 8)).toInt,
    segBase := fld s 13 0, segCount := fld s 30 16,
    lo := w 2, rc := w 3, xLo := w 4, yLo := w 5, xHi := w 6, yHi := w 7, small := w 8, smallK := w 9,
    k := [w 16, w 17, w 18, w 19],
    uops := [w 20, w 21, w 22, w 23, w 24, w 25, w 26, w 27] }

/-- ⌊d⌋ and the fraction d − ⌊d⌋ of a dyadic number. -/
def dyFloor (d : Dy) : Int × Dy :=
  if 0 ≤ d.e then (d.m * (pow2 d.e.toNat : Int), ⟨0, 0⟩)
  else
    let p : Int := pow2 (-d.e).toNat
    (d.m / p, ⟨d.m % p, d.e⟩)

/-- v × 2^n rounded once (R190, t_scale). -/
def f32Scale (v : F32) (n : Int) : F32 :=
  match f32Val v with
  | .fin s m e => rne32 s m 1 (e + n)
  | x => valF32 x

/-- log2 e as a 64-bit significand of leading weight 2^0 (R191). -/
def log2eC : Dy := ⟨0xb8aa3b295c17f0bc, -63⟩

/-- 1/(2π) as a 192-bit significand of leading weight 2^-3 (R191). -/
def inv2piC : Dy := ⟨0xa2f9836e4e441529fc2757d1f534ddc0db6295993c439042, -194⟩

/-- A positive value as m × 2^e with m in [1, 2): (m − 1, e) (R191). -/
def binade (m : Nat) (e : Int) : Dy × Int :=
  let l := Nat.log2 m
  (⟨(m : Int) - (pow2 l : Int), -(l : Int)⟩, e + l)

/-- The table value at the reduced value u, measured from the interval's start (R191). -/
def tableAt (v : FtView) (d : FnDesc) (u : Dy) : F32 :=
  let q := dyFloor ⟨u.m, u.e - d.segW⟩
  let i := d.segBase + q.1.toNat
  let t := dyF32 false q.2
  if d.quad then fma (fma (v.coef i 2) t (v.coef i 1)) t (v.coef i 0)
  else fma (v.coef i 1) t (v.coef i 0)

/-- segment_value of R191. -/
def segmentValue (v : FtView) (slot : Nat) (d : FnDesc) (a : F32) : F32 :=
  match f32Val a with
  | .fin s m e =>
    let x := dyOf s m e
    if d.red = 1 ∨ d.red = 2 then
      let q := dyFloor (if d.red = 1 then x else dyMul x log2eC)
      f32Scale (tableAt v d q.2) q.1
    else if d.red = 3 ∨ d.red = 4 then
      if s = true ∨ m = 0 then Config.unstatedFn slot a
      else
        let b := binade m e
        if d.red = 3 then
          let y := tableAt v d b.1
          xvFma (.fin (decide (b.2 < 0)) b.2.natAbs 0) (f32Val d.rc) (f32Val y)
        else if d.bmode = 0 then f32Scale (tableAt v d b.1) (-b.2)
        else
          let y := tableAt v d (if b.2 % 2 = 1 then dyAdd b.1 ⟨1, 0⟩ else b.1)
          f32Scale y (if d.bmode = 1 then -(b.2 / 2) else b.2 / 2)
    else if d.red = 5 then
      let z := dyAdd (dyMul x inv2piC) (if d.phase then ⟨1, -2⟩ else ⟨0, 0⟩)
      tableAt v d (dyFloor z).2
    else
      let l := f32Dy d.lo
      tableAt v d (dyAdd x ⟨-l.m, l.e⟩)
  | _ => Config.unstatedFn slot a

/-- A NaN result is canonical (R190). -/
def canonNaN (r : F32) : F32 := if f32IsNaN r then f32NaN else r

/-- evaluate of R190, with `body` for the value between the limits. -/
def evalWith (d : FnDesc) (body : F32 → F32 → F32 × FtCnt) (x : F32) : F32 × FtCnt :=
  if !d.valid then (f32NaN, { undef := 1, slots := 1 })
  else if f32IsNaN x then (f32NaN, { slots := 1 })
  else
    let a := if d.sym then fabs x else x
    if d.dom && flt a d.xLo then (f32NaN, { domain := 1, slots := 1 })
    else
      let r : F32 × FtCnt :=
        if fle a d.xLo then (d.yLo, { limit := 1, slots := 1 })
        else if fle d.xHi a then (if d.idh then a else d.yHi, { limit := 1, slots := 1 })
        else if flt (fabs a) d.small then (fmul a d.smallK, { slots := 1 })
        else body a x
      let y := if d.sym && d.odd && f32Neg x then r.1 ^^^ 0x80000000#32 else r.1
      (canonNaN y, r.2)

/-- Evaluation of a KIND 0 function in full (R190, R194). -/
def evalTab (v : FtView) (f : Nat) (x : F32) : F32 × FtCnt :=
  let d := fnDesc (v.word f)
  evalWith d (fun a _ => (segmentValue v f d a, { slots := 1 })) x

/-- A source of a micro-operation (R193). -/
def uopSrc (d : FnDesc) (x : F32) (u : List F32) (c : Nat) (neg : Bool) : F32 :=
  let s : F32 :=
    if c = 0 then x
    else if c ≤ 4 then u.getD (c - 1) 0
    else if c ≤ 8 then d.k.getD (c - 5) 0
    else if c = 9 then f32Zero
    else f32One
  if neg then fneg s else s

/-- The micro-program of a KIND 1 function (R193, R194): it stops at the first END or after UOP7. -/
def runMicro (v : FtView) (d : FnDesc) (x : F32) : List W32 → List F32 → FtCnt → F32 × FtCnt
  | [], u, c => (u.getD 0 0, c)
  | w :: ws, u, c =>
    let n := w.toNat
    let op := fld n 31 28
    if op = 0 then (u.getD 0 0, c)
    else
      let a := uopSrc d x u (fld n 25 22) (bit n 13)
      let b := uopSrc d x u (fld n 21 18) (bit n 12)
      let e := uopSrc d x u (fld n 17 14) (bit n 11)
      let r : F32 × FtCnt :=
        if op = 1 then (fmul a b, {})
        else if op = 2 then (fadd a b, {})
        else if op = 3 then (fma a b e, {})
        else if op = 4 then
          let q := evalTab v (fld n 5 0) a
          (q.1, { q.2 with slots := 0 })
        else if op = 5 then (fmin a b, {})
        else if op = 6 then (fmax a b, {})
        else (f32NaN, {})
      runMicro v d x ws (u.set (fld n 27 26) r.1) ((c.add r.2).add { slots := 1 })

/-- Function `f` applied to `x` from a bank (R190). -/
def evalFn (v : FtView) (f : Nat) (x : F32) : F32 × FtCnt :=
  let d := fnDesc (v.word f)
  if d.micro then
    evalWith d (fun _ x => runMicro v d x d.uops [f32Zero, f32Zero, f32Zero, f32Zero] {}) x
  else evalTab v f x

/-! ### Validity of a descriptor (R188, R192 to R194) -/

/-- The SMALL, LO and limit words as dyadic sums used by R192. -/
def segSpan (d : FnDesc) : Dy := ⟨(d.segCount : Int), d.segW⟩

/-- Whether two dyadic numbers are equal. -/
def dyEq (a b : Dy) : Bool := decide ((dyAdd a ⟨-b.m, b.e⟩).m = 0)

/-- A KIND 0 descriptor is valid by R192. -/
def kind0Ok (d : FnDesc) : Bool :=
  let halves := d.red == 4 && (d.bmode == 1 || d.bmode == 2)
  decide (1 ≤ d.segCount) && decide (d.segBase + d.segCount ≤ 16384) && decide (d.red ≤ 5) && d.bmode != 3 &&
  (d.red == 0 || dyEq (segSpan d) (if halves then ⟨2, 0⟩ else ⟨1, 0⟩)) &&
  (d.red != 0 ||
    (f32Finite d.lo && (if d.sym then d.lo == f32Zero else fle d.lo d.xLo) && f32Finite d.xHi &&
      !dyLt (dyAdd (f32Dy d.lo) (segSpan d)) (f32Dy d.xHi))) &&
  flt d.xLo d.xHi && (!halves || d.segCount % 2 == 0)

/-- Which sources a micro-operation reads (R193): the mask of a, b and c. -/
def uopReads (op : Nat) : Bool × Bool × Bool :=
  if op = 3 then (true, true, true) else if op = 4 then (true, false, false) else (true, true, false)

/-- A micro-operation word is well formed (R193). `kind0 f` says that slot f holds a valid KIND 0 function. -/
def uopOk (kind0 : Nat → Bool) (w : W32) : Bool :=
  let n := w.toNat
  let op := fld n 31 28
  let r := uopReads op
  let src (reads : Bool) (c : Nat) (neg : Bool) : Bool := if reads then decide (c ≤ 10) else c == 0 && !neg
  decide (1 ≤ op) && decide (op ≤ 6) && fld n 10 6 == 0 &&
  src r.1 (fld n 25 22) (bit n 13) && src r.2.1 (fld n 21 18) (bit n 12) && src r.2.2 (fld n 17 14) (bit n 11) &&
  (if op == 4 then kind0 (fld n 5 0) else fld n 5 0 == 0)

/-- A micro-program is well formed (R194): at least one operation before the first END, and zero words after it. -/
def microOk (kind0 : Nat → Bool) : List W32 → Bool
  | [] => true
  | w :: ws => if fld w.toNat 31 28 = 0 then (w :: ws).all (· == 0#32) else uopOk kind0 w && microOk kind0 ws

/-- The reserved offsets and bits of a descriptor are 0 (R188), whether it is valid or not. -/
def descReservedOk (w : Nat → W32) : Bool :=
  let c := (w 0).toNat
  let s := (w 1).toNat
  !bit c 20 && fld c 17 16 == 0 && fld c 7 0 == 0 && !bit s 31 && fld s 15 14 == 0 &&
  ([10, 11, 12, 13, 14, 15, 28, 29, 30, 31].all fun i => w i == 0#32)

/-- A KIND 1 descriptor clears the table fields (R188). -/
def microClear (w : Nat → W32) (d : FnDesc) : Bool :=
  d.red == 0 && !d.quad && !d.phase && d.bmode == 0 && fld (w 0).toNat 15 8 == 0 &&
  ([1, 2, 3].all fun i => w i == 0#32)

/-- A written descriptor keeps R188, R192 and R194; one with VALID = 0 removes its function, and only its reserved offsets
and bits are looked at. -/
def descOk (kind0 : Nat → Bool) (w : Nat → W32) : Bool :=
  let d := fnDesc w
  descReservedOk w &&
    (!d.valid ||
      (if d.micro then microClear w d && fld (w 20).toNat 31 28 != 0 && microOk kind0 d.uops else kind0Ok d))

/-! ### The library (R196) -/

/-- The descriptor control word of a library slot as R196 gives it. -/
def libCtrl (micro : Bool) (red : Nat) (sym odd dom idh phase : Bool) (bmode : Nat) (segW : Int) : W32 :=
  let b (x : Bool) (i : Nat) : Nat := if x then pow2 i else 0
  BitVec.ofNat 32 (pow2 31 + b micro 30 + red <<< 27 + b (!micro) 26 + b sym 25 + b odd 24 + b dom 23 + b idh 22 +
    b phase 21 + bmode <<< 18 + ((segW % 256).toNat <<< 8))

/-- The segment ranges of the library, each under the first slot that uses it, with its count (R196). -/
def libRanges : List (Nat × Nat) :=
  [(0, 1024), (2, 1024), (3, 1024), (4, 512), (5, 512), (6, 512), (7, 1024), (8, 1024), (9, 1024), (10, 1024), (12, 768)]

/-- The first segment entry of the range of slot `f`: the ranges stand one after the other in the data file's order, and fill
entries 0 to 9,471 (R196). -/
def libBase (fw f : Nat) : Nat :=
  (libRanges.filter fun r =>
    decide (Config.libOrder fw r.1 < Config.libOrder fw f) ||
      (Config.libOrder fw r.1 == Config.libOrder fw f && decide (r.1 < f))).foldl (fun n r => n + r.2) 0

/-- The limit words of a tabulated library function: LO, RC, X_LO, Y_LO, X_HI, Y_HI, SMALL, SMALL_K (R196). -/
def libRow (fw base count : Nat) (ctrl : W32) (ws : List W32) (w : Nat) : W32 :=
  if w = 0 then ctrl
  else if w = 1 then BitVec.ofNat 32 (libBase fw base + count <<< 16)
  else if w < 10 then ws.getD (w - 2) 0
  else 0

/-- A micro-program of the library (R196): the limits X_LO, Y_LO, X_HI and Y_HI, the constants and the operations of its form.
A limit that the table does not name is an infinity with the value that the program itself approaches there, as in the
descriptor of slot 15 and in those of TANH and ERF (DEDUCED, log 130). -/
def libMicro (sym : Bool) (lims ks uops : List W32) (w : Nat) : W32 :=
  if w = 0 then libCtrl true 0 sym false false false false 0 0
  else if w < 4 then 0
  else if w < 8 then lims.getD (w - 4) 0
  else if w < 16 then 0
  else if w < 20 then ks.getD (w - 16) 0
  else uops.getD (w - 20) 0

/-- The last two operations of slot 35: x·φ(x) from u1 = e^(−x²/2), with φ's factor applied to u1, to x, or last. The form of R196
does not order them, and each takes eight operations in all. -/
def geluTail (fw : Nat) : List W32 :=
  match Config.geluForm fw % 3 with
  | 0 => [0x149C0000#32, 0x30084000#32]
  | 1 => [0x181C0000#32, 0x30C84000#32]
  | _ => [0x14800000#32, 0x309C4000#32]

/-- Word `w` of library descriptor `f` (R196). Slots 16 to 31 and 36 to 63 are empty. -/
def libDesc (fw f w : Nat) : W32 :=
  let z := 0#32
  let pInf := 0x7F800000#32
  let nInf := 0xFF800000#32
  let one := 0x3F800000#32
  let half := 0x3F000000#32
  match f with
  | 0 => libRow fw 0 1024 (libCtrl false 1 false false false false false 0 (-10))
      [z, z, 0xC3160000#32, z, 0x43000000#32, pInf, z, z] w
  | 1 => libRow fw 0 1024 (libCtrl false 2 false false false false false 0 (-10))
      [z, z, 0xC2D00000#32, z, 0x42B20000#32, pInf, z, z] w
  | 2 => libRow fw 2 1024 (libCtrl false 3 false false true false false 0 (-10))
      [z, one, z, nInf, pInf, pInf, z, z] w
  | 3 => libRow fw 3 1024 (libCtrl false 3 false false true false false 0 (-10))
      [z, 0x3F317218#32, z, nInf, pInf, pInf, z, z] w
  | 4 => libRow fw 4 512 (libCtrl false 4 true true false false false 0 (-9))
      [z, z, z, pInf, pInf, z, z, z] w
  | 5 => libRow fw 5 512 (libCtrl false 4 false false true false false 1 (-8))
      [z, z, z, pInf, pInf, z, z, z] w
  | 6 => libRow fw 6 512 (libCtrl false 4 false false true false false 2 (-8))
      [z, z, z, z, pInf, pInf, z, z] w
  | 7 => libRow fw 7 1024 (libCtrl false 0 false false false false false 0 (-4))
      [0xC2000000#32, z, 0xC2000000#32, z, 0x42000000#32, one, z, z] w
  | 8 => libRow fw 8 1024 (libCtrl false 0 true true false false false 0 (-6))
      [z, z, nInf, z, 0x41800000#32, one, 0x39800000#32, one] w
  | 9 => libRow fw 9 1024 (libCtrl false 0 true true false false false 0 (-8))
      [z, z, nInf, z, 0x40800000#32, one, 0x39800000#32, 0x3F906EBB#32] w
  | 10 => libRow fw 10 1024 (libCtrl false 5 true true false false false 0 (-10))
      [z, z, nInf, z, pInf, f32NaN, 0x39800000#32, one] w
  | 11 => libRow fw 10 1024 (libCtrl false 5 true false false false true 0 (-10))
      [z, z, nInf, z, pInf, f32NaN, z, z] w
  | 12 => libRow fw 12 768 (libCtrl false 0 false false false true false 0 (-4))
      [0xC2000000#32, z, 0xC2000000#32, z, 0x41800000#32, z, z, z] w
  | 13 => libMicro false [0xC2000000#32, z, pInf, pInf] [] [0x40000007#32, 0x10040000#32] w
  | 14 => libMicro false [0xC1800000#32, z, pInf, pInf] [0x3F3504F3#32, half]
      [0x10140000#32, 0x40400009#32, 0x30598000#32, 0x10400000#32] w
  | 15 =>
    if w = 0 then 0xC0000000#32
    else
      ([0, 0, 0, 0xC1800000, z, pInf, pInf, z, 0, 0, 0, 0, 0, 0, 0, 0x3D372713, 0x3F4C422A, 0x3F000000, 0,
        0x10000000, 0x30568000, 0x10400000, 0x10580000, 0x40400008, 0x305DC000, 0x10400000, 0x00000000] :
          List W32).getD (w - 1) 0
  | 32 => libMicro true [nInf, z, 0x42000000#32, z] [] [0x40000007#32, 0x30446000#32] w
  | 33 => libMicro true [nInf, z, 0x41800000#32, z] [] [0x40000008#32, 0x3046A000#32] w
  | 34 => libMicro false [0xC2000000#32, z, 0x42000000#32, one] [] [0x44000007#32, 0x22881000#32, 0x30068000#32, 0x10480000#32] w
  | 35 => libMicro false [0xC1800000#32, z, 0x41800000#32, one] [0x3F3504F3#32, half, 0x3ECC422A#32]
      ([0x10140000#32, 0x40400009#32, 0x30598000#32, 0x14000000#32, 0x14981000#32, 0x44800001#32] ++ geluTail fw) w
  | _ => 0

/-- Coefficient `c` of library segment entry `i`: the data file's bits. A coefficient is finite (R200), and c0 of the
first EXP2 entry is 1, since EXP(±0) = 1 exactly (R196). -/
def libSeg (fw i c : Nat) : W32 :=
  if i = libBase fw 0 ∧ c = 0 then f32One
  else if f32Finite (Config.libCoef fw i c) then Config.libCoef fw i c
  else f32Zero

/-- The library of firmware version `fw` as a bank (R196, R198). -/
def libView (fw : Nat) : FtView := ⟨libDesc fw, libSeg fw⟩

/-! ### Row statistics (R207 to R210) -/

/-- What a statistic adds to the counters of R212. -/
structure StatCnt where
  clamp : Nat := 0
  nonfinite : Nat := 0
  ft : FtCnt := {}
deriving DecidableEq, Repr, Inhabited

/-- norm of R207: s0, s1 and counts. -/
def statNorm (v : FtView) (xs : List F32) (eps : F32) : F32 × F32 × StatCnt :=
  let c := xs.headD f32Zero
  let n := f32OfNat xs.length
  let p := xs.foldl (fun (p : Pair × Pair) x =>
    let d := fsub x c
    let q := fmul d d
    (pairAdd p.1 ⟨d, f32Zero⟩, pairAdd p.2 ⟨q, fma d d (fneg q)⟩)) (⟨f32Zero, f32Zero⟩, ⟨f32Zero, f32Zero⟩)
  let s1 := p.1.hi
  let s2 := p.2.hi
  let va := fdiv (fsub s2 (fdiv (fmul s1 s1) n)) n
  let clamp := flt va f32Zero
  let va := if clamp || f32IsZero va then f32Zero else va
  let mean := fadd c (fdiv s1 n)
  let r := evalFn v 5 (fadd va eps)
  (mean, r.1, { clamp := if clamp then 1 else 0, ft := r.2 })

/-- rms of R207. -/
def statRms (v : FtView) (xs : List F32) (eps : F32) : F32 × F32 × StatCnt :=
  let n := f32OfNat xs.length
  let p := xs.foldl (fun (p : Pair) x =>
    let q := fmul x x
    pairAdd p ⟨q, fma x x (fneg q)⟩) ⟨f32Zero, f32Zero⟩
  let r := evalFn v 5 (fadd (fdiv p.hi n) eps)
  (f32Zero, r.1, { ft := r.2 })

/-- max of R207. -/
def rowMax : List F32 → F32
  | [] => f32Zero
  | x :: xs => xs.foldl fmax x

/-- softmax of R207, with the infinite maximum of R209. -/
def statSoftmax (v : FtView) (xs : List F32) : F32 × F32 × StatCnt :=
  let m := rowMax xs
  let q := xs.foldl (fun (p : Pair × FtCnt) x =>
    let e := evalFn v 1 (fsub x m)
    (pairAdd p.1 ⟨e.1, f32Zero⟩, p.2.add e.2)) (⟨f32Zero, f32Zero⟩, {})
  let r := evalFn v 4 q.1.hi
  (m, if f32IsInf m then f32NaN else r.1, { ft := q.2.add r.2 })

/-- The row statistic of kind `kind` (R171) by the routine of R207, whose evaluations are made for every row, with the special
values of R209 in place of its results: s0, s1 and counts. -/
def rowStat (v : FtView) (kind : Nat) (xs : List F32) (eps : F32) : F32 × F32 × StatCnt :=
  let r : F32 × F32 × StatCnt :=
    if kind = 0 then statNorm v xs eps
    else if kind = 1 then statRms v xs eps
    else if kind = 2 then (rowMax xs, f32Zero, {})
    else statSoftmax v xs
  let bad := xs.any f32IsNaN || (decide (kind ≤ 1) && xs.any f32IsInf)
  let s0 := if bad then f32NaN else r.1
  let s1 := if bad then f32NaN else r.2.1
  (s0, s1, { r.2.2 with nonfinite := if f32IsNaN s0 || f32IsNaN s1 then 1 else 0 })

end Sys2Proof
end

