-- ==== Sys2Proof/Machine/Chain.lean ====
section
/-! DEFINITION. Chain programs: their words (R153 to R156), their checks (R160, R162, R163) and their execution on the
lanes (R150, R157 to R161, R170, R171, R176). -/
namespace Sys2Proof

/-- An instruction word of a chain (R155). -/
structure Inst where
  op : Nat
  rd : Nat
  sa : Nat
  sb : Nat
  sc : Nat
  rs : Nat
  aux : Nat
deriving DecidableEq, Repr, Inhabited

/-- An instruction names argument i: reads it, or writes it by STO. -/
def Inst.names (x : Inst) (i : Nat) : Bool :=
  x.sa == 8 + i || x.sb == 8 + i || x.sc == 8 + i || (x.op == 0x21 && x.aux == i)

/-- The instruction in a word (R155). -/
def instOf (w : W32) : Inst :=
  let n := w.toNat
  ⟨fld n 31 26, fld n 25 23, fld n 22 18, fld n 17 13, fld n 12 8, fld n 7 6, fld n 5 0⟩

/-- A chain program read from its bytes (R153, R154). A specifier word is kept as it stands beside its T. -/
structure ChainProg where
  cfg : W32
  inSpec : W32
  inT : F32
  specs : List (W32 × F32)
  eps : F32
  reservedOk : Bool
  insts : List Inst
deriving DecidableEq, Repr, Inhabited

def ChainProg.len (p : ChainProg) : Nat := fld p.cfg.toNat 5 0
def ChainProg.role (p : ChainProg) : Nat := fld p.cfg.toNat 9 8
def ChainProg.glu (p : ChainProg) : Bool := bit p.cfg.toNat 10
def ChainProg.defer (p : ChainProg) : Bool := bit p.cfg.toNat 11

/-- The program whose 32-bit words `w` reads (R153, R154). -/
def chainOf (w : Nat → W32) : ChainProg :=
  let c := w 0
  { cfg := c, inSpec := w 1, inT := w 2, specs := [(w 3, w 4), (w 5, w 6), (w 7, w 8)], eps := w 9,
    reservedOk := fld c.toNat 31 12 == 0 && fld c.toNat 7 6 == 0 &&
      ([10, 11, 12, 13, 14, 15].all fun i => w i == 0#32),
    insts := (List.range (fld c.toNat 5 0)).map fun i => instOf (w (16 + i)) }

/-- The kinds of a chain argument (R163). -/
inductive ArgKind where
  | unused
  | col
  | row
  | elem
  | imm
  | elemOut
deriving DecidableEq, Repr, Inhabited

/-- An entry of the argument table (R163). -/
structure ChainArg where
  addr : Nat
  conv : W32
  t : F32
  stride : Nat
  bstride : Nat
  kind : ArgKind
  ok : Bool
deriving DecidableEq, Repr, Inhabited

/-- The kind that a byte names; none for a reserved value (R163). -/
def argKindOf (n : Nat) : Option ArgKind :=
  if n = 0 then some .unused else if n = 1 then some .col else if n = 2 then some .row
  else if n = 3 then some .elem else if n = 4 then some .imm else if n = 5 then some .elemOut else none

/-- The conversion of an argument: scale modes 0 and 1 only (R163). -/
def ChainArg.cv (a : ChainArg) : Option Conv :=
  match convOf a.conv with
  | some c => if c.smode.blocked then none else some c
  | none => none

/-- The argument in the eight 32-bit words `w` (R163); `ok` says that the entry keeps the table. -/
def chainArgOf (w : Nat → W32) : ChainArg :=
  let addr := (w 0).toNat + (w 1).toNat <<< 32
  let k := (w 6).toNat % 256
  let kind := (argKindOf k).getD .unused
  let a : ChainArg := ⟨addr, w 2, w 3, (w 4).toNat, (w 5).toNat, kind, true⟩
  let tensorOk := decide (addr % 64 = 0) && a.cv.isSome
  let ok := (argKindOf k).isSome && decide ((w 6).toNat / 256 = 0) && w 7 == 0#32 &&
    (match kind with
      | .unused => true
      | .imm => w 1 == 0#32
      | .elem => tensorOk && decide ((w 4).toNat % 64 = 0)
      | .elemOut => tensorOk && decide ((w 4).toNat % 64 = 0)
      | _ => tensorOk)
  { a with ok := ok }

/-- Whether argument i is readable (R162): of kind COL, ROW, ELEM or IMM. -/
def argReadable (args : List ChainArg) (i : Nat) : Bool :=
  match (args.getD i default).kind with
  | .col | .row | .elem | .imm => true
  | _ => false

/-- Whether argument i is in FP32 pair format (R157). -/
def argIsPair (args : List ChainArg) (i : Nat) : Bool :=
  let a := args.getD i default
  match a.kind with
  | .imm => false
  | _ => match a.cv with | some c => c.fmt == .fp32pair | none => false

/-- Where an opcode reads a, b and c (R157); none for a reserved opcode. -/
def opReads (op : Nat) : Option (Bool × Bool × Bool) :=
  if op = 0x01 ∨ op = 0x09 ∨ op = 0x0A ∨ op = 0x10 ∨ op = 0x21 then some (true, false, false)
  else if op = 0x02 ∨ op = 0x03 ∨ op = 0x04 ∨ op = 0x06 ∨ op = 0x07 ∨ op = 0x11 ∨ op = 0x18 ∨ op = 0x28 then
    some (true, true, false)
  else if op = 0x05 ∨ op = 0x08 then some (true, true, true)
  else if op = 0x20 then some (false, false, false)
  else none

/-- Lane slots per element of an opcode (R157). -/
def opSlots (op : Nat) : Nat :=
  if op = 0x10 then 4 else if op = 0x11 then 2 else if op = 0x20 then 2 else if op = 0x28 then 20 else 1

/-- Whether an opcode is permitted in a role: 0 epilogue, 1 prologue, 2 vector program (R157). -/
def opRole (op role : Nat) : Bool :=
  if op = 0x18 ∨ op = 0x21 then role != 1 else if op = 0x20 then role == 0 else true

/-- A specifier that IN_SPEC or a stage accepts (R160). -/
def stageSpecOk (isIn : Bool) (w : W32) : Bool :=
  match convOf w with
  | none => false
  | some c => !c.smode.blocked && c.rnd != .sr && c.fmt != .int16 && (isIn || c.fmt != .fp32pair)

/-- Whether one instruction keeps R162. `stat` says that a STAT stands before it. -/
def instOk (role : Nat) (args : List ChainArg) (specs : List (W32 × F32)) (stat : Bool) (i : Inst) : Bool :=
  match opReads i.op with
  | none => false
  | some (ra, rb, rc) =>
    let src (reads : Bool) (c : Nat) : Bool :=
      if !reads then c == 0
      else if c < 8 then true
      else if c < 16 then argReadable args (c - 8)
      else if c < 20 then stat
      else c == 0x14 || c == 0x15
    opRole i.op role && src ra i.sa && src rb i.sb && src rc i.sc &&
    (i.rs == 0 || (stageSpecOk false (specs.getD (i.rs - 1) default).1 && i.op != 0x20 && i.op != 0x21 && i.op != 0x28)) &&
    (i.op != 0x28 ||
      (i.rd % 2 == 0 && i.sa % 2 == 0 && decide (i.sa < 8) &&
        ((decide (i.sb < 8) && i.sb % 2 == 0) || (decide (8 ≤ i.sb) && decide (i.sb < 16) && argIsPair args (i.sb - 8))))) &&
    (i.op != 0x21 || (decide (i.aux < 8) && (args.getD i.aux default).kind == .elemOut)) &&
    (i.op != 0x11 || decide (i.aux < 16)) &&
    (i.op != 0x20 || decide (i.aux < 4))

/-- The instructions of a program in order, each with what stood before it (R162). -/
def instsOk (role : Nat) (args : List ChainArg) (specs : List (W32 × F32)) : Bool → Option Inst → List Inst → Bool
  | _, _, [] => true
  | stat, prev, i :: is =>
    instOk role args specs stat i &&
    (i.op != 0x20 || (match prev with | none => true | some p => p.rs != 0)) &&
    instsOk role args specs (stat || i.op == 0x20) (some i) is

/-- The number of instructions of an opcode. -/
def opCount (op : Nat) (is : List Inst) : Nat := (is.filter (fun i => i.op == op)).length

/-- A chain program keeps R158 and R162 in a role. -/
def chainOk (role : Nat) (args : List ChainArg) (p : ChainProg) : Bool :=
  let x := opCount 0x18 p.insts
  let st := opCount 0x20 p.insts
  p.reservedOk && decide (1 ≤ p.len) && decide (p.len ≤ 48) && p.role == role &&
  stageSpecOk true p.inSpec && (role == 0 || p.inSpec == 0#32) &&
  instsOk role args p.specs false none p.insts &&
  decide (x ≤ 1) && (p.glu == (x == 1)) && decide (st ≤ 1) && (p.defer == (st == 1))

/-! ### Execution -/

/-- What a run of a chain collects: conversion counts, function counts, lane slots, the writes of STO as (argument,
FP32 value), and the evaluations of DROP as element indices. -/
structure ChainAcc where
  cnt : Cnt := {}
  ft : FtCnt := {}
  slots : Nat := 0
  stos : List (Nat × F32) := []
  drops : Nat := 0
deriving DecidableEq, Repr, Inhabited

def ChainAcc.add (a b : ChainAcc) : ChainAcc :=
  ⟨a.cnt.add b.cnt, a.ft.add b.ft, a.slots + b.slots, a.stos ++ b.stos, a.drops + b.drops⟩

/-- What an element's instructions can read (R151): arguments as (hi, lo), statistics of the row, the 24-bit draw of
a stream, a function of the bound bank, and the codebook tables of the die. -/
structure ChainEnv where
  arg : Nat → Pair
  stat : Nat → F32
  drop : Nat → Nat
  fn : Nat → F32 → F32 × FtCnt
  tab : Fmt → List W32

/-- A value converted by a specifier as the store path converts it and decoded as the load path would (R159). -/
def stageRound (tab : Fmt → List W32) (spec : W32) (t x : F32) : F32 × Cnt :=
  match convOf spec with
  | none => (x, {})
  | some c =>
    let tb := tab c.fmt
    let q := convPlain c t tb [] 0 (.f32 x)
    ((loadF32 c.fmt c.smode tb t 0 q.1).1, q.2)

/-- A source of an instruction (R156). -/
def chainSrc (e : ChainEnv) (v : List F32) (c : Nat) : F32 :=
  if c < 8 then v.getD c 0
  else if c < 16 then (e.arg (c - 8)).hi
  else if c < 20 then e.stat (c - 16)
  else if c = 0x15 then f32One
  else f32Zero

/-- A pair source of PADD (R157). -/
def chainPair (e : ChainEnv) (v : List F32) (c : Nat) : Pair :=
  if c < 8 then ⟨v.getD c 0, v.getD (c + 1) 0⟩ else e.arg (c - 8)

/-- DROP of R157: `d` is the 24-bit draw. -/
def dropVal (a p : F32) (d : Nat) : F32 :=
  if f32IsNaN p then f32NaN
  else if fle p f32Zero then canonNaN a
  else if fle f32One p then f32Zero
  else
    -- a draw below p × 2^24 drops the element
    if dyLt ⟨(d : Int), 0⟩ (dyMul (f32Dy p) ⟨1, 24⟩) then f32Zero
    else
      let q := dyAdd ⟨1, 0⟩ (let x := f32Dy p; ⟨-x.m, x.e⟩)
      fmul a (rne32 false 1 q.m.natAbs (-q.e))

/-- The result of an instruction other than STO, STAT, PADD and XMUL (R157). -/
def opResult (e : ChainEnv) (i : Inst) (a b c : F32) : F32 × FtCnt :=
  if i.op = 0x01 then (canonNaN a, {})
  else if i.op = 0x02 then (fadd a b, {})
  else if i.op = 0x03 then (fsub a b, {})
  else if i.op = 0x04 then (fmul a b, {})
  else if i.op = 0x05 then (fma a b c, {})
  else if i.op = 0x06 then (fmin a b, {})
  else if i.op = 0x07 then (fmax a b, {})
  else if i.op = 0x08 then (fmin (fmax a b) c, {})
  else if i.op = 0x09 then (fabs a, {})
  else if i.op = 0x0A then (fneg a, {})
  else if i.op = 0x10 then e.fn i.aux a
  else (dropVal a b (e.drop (i.aux % 16)), {})

/-- Writing a result, rounded by the stage that RS names (R159). -/
def writeRd (e : ChainEnv) (specs : List (W32 × F32)) (i : Inst) (v : List F32) (r : F32) : List F32 × Cnt :=
  if i.rs = 0 then (v.set i.rd r, {})
  else
    let s := specs.getD (i.rs - 1) default
    let q := stageRound e.tab s.1 s.2 r
    (v.set i.rd q.1, q.2)

/-- One instruction of one element; `pe` and `partner` are the partner's environment and registers, from which XMUL takes
its b (R157, R164, R170). -/
def chainStep (e pe : ChainEnv) (specs : List (W32 × F32)) (partner : List F32) (i : Inst) (v : List F32) :
    List F32 × ChainAcc :=
  let a := chainSrc e v i.sa
  let b := chainSrc e v i.sb
  let c := chainSrc e v i.sc
  if i.op = 0x21 then (v, { slots := opSlots i.op, stos := [(i.aux, a)] })
  else if i.op = 0x28 then
    let z := pairAdd (chainPair e v i.sa) (chainPair e v i.sb)
    ((v.set i.rd z.hi).set (i.rd + 1) z.lo, { slots := opSlots i.op })
  else
    let r : F32 × FtCnt := if i.op = 0x18 then (fmul a (chainSrc pe partner i.sb), {}) else opResult e i a b c
    let w := writeRd e specs i v r.1
    (w.1, { cnt := w.2, ft := r.2, slots := opSlots i.op, drops := if i.op = 0x11 then 1 else 0 })

/-- A straight run of instructions on one element, without an XMUL. -/
def chainRun (e : ChainEnv) (specs : List (W32 × F32)) : List Inst → List F32 → List F32 × ChainAcc
  | [], v => (v, {})
  | i :: is, v =>
    let p := chainStep e e specs [] i v
    let q := chainRun e specs is p.1
    (q.1, p.2.add q.2)

/-- The registers at entry (R158): v0 (and v1 in pair mode) rounded by IN_SPEC, the others +0. -/
def chainEntry (tab : Fmt → List W32) (p : ChainProg) (pairMode : Bool) (x : Pair) : List F32 × Cnt :=
  let z := List.replicate 6 f32Zero
  match convOf p.inSpec with
  | some ⟨.fp32pair, _, _, _, _⟩ => (x.hi :: (if pairMode then x.lo else f32Zero) :: z, {})
  | _ =>
    let q := stageRound tab p.inSpec p.inT x.hi
    (q.1 :: f32Zero :: z, q.2)

/-- Registers at the start of a post-part: v0 is the staged value (R171). -/
def postEntry (x : F32) : List F32 := x :: List.replicate 7 f32Zero

/-- The instructions before the STAT, and after it (R171). -/
def prePart (is : List Inst) : List Inst := is.takeWhile (fun i => i.op != 0x20)
def postPart (is : List Inst) : List Inst := (is.dropWhile (fun i => i.op != 0x20)).drop 1
def statKind (is : List Inst) : Nat := ((is.find? (fun i => i.op == 0x20)).map Inst.aux).getD 0

/-- The stage specifier and T in whose format the pre-part's v0 is staged (R171). -/
def stageSpec (p : ChainProg) : W32 × F32 :=
  match (prePart p.insts).getLast? with
  | some i => if i.rs = 0 then (p.inSpec, p.inT) else p.specs.getD (i.rs - 1) default
  | none => (p.inSpec, p.inT)

/-- A run of instructions without XMUL on one element. -/
def chainOne (e : ChainEnv) (p : ChainProg) (is : List Inst) (v : List F32) : List F32 × ChainAcc :=
  chainRun e p.specs is v

/-- A run of instructions that may hold an XMUL, on a gate element and its partner (R170): the instructions before it
run on both, and after it only the gate element continues, with the coordinates of `post`. What the two runs before
XMUL and the one from XMUL on collect stands apart. -/
def chainGlu (pre part post : ChainEnv) (p : ChainProg) (is : List Inst) (v w : List F32) :
    List F32 × ChainAcc × ChainAcc × ChainAcc :=
  let before := is.takeWhile (fun i => i.op != 0x18)
  let rest := is.dropWhile (fun i => i.op != 0x18)
  let g := chainRun pre p.specs before v
  let q := chainRun part p.specs before w
  match rest with
  | [] => (g.1, g.2, q.2, {})
  | x :: xs =>
    let m := chainStep pre part p.specs q.1 x g.1
    let r := chainRun post p.specs xs m.1
    (r.1, g.2, q.2, m.2.add r.2)

end Sys2Proof
end

