-- ==== Sys2Proof/Machine/Chunk.lean ====
section
/-! DEFINITION. The chunk sums of a cell (R81 to R85, R89, R596), the accumulators of R86, R87 and R91, and the
residues of the array check (R94). -/
namespace Sys2Proof

/-- A codebook value with its trailing zero bits moved into the exponent (R80), by fuel. -/
def cbNorm : Nat → Nat → Int → Nat × Int
  | 0, m, e => (m, e)
  | n + 1, m, e => if m ≠ 0 ∧ m % 2 = 0 then cbNorm n (m / 2) (e + 1) else (m, e)

/-- The element as the array takes it: a codebook entry in normalised form (R80). -/
def arrayVal (f : Fmt) (v : Xv) : Xv :=
  match f, v with
  | .cb _, .fin s m e => let p := cbNorm 11 m e; .fin s p.1 p.2
  | _, v => v

/-- A finite product (−1)^neg × p × 2^g of R81. -/
structure Term where
  neg : Bool
  p : Nat
  g : Int
deriving DecidableEq, Repr

/-- One unmasked product position: the product of the whole elements, by which R85 and the −0 of R84 are judged
(R596), and the finite pass products that enter the window (R88, R89). `hi` marks positions 16 to 31. -/
structure CellProd where
  hi : Bool
  whole : Xv
  terms : List Term
deriving DecidableEq, Repr

/-- The pass products of two elements (R88 to R90), each with its power-of-two weight; a non-finite pass product
enters no window (R596). `neg` negates the product (R91). -/
def prodTerms (fa fb : Fmt) (a b : Xv) (neg : Bool) : List Term :=
  (elemParts fa a).flatMap fun x =>
    (elemParts fb b).filterMap fun y =>
      if passFormed fa fb x.lo y.lo then
        match x.val, y.val with
        | .fin s m e, .fin t n f => some ⟨(s != t) != neg, m * n, e + f + (x.shift : Int) + (y.shift : Int)⟩
        | _, _ => none
      else none

/-- The negation of an exact value. -/
def xvNeg : Xv → Xv
  | .nan => .nan
  | .inf s => .inf !s
  | .fin s m e => .fin (!s) m e

/-- The product of one position (R81, R596). -/
def mkProd (hi : Bool) (fa fb : Fmt) (a b : Xv) (neg : Bool) : CellProd :=
  let a := arrayVal fa a
  let b := arrayVal fb b
  let w := xvMul a b
  ⟨hi, if neg then xvNeg w else w,
    match a, b with
    | .fin _ _ _, .fin _ _ _ => prodTerms fa fb a b neg
    | _, _ => []⟩

/-- The leading exponent g_L of R82: the largest g among the terms with P ≠ 0. -/
def leadExp (ts : List Term) : Option Int :=
  ts.foldl (fun a t => if t.p = 0 then a else
    match a with
    | none => some t.g
    | some g => some (max g t.g)) none

/-- A term truncated toward zero to a multiple of 2^lim, in units of 2^lim, and whether a non-zero bit is dropped. -/
def truncTerm (lim : Int) (t : Term) : Int × Bool :=
  let s := fracShift t.p (t.g - lim)
  let q := s.1 / s.2
  (if t.neg then -(q : Int) else (q : Int), s.1 % s.2 != 0)

/-- A chunk result before rounding: a NaN, an infinity, or an exact value with the sign that an exact zero takes. -/
inductive ChunkVal where
  | nan
  | inf (neg : Bool)
  | val (zneg : Bool) (d : Dy)
deriving DecidableEq, Repr

/-- Whether the products give NaN by R85. -/
def prodsNaN (ps : List CellProd) : Bool :=
  ps.any (fun p => p.whole == .nan) ||
    (ps.any (fun p => p.whole == .inf false) && ps.any (fun p => p.whole == .inf true))

/-- A finite block scale as a dyadic number. -/
def scaleDy : Xv → Dy
  | .fin s m e => dyOf s m e
  | _ => ⟨0, 0⟩

/-- The window of R82 shared by several groups of passes (R89): the leading exponent is taken over all of them, and
each group's sum is multiplied by its own block scales. -/
def groupSum (depth : Nat) (gs : List (Xv × List Term)) : Dy × Bool :=
  match leadExp (gs.flatMap Prod.snd) with
  | none => (⟨0, 0⟩, false)
  | some g =>
    let lim := g - (depth : Int)
    gs.foldl (fun acc p =>
      let ts := p.2.map (truncTerm lim)
      let n := (ts.map Prod.fst).foldl (· + ·) 0
      (dyAdd acc.1 (dyMul ⟨n, lim⟩ (scaleDy p.1)), acc.2 || ts.any Prod.snd)) (⟨0, 0⟩, false)

/-- The chunk result of several groups of products (R82 to R85, R89, R596); each group carries the scales of its two
halves. -/
def chunkValGroups (depth : Nat) (halves : Bool) (gs : List (Xv × Xv × List CellProd)) : ChunkVal × Bool :=
  let ps := gs.flatMap fun g => g.2.2
  let half (hi : Bool) : Dy × Bool :=
    groupSum depth (gs.map fun g => (if hi then g.2.1 else g.1, (g.2.2.filter (fun p => p.hi == hi)).flatMap CellProd.terms))
  let sums : Dy × Bool :=
    if halves then
      let a := half false
      let b := half true
      (dyAdd a.1 b.1, a.2 || b.2)
    else groupSum depth (gs.map fun g => (g.1, g.2.2.flatMap CellProd.terms))
  let v : ChunkVal :=
    if prodsNaN ps then .nan
    else
      match ps.find? (fun p => match p.whole with | .inf _ => true | _ => false) with
      | some ⟨_, .inf s, _⟩ => .inf s
      | _ =>
        let negz (p : CellProd) : Bool := match p.whole with | .fin true 0 _ => true | _ => false
        .val (!ps.isEmpty && ps.all negz) sums.1
  (v, sums.2)

/-- The chunk result of one group of products: `depth` is 48, or 96 where both operands are E5M2; with `halves` the two
half-chunk sums of scale mode 3 have their own windows and scales (R82, R84). -/
def chunkVal (depth : Nat) (halves : Bool) (s1 s2 : Xv) (ps : List CellProd) : ChunkVal × Bool :=
  chunkValGroups depth halves [(s1, s2, ps)]

/-- x of R84: the chunk result rounded once to FP32. -/
def ChunkVal.f32 : ChunkVal → F32
  | .nan => f32NaN
  | .inf s => f32Inf s
  | .val z d => dyF32 z d

/-- The chunk result as a pair (R64). -/
def ChunkVal.pair : ChunkVal → Pair
  | .nan => ⟨f32NaN, f32Zero⟩
  | .inf s => ⟨f32Inf s, f32Zero⟩
  | .val z d => pairOfDy z d

/-- The accumulator after one chunk (R86, R87). Outside pair mode the accumulator is the hi word. -/
def accStep (pairMode : Bool) (acc : Pair) (x : ChunkVal) : Pair :=
  if pairMode then pairAdd acc x.pair else ⟨fadd acc.hi x.f32, f32Zero⟩

/-- The addition of one split-K part to the running sum (R131). -/
def partAdd (pairMode : Bool) (t y : Pair) : Pair :=
  if pairMode then pairAdd t y else ⟨fadd t.hi y.hi, f32Zero⟩

/-- The drain factor of R86. -/
def drainFactor (ta tb : F32) : F32 := fmul ta tb

/-- The drain of one accumulator (R86, R87): scaled once where an operand carries a per-tensor scale. -/
def drainAcc (scaled : Option F32) (acc : Pair) : Pair :=
  match scaled with
  | some f => ⟨fmul acc.hi f, f32Zero⟩
  | none => acc

/-- RNE_FP32 of the sum or difference of two accumulators (R91). -/
def gaussPart (minus : Bool) (x y : Pair) : Pair :=
  if f32Finite x.hi && f32Finite y.hi && f32Finite x.lo && f32Finite y.lo then
    let sx := dyAdd (f32Dy x.hi) (f32Dy x.lo)
    let sy := dyAdd (f32Dy y.hi) (f32Dy y.lo)
    let d := dyAdd sx (if minus then ⟨-sy.m, sy.e⟩ else sy)
    let z := f32Neg x.hi && (f32Neg y.hi != minus)
    ⟨dyF32 z d, f32Zero⟩
  else ⟨if minus then fsub x.hi y.hi else fadd x.hi y.hi, f32Zero⟩

/-! ### Residues of the array check -/

/-- The residue ρ of (−1)^neg × p × 2^g modulo 65,535 (R94). -/
def residue (neg : Bool) (p : Nat) (g : Int) : Nat :=
  let r := p * pow2 (g % 16).toNat % 65535
  if neg then (65535 - r) % 65535 else r

/-- Addition of residues. -/
def resAdd (a b : Nat) : Nat := (a + b) % 65535

/-- The sum of a list of residues. -/
def resSum (rs : List Nat) : Nat := rs.foldl resAdd 0

/-- The residue of a cell's exact chunk sum (R94): of the window sum together with the bits that R82 dropped, which is the
sum over its terms, times the block scale 2^ex. -/
def cellResidue (ex : Int) (ps : List CellProd) : Nat :=
  resSum ((ps.flatMap CellProd.terms).map fun t => residue t.neg t.p (t.g + ex))

/-- The residues of an element's parts (R94): each with its pass weight and its block scale 2^ex; 0 for an infinity or a
NaN. The flag marks the low part. -/
def elemResidues (f : Fmt) (ex : Int) (v : Xv) : List (Bool × Nat) :=
  (elemParts f (arrayVal f v)).map fun p =>
    (p.lo, match p.val with
      | .fin s m e => residue s m (e + (p.shift : Int) + ex)
      | _ => 0)

/-- The load path's sums (R94): position by position and part by part, over the rows of a tile. -/
def sumResidues : List (List (List (Bool × Nat))) → List (List (Bool × Nat))
  | [] => []
  | [r] => r
  | r :: rs => List.zipWith (List.zipWith fun x y => (x.1, resAdd x.2 y.2)) r (sumResidues rs)

/-- A checksum-row or checksum-column cell (R94): the sum over the chunk of the products of two residues, over the passes
that are formed; `neg` negates (R91). -/
def checkCell (fa fb : Fmt) (neg : Bool) (xs ys : List (List (Bool × Nat))) : Nat :=
  let t := resSum (List.zipWith (fun x y => resSum (x.flatMap fun p => y.map fun q =>
    if passFormed fa fb p.1 q.1 then p.2 * q.2 % 65535 else 0)) xs ys)
  if neg then (65535 - t) % 65535 else t

/-- What an array check finds at the end of a chunk (R95, R111): KIND, ROW and COL of MXE_CHK_LAST from the rows and the
columns whose residues mismatch. ROW 128 is the checksum row, COL 128 the checksum column; 0xFF stands where several
mismatch on one side (DESIGN CHOICE, log 115: R95 locates single faults only). -/
def locateMismatch (rows cols : List Nat) : Option (Nat × Nat × Nat) :=
  if rows.isEmpty && cols.isEmpty then none
  else
    let one := fun (l : List Nat) => match l with
      | [] => 128
      | [x] => x
      | _ => 0xFF
    some (if rows.isEmpty || cols.isEmpty then 2 else 1, one rows, one cols)

end Sys2Proof
end

