-- ==== Sys2Proof/Machine/Kcg.lean ====
section
/-! DEFINITION. The counter-based generator KCG-128 and its counters (R290 to R295), and the warm-up generator
(R303). -/
namespace Sys2Proof

/-- Four 32-bit words: a key, a counter or an output of KCG-128 (R290). -/
structure Quad where
  x0 : W32
  x1 : W32
  x2 : W32
  x3 : W32
deriving DecidableEq, Repr, Inhabited

/-- Word i mod 5 of the key schedule (R290). -/
def kcgKey (k : Quad) (i : Nat) : W32 :=
  match i % 5 with
  | 0 => k.x0
  | 1 => k.x1
  | 2 => k.x2
  | 3 => k.x3
  | _ => k.x0 ^^^ k.x1 ^^^ k.x2 ^^^ k.x3 ^^^ 0x4B434731#32

/-- The rotation amounts ra and rb of R290. -/
def kcgRa (r : Nat) : Nat := match r % 4 with | 0 => 13 | 1 => 16 | 2 => 7 | _ => 24
def kcgRb (r : Nat) : Nat := match r % 4 with | 0 => 21 | 1 => 11 | 2 => 18 | _ => 5

/-- Round r of KCG-128 (R290). -/
def kcgRound (k : Quad) (r : Nat) (x : Quad) : Quad :=
  let a0 := x.x0 + x.x1
  let a1 := x.x1.rotateLeft (kcgRa r) ^^^ a0
  let a2 := x.x2 + x.x3
  let a3 := x.x3.rotateLeft (kcgRb r) ^^^ a2
  if r % 2 = 1 then
    let j := (r + 1) / 2
    ⟨a0 + kcgKey k j, a3 + kcgKey k (1 + j), a2 + kcgKey k (2 + j), a1 + kcgKey k (3 + j) + BitVec.ofNat 32 j⟩
  else ⟨a0, a3, a2, a1⟩

/-- kcg128(k, c) of R290. -/
def kcg128 (k c : Quad) : Quad :=
  let x : Quad := ⟨c.x0 + kcgKey k 0, c.x1 + kcgKey k 1, c.x2 + kcgKey k 2, c.x3 + kcgKey k 3⟩
  (List.range 10).foldl (fun x r => kcgRound k r x) x

/-- Word i of a value of the generator. -/
def Quad.word (q : Quad) (i : Nat) : W32 :=
  match i % 4 with
  | 0 => q.x0
  | 1 => q.x1
  | 2 => q.x2
  | _ => q.x3

/-- The key of stream s under a 64-bit seed (R291). -/
def streamKey (seed : W64) (s : Nat) : Quad :=
  kcg128 ⟨0x4B525954#32, 0x48444F52#32, 0x4F555838#32, 0x2D313238#32⟩
    ⟨seed.setWidth 32, (seed >>> 32).setWidth 32, BitVec.ofNat 32 s, 0x53454544#32⟩

/-- The counter of R293 for group g under a use code. -/
def drawCounter (use g tensorId rngStep : Nat) : Quad :=
  ⟨BitVec.ofNat 32 g, BitVec.ofNat 32 ((g >>> 32) % 65536 + use * 65536), BitVec.ofNat 32 tensorId,
    BitVec.ofNat 32 rngStep⟩

/-- The word of element e under a use that serves four elements by one counter value (R295). -/
def drawWord (key : Quad) (use tensorId rngStep e : Nat) : W32 :=
  (kcg128 key (drawCounter use (e / 4) tensorId rngStep)).word (e % 4)

/-- r of R60 for element e (R295). -/
def drawSr (key : Quad) (use tensorId rngStep e : Nat) : Nat := (drawWord key use tensorId rngStep e).toNat % 65536

/-- The 24 bits that DROP draws for element e (R157, R295). -/
def drawDrop (key : Quad) (tensorId rngStep e : Nat) : Nat :=
  (drawWord key 0x0010 tensorId rngStep e).toNat % 16777216

/-- The number of counter values that a run of element indices evaluates at four elements a value (R295). -/
def drawGroups (es : List Nat) : Nat := ((es.map (· / 4)).eraseDups).length

/-- One step of the 64-bit xorshift of the warm-up generator (R303). -/
def warmStep (x : W64) : W64 :=
  let a := x ^^^ (x <<< 13)
  let b := a ^^^ (a >>> 7)
  b ^^^ (b <<< 17)

end Sys2Proof
end

