-- ==== Sys2Proof/Machine/Flags.lean ====
section
/-! DEFINITION. The flags and the status of a completion (R395, R399). The module has no arithmetic flags. -/
namespace Sys2Proof.Machine
open Sys2Proof

/-- The set flag of a completion (R395): 0 ESCALATED, 1 CONCEALED, 2 RESTORED_XGRADE, 3 DEP_FAILED, 4 LATE. -/
def orFlag (flags i : Nat) : Nat := if bit flags i then flags else flags + pow2 i

/-- The status that is reported: ST_OK becomes ST_OK_FLAGGED with ESCALATED, CONCEALED or RESTORED_XGRADE (R399). -/
def finalStatus (status flags : Nat) : Nat := if status = 0 && flags % 8 ≠ 0 then 1 else status

end Sys2Proof.Machine
end

