-- ==== Sys2Proof/Machine/Sparse.lean ====
section
/-! DEFINITION. Reading and writing sparse tables, and their canonical form. -/
namespace Sys2Proof

/-- The word at key `a`; an unlisted key reads as `d`. -/
def Sparse.get {w : Nat} (d : BitVec w) : Sparse w → Nat → BitVec w
  | [], _ => d
  | (k, v) :: m, a => if k = a then v else if a < k then d else Sparse.get d m a

/-- Writing `v` at key `a`, keeping keys rising; writing `d`, which an unlisted key reads as, removes the entry. -/
def Sparse.set {w : Nat} (d : BitVec w) : Sparse w → Nat → BitVec w → Sparse w
  | [], a, v => if v = d then [] else [(a, v)]
  | (k, u) :: m, a, v =>
    if k = a then (if v = d then m else (a, v) :: m)
    else if a < k then (if v = d then (k, u) :: m else (a, v) :: (k, u) :: m)
    else (k, u) :: Sparse.set d m a v

/-- Every key of the table lies at or above `lo`, keys rise strictly, and no entry holds `d`. -/
def Sparse.wfFrom {w : Nat} (d : BitVec w) : Nat → Sparse w → Bool
  | _, [] => true
  | lo, (k, v) :: m => decide (lo ≤ k) && decide (v ≠ d) && Sparse.wfFrom d (k + 1) m

/-- The canonical form of a table whose unlisted keys read as `d`: equal tables are equal data. -/
def Sparse.wf {w : Nat} (d : BitVec w) (m : Sparse w) : Bool := Sparse.wfFrom d 0 m

/-- Words numbered from a key. -/
def Sparse.numbered {w : Nat} : Nat → List (BitVec w) → List (Nat × BitVec w)
  | _, [] => []
  | a, v :: vs => (a, v) :: Sparse.numbered (a + 1) vs

/-- Writing keyed words one by one, the first first. -/
def Sparse.setEach {w : Nat} (d : BitVec w) : Sparse w → List (Nat × BitVec w) → Sparse w
  | m, [] => m
  | m, (a, v) :: vs => Sparse.setEach d (Sparse.set d m a v) vs

/-- The keys of a list rise strictly. -/
def Sparse.rising {w : Nat} : List (Nat × BitVec w) → Bool
  | x :: y :: l => decide (x.1 < y.1) && Sparse.rising (y :: l)
  | _ => true

/-- The table without its first entry, where that has key `a`. -/
def Sparse.skip {w : Nat} (a : Nat) : Sparse w → Sparse w
  | [] => []
  | e :: m => if e.1 = a then m else e :: m

/-- An entry in front of a table, unless it holds what an unlisted key reads as. -/
def Sparse.put {w : Nat} (d : BitVec w) (a : Nat) (v : BitVec w) (m : Sparse w) : Sparse w := if v = d then m else (a, v) :: m

/-- Writing keyed words whose keys rise, in one pass over the table. -/
def Sparse.setRising {w : Nat} (d : BitVec w) : Sparse w → List (Nat × BitVec w) → Sparse w
  | m, [] => m
  | m, (a, v) :: vs =>
    m.takeWhile (fun e => decide (e.1 < a)) ++
      Sparse.put d a v (Sparse.setRising d (Sparse.skip a (m.dropWhile fun e => decide (e.1 < a))) vs)

/-- Writing a list of keyed words, the first first: in one pass where the keys rise. -/
def Sparse.setAll {w : Nat} (d : BitVec w) (m : Sparse w) (vs : List (Nat × BitVec w)) : Sparse w :=
  if Sparse.rising vs then Sparse.setRising d m vs else Sparse.setEach d m vs

/-- Writing a run of words at consecutive keys. -/
def Sparse.setList {w : Nat} (d : BitVec w) (m : Sparse w) (a : Nat) (vs : List (BitVec w)) : Sparse w :=
  Sparse.setAll d m (Sparse.numbered a vs)

/-- Reading `n` words at consecutive keys. -/
def Sparse.getList {w : Nat} (d : BitVec w) (m : Sparse w) (a n : Nat) : List (BitVec w) :=
  (List.range n).map (fun i => Sparse.get d m (a + i))

/-- The table without the entries whose key satisfies `p`: those keys read as `d` afterwards. -/
def Sparse.erase {w : Nat} (p : Nat → Bool) (m : Sparse w) : Sparse w :=
  m.filter (fun e => !p e.1)

end Sys2Proof
end

