-- ==== Sys2Proof/Machine/Regs.lean ====
section
/-! DEFINITION. The register map of BAR0 (R593 to R595): addresses, widths, the masks of the fields that a write
changes (R11), reset values, and what each snapshot register copies. -/
namespace Sys2Proof

/-- How a register is read (R11): its live value, its snapshot copy, or 0 (write only). -/
inductive RegClass where
  | live
  | snap
  | ctl
deriving DecidableEq, Repr

/-- Who owns a register, for R507: the module, partition `p` of the second index, or a compute die. -/
inductive RegOwner where
  | module
  | part
  | die
  | fn
deriving DecidableEq, Repr

/-- One register of the map: its base address, up to two (count, stride) indices, its width in bits, how it reads, the
masks of its RW, W1C, W1S and WONCE fields, and its reset value where the spec states one other than 0. -/
structure RegDef where
  name : String
  base : Nat
  d1 : Nat × Nat := (1, 1)
  d2 : Nat × Nat := (1, 1)
  width : Nat := 64
  cls : RegClass := .live
  owner : RegOwner := .module
  rw : Nat := 0
  w1c : Nat := 0
  w1s : Nat := 0
  wonce : Nat := 0
  reset : Nat := 0
deriving DecidableEq, Repr

/-- The mask of bits [hi:lo]. -/
def maskBits (hi lo : Nat) : Nat := (pow2 (hi + 1 - lo) - 1) <<< lo

/-- A run of 64-bit counters at consecutive addresses, as one indexed register (R595). -/
def ctrRun (name : String) (base n : Nat) (d1 : Nat × Nat) (owner : RegOwner) : RegDef :=
  { name := name, base := base, d1 := d1, d2 := (n, 8), cls := .snap, owner := owner }

/-- A snapshot control register in the layout of R183. -/
def snapCtl (name : String) (base : Nat) (d1 d2 : Nat × Nat) (owner : RegOwner) : RegDef :=
  { name := name, base := base, d1 := d1, d2 := d2, width := 32, cls := .ctl, owner := owner }

/-! Index pairs. -/
def dieDim : Nat × Nat := (8, 0x100000)
def unitDim (n : Nat) : Nat × Nat := (n, 0x1000)

/-- The module-wide registers of R593, but for the blocks below. -/
def regsHif : List RegDef := [
  { name := "HIF_IDENT", base := 0x000, reset := 0x8768 },
  { name := "HIF_STATUS", base := 0x008 },
  { name := "HIF_CTRL", base := 0x010, width := 32, w1s := 1 },
  snapCtl "HIF_SNAP" 0x018 (1, 1) (1, 1) .module,
  { name := "HIF_WIN", base := 0x020, owner := .fn, rw := maskBits 39 18 + maskBits 50 48 },
  ctrRun "HIF_COUNTERS" 0x100 6 (1, 1) .module]

/-- The SCH windows (R415 to R417, R267). -/
def regsSch : List RegDef := [
  { name := "SCH_FRAME_CFG", base := 0x100000, rw := maskBits 31 16, reset := 0xA00FA },
  { name := "SCH_FRAME_COUNT", base := 0x100008 },
  { name := "SCH_PART_WEIGHT", base := 0x100010 },
  { name := "SCH_SLOT", base := 0x100100, d2 := (64, 8) },
  { name := "SCH_PART_CTRL", base := 0x101000, d1 := (8, 0x1000), width := 32, owner := .part,
    rw := maskBits 8 8 + maskBits 4 4 },
  { name := "SCH_PART_STATUS", base := 0x101004, d1 := (8, 0x1000), width := 32, owner := .part },
  { name := "SCH_CTX_ADDR", base := 0x101008, d1 := (8, 0x1000), owner := .part, rw := maskBits 63 0 },
  { name := "SCH_CTX_LEN", base := 0x101010, d1 := (8, 0x1000), owner := .part, rw := maskBits 63 0 },
  { name := "SCH_CTX_NEED", base := 0x101018, d1 := (8, 0x1000), owner := .part },
  snapCtl "SCH_SNAP" 0x101020 (8, 0x1000) (1, 1) .part,
  ctrRun "SCH_STALL_CYC" 0x101040 16 (8, 0x1000) .part,
  ctrRun "SCH_COUNTERS" 0x1010C0 11 (8, 0x1000) .part,
  { name := "SCH_SQ_BASE", base := 0x101200, d1 := (8, 0x1000), d2 := (16, 0x20), owner := .part,
    rw := maskBits 63 12 },
  { name := "SCH_CQ_BASE", base := 0x101208, d1 := (8, 0x1000), d2 := (16, 0x20), owner := .part,
    rw := maskBits 63 12 },
  { name := "SCH_RING_CFG", base := 0x101210, d1 := (8, 0x1000), d2 := (16, 0x20), width := 32, owner := .part,
    rw := maskBits 31 24 + maskBits 18 17 + maskBits 12 8 + maskBits 4 0 },
  { name := "SCH_RING_STATUS", base := 0x101214, d1 := (8, 0x1000), d2 := (16, 0x20), width := 32, owner := .part,
    w1c := 5 },
  { name := "SCH_TENANT_WEIGHT", base := 0x101400, d1 := (8, 0x1000), d2 := (64, 4), width := 32, owner := .part,
    rw := maskBits 31 0, reset := 0x01010101 },
  ctrRun "SCH_ACCOUNTING" 0x120000 1024 (8, 0x2000) .part,
  snapCtl "SCH_REUSE_SNAP" 0x140000 (8, 0x100) (1, 1) .part,
  ctrRun "SCH_REUSE_COUNTERS" 0x140008 6 (8, 0x100) .part]

/-- The MEM windows (R342, R343, R248, R287). -/
def regsMem : List RegDef := [
  { name := "MEM_RT_INDEX", base := 0x200000, rw := maskBits 21 0 },
  snapCtl "MEM_RT_SNAP" 0x200008 (1, 1) (1, 1) .module,
  { name := "MEM_RT_ENTRY", base := 0x200010, cls := .snap },
  { name := "MEM_HBM_FRAMES", base := 0x200018 },
  snapCtl "MEM_SNAP" 0x201000 (8, 0x1000) (1, 1) .part,
  { name := "MEM_SPAN", base := 0x201008, d1 := (8, 0x1000), owner := .part },
  { name := "MEM_POOL", base := 0x201010, d1 := (8, 0x1000), d2 := (3, 8), cls := .snap, owner := .part },
  { name := "MEM_HPOOL_BASE", base := 0x201028, d1 := (8, 0x1000), owner := .part, rw := maskBits 63 12 },
  { name := "MEM_HPOOL_COUNT", base := 0x201030, d1 := (8, 0x1000), width := 32, owner := .part,
    rw := maskBits 23 0 },
  { name := "MEM_HPOOL_STATUS", base := 0x201034, d1 := (8, 0x1000), width := 32, owner := .part },
  ctrRun "MEM_MAPPED_FAULT_LAST_COUNTERS" 0x201038 14 (8, 0x1000) .part,
  snapCtl "MEM_KV_SNAP" 0x280000 (8, 0x100) (1, 1) .part,
  ctrRun "MEM_KV_COUNTERS" 0x280008 6 (8, 0x100) .part,
  snapCtl "MEM_KEEP_SNAP" 0x290000 (8, 0x100) (1, 1) .part,
  { name := "MEM_KEEP_STATUS", base := 0x290008, d1 := (8, 0x100), owner := .part },
  ctrRun "MEM_KEEP_COUNTERS" 0x290010 3 (8, 0x100) .part]

/-- The HBM windows (R371 to R376, R571). -/
def regsHbm : List RegDef := [
  { name := "HBM_STATUS", base := 0x300000 },
  { name := "HBM_CFG", base := 0x300008, rw := maskBits 48 48, reset := 0x180A104003E8 },
  { name := "HBM_PRIO_CFG", base := 0x300010, width := 32, reset := 0x320 },
  { name := "HBM_CONTROL", base := 0x300014, width := 32, w1s := 1 },
  snapCtl "HBM_SNAP" 0x300018 (1, 1) (1, 1) .module,
  { name := "HBM_STACK_STATUS", base := 0x300100, d2 := (8, 8) },
  { name := "HBM_PC_STATUS", base := 0x310000, d1 := (512, 0x80), reset := 0x100000 },
  ctrRun "HBM_PC_COUNTERS" 0x310008 8 (512, 0x80) .module,
  { name := "HBM_TG_CTRL", base := 0x330000, d1 := (256, 0x100),
    rw := maskBits 31 24 + maskBits 17 16 + maskBits 14 8 + maskBits 5 4, w1s := 3, reset := 0x01003000 },
  { name := "HBM_TG_RANGE", base := 0x330008, d1 := (256, 0x100), rw := maskBits 54 32 + maskBits 22 0,
    reset := 0x5FFFFF00000000 },
  { name := "HBM_TG_SEED", base := 0x330010, d1 := (256, 0x100), rw := maskBits 63 0 },
  { name := "HBM_TG_STATUS_FIRST_FAIL", base := 0x330018, d1 := (256, 0x100), d2 := (2, 8) },
  ctrRun "HBM_TG_COUNTERS" 0x330028 3 (256, 0x100) .module]

/-- The MED, LNK and RNG windows (R498 to R501, R533, R307). -/
def regsIo : List RegDef := [
  { name := "MED_STATUS", base := 0x400000 },
  snapCtl "MED_SNAP" 0x400008 (1, 1) (1, 1) .module,
  { name := "MED_QUOTA", base := 0x400100, d2 := (8, 8) },
  ctrRun "MED_COUNTERS" 0x401000 9 (8, 0x100) .part,
  snapCtl "LNK_SNAP" 0x500000 (1, 1) (1, 1) .module,
  { name := "LNK_UP", base := 0x500008, width := 32 },
  ctrRun "LNK_ROUTE_DROPS" 0x500010 1 (1, 1) .module,
  { name := "LNK_PORT_STATUS", base := 0x501000, d1 := (24, 0x100) },
  ctrRun "LNK_PORT_COUNTERS" 0x501008 9 (24, 0x100) .module,
  ctrRun "LNK_COLL_COUNTERS" 0x503000 5 (8, 0x100) .part,
  snapCtl "RNG_SNAP" 0x600000 (8, 0x100) (1, 1) .part,
  { name := "RNG_STATUS", base := 0x600008, d1 := (8, 0x100), owner := .part },
  ctrRun "RNG_COUNTERS" 0x600010 3 (8, 0x100) .part,
  { name := "RNG_MODULE_STATUS", base := 0x600800 },
  { name := "RNG_WARMUP_DRAWS", base := 0x600808 }]

/-- The RAS, scorebook, diagnostics and SEC windows (R438, R441, R591, R564). -/
def regsRas : List RegDef := [
  { name := "RAS_CFG", base := 0x700000, reset := 0x64400203 },
  { name := "RAS_STATUS", base := 0x700008 },
  snapCtl "RAS_SNAP" 0x700010 (1, 1) (1, 1) .module,
  ctrRun "RAS_FW_RESTARTS" 0x700018 1 (1, 1) .module,
  ctrRun "RAS_OFFSIDE_DROPS_STALE_DROPS" 0x700100 16 (1, 1) .module,
  ctrRun "RAS_PART_COUNTERS" 0x701000 9 (8, 0x1000) .part,
  { name := "RAS_SB_STATUS", base := 0x709000 },
  { name := "RAS_SB_CTRL", base := 0x709008, width := 32, rw := maskBits 7 4, w1s := 1 },
  { name := "RAS_SB_INDEX", base := 0x70900C, width := 32, rw := maskBits 31 0 },
  snapCtl "RAS_SB_SNAP" 0x709010 (1, 1) (1, 1) .module,
  ctrRun "RAS_SB_REC" 0x709018 4 (1, 1) .module,
  ctrRun "RAS_SB_COUNTERS" 0x709040 2 (1, 1) .module,
  snapCtl "RAS_SNAP_ALL" 0x709050 (1, 1) (1, 1) .module,
  { name := "RAS_DIAG_CTRL", base := 0x709100, width := 32, rw := maskBits 15 8 + maskBits 2 2, w1s := 3 },
  { name := "RAS_DIAG_STATUS", base := 0x709108 },
  { name := "SEC_LC", base := 0x800000 },
  { name := "SEC_BOOT", base := 0x800008, reset := 0x300 },
  { name := "SEC_NONCE", base := 0x800010, d2 := (4, 8) },
  { name := "SEC_CMD_ADDR", base := 0x800030, rw := maskBits 63 6 },
  { name := "SEC_CMD_LEN", base := 0x800038, width := 32, rw := maskBits 31 0 },
  { name := "SEC_CMD", base := 0x80003C, width := 32 },
  { name := "SEC_DEBUG", base := 0x800040 },
  snapCtl "SEC_SNAP" 0x800048 (1, 1) (1, 1) .module,
  ctrRun "SEC_COUNTERS" 0x800050 3 (1, 1) .module]

/-- The SYN and PWR windows (R462 to R466, R589). -/
def regsSyn : List RegDef := [
  { name := "SYN_STATUS", base := 0x900000 },
  { name := "SYN_GCOUNT", base := 0x900008 },
  snapCtl "SYN_SNAP" 0x900010 (1, 1) (1, 1) .module,
  { name := "SYN_GCOUNT_SNAP", base := 0x900018, cls := .snap },
  { name := "SYN_TIME_CFG", base := 0x900020 },
  { name := "SYN_DET_ID", base := 0x900028 },
  { name := "SYN_DET_FORMATION", base := 0x900030, d2 := (6, 8) },
  ctrRun "SYN_COUNTERS" 0x900060 5 (1, 1) .module,
  { name := "SYN_DET_FW", base := 0x900088 },
  { name := "SYN_MODE", base := 0x901000, d1 := (8, 0x100), owner := .part, rw := maskBits 47 0,
    reset := 0x3E8_0000_C350 },
  snapCtl "SYN_PSNAP" 0x901008 (8, 0x100) (1, 1) .part,
  ctrRun "SYN_PART_COUNTERS" 0x901010 3 (8, 0x100) .part,
  { name := "PWR_STATUS", base := 0xA00000, reset := 0x4000 },
  { name := "PWR_CAP", base := 0xA00008, width := 32, rw := maskBits 10 0, reset := 0x06720672 },
  { name := "PWR_CAP_EFF", base := 0xA0000C, width := 32, reset := 0x06720672 },
  { name := "PWR_THERM_CFG", base := 0xA00010, reset := 0x64695A5F },
  snapCtl "PWR_SNAP" 0xA00018 (1, 1) (1, 1) .module,
  ctrRun "PWR_COUNTERS" 0xA00020 5 (1, 1) .module,
  { name := "PWR_DIE_TEMP", base := 0xA00100, d2 := (20, 8) }]

/-- The windows of the compute dies (R107, R181, R245, R68, R146, R184, R212, R286). -/
def regsCd : List RegDef := [
  { name := "MXE_STATUS", base := 0x1000000, d1 := dieDim, d2 := unitDim 17, owner := .die },
  { name := "MXE_CHK_CFG", base := 0x1000008, d1 := dieDim, d2 := unitDim 17, width := 32, owner := .die },
  snapCtl "MXE_SNAP" 0x1000010 dieDim (unitDim 17) .die,
  { name := "MXE_CHK_LAST", base := 0x1000018, d1 := dieDim, d2 := unitDim 17, cls := .snap, owner := .die },
  { name := "MXE_BUSY_CYC", base := 0x1000020, d1 := dieDim, d2 := unitDim 17, cls := .snap, owner := .die },
  { name := "MXE_TILES", base := 0x1000028, d1 := dieDim, d2 := unitDim 17, cls := .snap, owner := .die },
  { name := "MXE_WIN_TRUNC", base := 0x1000030, d1 := dieDim, d2 := unitDim 17, cls := .snap, owner := .die },
  { name := "MXE_CHK_FAIL", base := 0x1000038, d1 := dieDim, d2 := unitDim 17, cls := .snap, owner := .die },
  { name := "MXE_CHK_MOVED", base := 0x1000040, d1 := dieDim, d2 := unitDim 17, cls := .snap, owner := .die },
  { name := "MXE_ACC_CORR", base := 0x1000048, d1 := dieDim, d2 := unitDim 17, cls := .snap, owner := .die },
  { name := "MXE_ESC_RERUN", base := 0x1000050, d1 := dieDim, d2 := unitDim 17, cls := .snap, owner := .die },
  { name := "MXE_ESC_FLAGGED", base := 0x1000058, d1 := dieDim, d2 := unitDim 17, cls := .snap, owner := .die },
  { name := "VXE_STATUS", base := 0x1020000, d1 := dieDim, d2 := unitDim 16, width := 32, owner := .die },
  snapCtl "VXE_SNAP" 0x1020008 dieDim (unitDim 16) .die,
  { name := "VXE_BUSY_CYC", base := 0x1020010, d1 := dieDim, d2 := unitDim 16, cls := .snap, owner := .die },
  { name := "VXE_LANE_SLOTS", base := 0x1020018, d1 := dieDim, d2 := unitDim 16, cls := .snap, owner := .die },
  { name := "VXE_SFU_RESULTS", base := 0x1020020, d1 := dieDim, d2 := unitDim 16, cls := .snap, owner := .die },
  { name := "VXE_PARITY", base := 0x1020028, d1 := dieDim, d2 := unitDim 16, cls := .snap, owner := .die },
  { name := "VXE_FT_STATUS", base := 0x1020100, d1 := dieDim, d2 := unitDim 16, owner := .die },
  { name := "ATP_STATUS", base := 0x1040000, d1 := dieDim, d2 := unitDim 8, width := 32, owner := .die },
  snapCtl "ATP_SNAP" 0x1040008 dieDim (unitDim 8) .die,
  { name := "ATP_BUSY_CYC", base := 0x1040010, d1 := dieDim, d2 := unitDim 8, cls := .snap, owner := .die },
  { name := "ATP_COUNTER_1", base := 0x1040018, d1 := dieDim, d2 := unitDim 8, cls := .snap, owner := .die },
  { name := "ATP_COUNTER_2", base := 0x1040020, d1 := dieDim, d2 := unitDim 8, cls := .snap, owner := .die },
  { name := "ATP_COUNTER_3", base := 0x1040028, d1 := dieDim, d2 := unitDim 8, cls := .snap, owner := .die },
  { name := "ATP_COUNTER_4", base := 0x1040030, d1 := dieDim, d2 := unitDim 8, cls := .snap, owner := .die },
  { name := "ATP_COUNTER_5", base := 0x1040038, d1 := dieDim, d2 := unitDim 8, cls := .snap, owner := .die },
  { name := "ATP_COUNTER_6", base := 0x1040040, d1 := dieDim, d2 := unitDim 8, cls := .snap, owner := .die },
  { name := "ATP_COUNTER_7", base := 0x1040048, d1 := dieDim, d2 := unitDim 8, cls := .snap, owner := .die },
  { name := "ATP_FT_STATUS", base := 0x1040100, d1 := dieDim, d2 := unitDim 8, owner := .die },
  snapCtl "CD_CONV_SNAP" 0x1060000 dieDim (1, 1) .die,
  ctrRun "CD_CONV_COUNTERS" 0x1060008 6 dieDim .die,
  snapCtl "CD_SEQ_SNAP" 0x1070000 dieDim (1, 1) .die,
  ctrRun "CD_SEQ_COUNTERS" 0x1070008 7 dieDim .die,
  snapCtl "CD_CHAIN_SNAP" 0x1080000 dieDim (1, 1) .die,
  ctrRun "CD_CHAIN_COUNTERS" 0x1080008 5 dieDim .die,
  snapCtl "CD_FT_SNAP" 0x1090000 dieDim (1, 1) .die,
  { name := "CD_FT_EPOCH", base := 0x1090008, d1 := dieDim, width := 32, owner := .die },
  ctrRun "CD_FT_COUNTERS" 0x1090010 8 dieDim .die,
  snapCtl "CD_TRAIN_SNAP" 0x10A0000 dieDim (1, 1) .die,
  ctrRun "CD_TRAIN_COUNTERS" 0x10A0008 3 dieDim .die]

/-- Every register of the module (R593). -/
def regTable : List RegDef := regsHif ++ regsSch ++ regsMem ++ regsHbm ++ regsIo ++ regsRas ++ regsSyn ++ regsCd

/-- The indices of an address in a register's two dimensions, when the address is one of its instances (R594). -/
def RegDef.indexAt (d : RegDef) (a : Nat) : Option (Nat × Nat) :=
  if a < d.base then none
  else
    let r := a - d.base
    let i := r / d.d1.2
    let i := if d.d1.1 = 1 then 0 else i
    let r := r - i * d.d1.2
    let j := if d.d2.1 = 1 then 0 else r / d.d2.2
    if i < d.d1.1 ∧ j < d.d2.1 ∧ r = j * d.d2.2 then some (i, j) else none

/-- The register at an address (R594). -/
def regAt (a : Nat) : Option RegDef := regTable.find? fun d => (d.indexAt a).isSome

/-- The reset value of the register at an address: 0 where the spec states none. -/
def resetOf (a : Nat) : W64 :=
  match regAt a with
  | some d => BitVec.ofNat 64 d.reset
  | none => 0

/-! Addresses by name. -/
namespace Addr

def cd (n : Nat) : Nat := 0x1000000 + n * 0x100000
def mxe (n k off : Nat) : Nat := cd n + k * 0x1000 + off
def vxe (n k off : Nat) : Nat := cd n + 0x20000 + k * 0x1000 + off
def atp (n k off : Nat) : Nat := cd n + 0x40000 + k * 0x1000 + off
def conv (n off : Nat) : Nat := cd n + 0x60000 + off
def seq (n off : Nat) : Nat := cd n + 0x70000 + off
def chain (n off : Nat) : Nat := cd n + 0x80000 + off
def ft (n off : Nat) : Nat := cd n + 0x90000 + off
def train (n off : Nat) : Nat := cd n + 0xA0000 + off
def sch (p off : Nat) : Nat := 0x101000 + p * 0x1000 + off
def stall (p n : Nat) : Nat := sch p (0x40 + 8 * n)
def sqBase (p r : Nat) : Nat := sch p (0x200 + 0x20 * r)
def cqBase (p r : Nat) : Nat := sch p (0x208 + 0x20 * r)
def ringCfg (p r : Nat) : Nat := sch p (0x210 + 0x20 * r)
def ringStatus (p r : Nat) : Nat := sch p (0x214 + 0x20 * r)
def weight (p t : Nat) : Nat := sch p (0x400 + 4 * (t / 4))
def acct (p t f : Nat) : Nat := 0x120000 + p * 0x2000 + t * 0x20 + 8 * f
def reuse (p off : Nat) : Nat := 0x140000 + p * 0x100 + off
def memp (p off : Nat) : Nat := 0x201000 + p * 0x1000 + off
def kv (p off : Nat) : Nat := 0x280000 + p * 0x100 + off
def keep (p off : Nat) : Nat := 0x290000 + p * 0x100 + off
def hbmPc (pc off : Nat) : Nat := 0x310000 + pc * 0x80 + off
def tg (ch off : Nat) : Nat := 0x330000 + ch * 0x100 + off
def med (p off : Nat) : Nat := 0x401000 + p * 0x100 + off
def port (i off : Nat) : Nat := 0x501000 + i * 0x100 + off
def coll (p off : Nat) : Nat := 0x503000 + p * 0x100 + off
def rng (p off : Nat) : Nat := 0x600000 + p * 0x100 + off
def ras (p off : Nat) : Nat := 0x701000 + p * 0x1000 + off
def syn (p off : Nat) : Nat := 0x901000 + p * 0x100 + off

end Addr

/-- The addresses of `n` consecutive 64-bit registers. -/
def run64 (a n : Nat) : List Nat := (List.range n).map fun i => a + 8 * i

/-- The snapshot controls of the module but RAS_SNAP_ALL, each with its instances: (name, indices). Used by
RAS_SNAP_ALL (R591). -/
def snapControls : List Nat :=
  (regTable.filter fun d => d.cls == .ctl && d.base != 0x709050).flatMap fun d =>
    (List.range d.d1.1).flatMap fun i => (List.range d.d2.1).map fun j => d.base + i * d.d1.2 + j * d.d2.2

/-- The SNAP registers that a write of TAKE to the snapshot control at `a` copies (R69, R110, R147, R183, R184, R213,
R246, R267, R286, R287, R307, R343, R371, R416, R438, R462, R466, R498, R531, R533, R564, R589). -/
def snapMembers (a : Nat) : List Nat :=
  match regAt a with
  | none => []
  | some d =>
    if d.name = "HIF_SNAP" then run64 0x100 6
    else if d.name = "SCH_SNAP" then
      let p := (a - 0x101020) / 0x1000
      run64 (Addr.sch p 0x40) 16 ++ run64 (Addr.sch p 0xC0) 11 ++ run64 (Addr.acct p 0 0) 1024
    else if d.name = "SCH_REUSE_SNAP" then run64 (a + 8) 6
    else if d.name = "MEM_RT_SNAP" then [0x200010]
    else if d.name = "MEM_SNAP" then run64 (a + 0x10) 3 ++ run64 (a + 0x38) 14
    else if d.name = "MEM_KV_SNAP" then run64 (a + 8) 6
    else if d.name = "MEM_KEEP_SNAP" then run64 (a + 0x10) 3
    else if d.name = "HBM_SNAP" then ((List.range 512).flatMap fun pc => run64 (Addr.hbmPc pc 8) 8) ++
        ((List.range 256).flatMap fun ch => run64 (Addr.tg ch 0x28) 3)
    else if d.name = "MED_SNAP" then (List.range 8).flatMap fun p => run64 (Addr.med p 0) 9
    else if d.name = "LNK_SNAP" then
      0x500010 :: ((List.range 24).flatMap fun i => run64 (Addr.port i 8) 9) ++
        ((List.range 8).flatMap fun p => run64 (Addr.coll p 0) 5)
    else if d.name = "RNG_SNAP" then run64 (a + 0x10) 3
    else if d.name = "RAS_SNAP" then
      0x700018 :: run64 0x700100 16 ++ ((List.range 8).flatMap fun p => run64 (Addr.ras p 0) 9)
    else if d.name = "RAS_SB_SNAP" then run64 0x709040 2
    else if d.name = "SEC_SNAP" then run64 0x800050 3
    else if d.name = "SYN_SNAP" then 0x900018 :: run64 0x900060 5
    else if d.name = "SYN_PSNAP" then run64 (a + 8) 3
    else if d.name = "PWR_SNAP" then run64 0xA00020 5
    else if d.name = "MXE_SNAP" then run64 (a + 8) 9
    else if d.name = "VXE_SNAP" then run64 (a + 8) 4
    else if d.name = "ATP_SNAP" then run64 (a + 8) 8
    else if d.name = "CD_CONV_SNAP" then run64 (a + 8) 6
    else if d.name = "CD_SEQ_SNAP" then run64 (a + 8) 7
    else if d.name = "CD_CHAIN_SNAP" then run64 (a + 8) 5
    else if d.name = "CD_FT_SNAP" then run64 (a + 0x10) 8
    else if d.name = "CD_TRAIN_SNAP" then run64 (a + 8) 3
    else []

end Sys2Proof
end

