-- ==== Sys2Proof/Machine/State.lean ====
section
/-! DEFINITION. The state of the module: every memory, table, register, queue and record that the spec gives it, as plain
data, the reasons a step can stop, and the module right after reset. -/
namespace Sys2Proof.Machine
open Sys2Proof

/-- Every sparse table of the module. In each of them an unlisted key reads as zero. -/
structure Maps where
  /-- The bytes of the device virtual range, by device virtual address (R309, R330: placement never changes them). -/
  dev : Sparse 8 := []
  /-- Host memory, by host bus address (R511). -/
  host : Sparse 8 := []
  /-- Package flash, by offset (R536). -/
  flash : Sparse 8 := []
  /-- The residency table, by page (R313). -/
  rt : Sparse 64 := []
  /-- The side table, by 4 KiB block (R352, R332): bits [31:0] hold the stored CRC-32C xor the CRC-32C of the block's
  bytes (0: the check passes), bit 32 LOST, bits [39:33] SECTORS, bit 40 COMPRESSED. -/
  side : Sparse 64 := []
  /-- The live registers, by BAR0 address, each xor its reset value; HIF_WIN of function f at (f << 32) + 0x20. -/
  reg : Sparse 64 := []
  /-- The live values of the registers of type SNAP, by BAR0 address (R11, R185). -/
  ctr : Sparse 64 := []
  /-- Their snapshot copies (R11). -/
  snap : Sparse 64 := []
  /-- The tenants' charges that the next tick latches, by the address of the accounting window (R417). -/
  acct : Sparse 64 := []
  /-- The codebook tables: word c of code 0x12 + k on die d at (d * 14 + k) * 16 + c (R49, R50). -/
  cbk : Sparse 32 := []
  /-- The function-table banks: word w of bank b on die d at (d * 2 + b) * 0x20000 + w; bit 32 says that a load or a
  formation wrote the word, else it is the library's (R186). -/
  ft : Sparse 33 := []
  /-- Seeds of the random streams: stream t of partition p at p * 16 + t (R291). -/
  seeds : Sparse 64 := []
  /-- The maps of the reuse slots: word w of slot r on partition p (R253, R258). -/
  reuse : Sparse 64 := []
deriving DecidableEq, Repr

/-- An entry of a completion ring (R395). -/
structure CqEntry where
  user : Nat
  seq : Nat
  idx : Nat
  status : Nat
  flags : Nat
  cyc : Nat
  frame : Nat
  aux : Nat
deriving DecidableEq, Repr

/-- A submission ring and its completion ring (R392 to R400): the taken and written counts, the CONSUMER last read, the
entries kept or held in completion order, how many written entries no vector has signalled, whether a moderation interval
runs, and whether a module reset or a surprise removal has intervened since the last enable. -/
structure RingRec where
  p : Nat
  r : Nat
  taken : Nat := 0
  written : Nat := 0
  consumer : Nat := 0
  kept : List CqEntry := []
  unsignalled : Nat := 0
  moderating : Bool := false
  lost : Bool := true
deriving DecidableEq, Repr

/-- Where a graph stands: taken from its ring, in the backlog, or admitted to the task table (R394). -/
inductive GPhase where
  | taken
  | backlog
  | admitted
deriving DecidableEq, Repr

/-- A graph that has not completed (R378, R380). `deadline` is absolute, in clocks since the formation load (R403). -/
structure GraphRec where
  gid : Nat
  p : Nat
  r : Nat
  seq : Nat
  addr : Nat
  arg : Nat
  phase : GPhase := .taken
  ntasks : Nat := 0
  tenant : Nat := 0
  slot : Nat := 0
  afterPrev : Bool := false
  waitOn : Option (Nat × Nat) := none
  deadline : Option Nat := none
  /-- The series of ring reads that took it (R383), and its clock. -/
  readNo : Nat := 0
  tick : Nat := 0
  /-- The graph runs a recompute of R238 for the task named here, into the page of the page-list entry at an address. -/
  recompute : Option Nat := none
  kvEntry : Nat := 0
  /-- A cross-grade restore brought the graph, so that its tasks complete with RESTORED_XGRADE (R413). -/
  xgrade : Bool := false
deriving DecidableEq, Repr

/-- Where a task stands: in the table, admitted (R311), ready (R384), running, stalled in an allocation (R236), all of
its outcome decided, or completed. -/
inductive TPhase where
  | fresh
  | waiting
  | ready
  | running
  | stalled
  | ended
  | done
deriving DecidableEq, Repr

/-- Where a unit of issue stands (R421). -/
inductive UPhase where
  | todo
  | issued
  | halted
  | summed
  | drained
  | staged
  | stored
  | skipped
  | done
  | failed
  | abandoned
  | escalate
deriving DecidableEq, Repr

/-- The partial sums of a tile in the tile store (R96, R133, R134): the next chunk, the accumulators, and the saturations
counted before it. -/
structure SpillImage where
  next : Nat
  acc : List (List Pair)
  sat : Nat
deriving DecidableEq, Repr

/-- A unit of issue of a product or an attention task with the state of its current attempt. -/
structure UnitRec where
  uid : Nat
  /-- Batch entry, row block, column tile and split-K part of a product tile; for attention: batch entry, query head
  group, query block. -/
  b : Nat := 0
  rb : Nat := 0
  ct : Nat := 0
  part : Nat := 0
  die : Nat := 0
  /-- The engine, or the pipeline, and the engine of the attempt before it. -/
  eng : Nat := 0
  attempt : Nat := 0
  phase : UPhase := .todo
  /-- The next chunk (or key block), the first one and the one after the last. -/
  next : Nat := 0
  first : Nat := 0
  last : Nat := 0
  /-- Accumulators, one list of rows × columns per plane (R92); for attention: maxima, denominators, outputs (R215). -/
  acc : List (List Pair) := []
  /-- The sums lie in the tile store and not in a slot; the image that the tile was last written to, from which it begins
  again (R96). -/
  spilled : Bool := false
  image : Option SpillImage := none
  /-- Failed checks of the tile, whether it has moved to another engine (R96), fouls (R427) and parity errors (R180). -/
  fails : Nat := 0
  moved : Bool := false
  fouls : Nat := 0
  parity : Nat := 0
  /-- The operand blocks of this attempt that passed their check (R355). -/
  arrived : List Nat := []
  /-- The attempt is an escalated rerun (R105). -/
  rerun : Bool := false
  escalated : Bool := false
  /-- Saturations of the load path and of the store path of this attempt (R62, R103). -/
  sat : Nat := 0
  /-- The bound function-table bank (R203), while the attempt holds one. -/
  bank : Option Nat := none
  /-- Staged values of a deferred statistic (R171), row by row. -/
  staged : List (List F32) := []
  /-- The attempt is a repeat whose clocks are charged to SCH_RETRY_CYC (R404). -/
  again : Bool := false
  /-- The effective extent of the slice in which the attempt was issued (R119). -/
  len : Nat := 0
  /-- Where the next attempt runs after a failure: 0 any engine, 1 the same one, 2 another one (R96); the engine that a
  moved unit came from (R98). -/
  redo : Nat := 0
  movedFrom : Nat := 0
  /-- The first chunk since the attempt was issued or resumed (R295). -/
  base : Nat := 0
  /-- Bytes of partial sums or staged values in the tile store (R135, R174), and the die whose store holds them (R131). -/
  held : Nat := 0
  heldAt : Nat := 0
  /-- The first chunk of this attempt: the unit's first one, or the one after its spill image. -/
  start : Nat := 0
  /-- The escalation comparison has been made (R103, R175), and MIN_EPOCH's hold has been counted (R204). -/
  judged : Bool := false
  /-- The engine whose check failed last, of an attention unit (R98, R242). -/
  badEng : Option Nat := none
  epochHeld : Bool := false
  /-- The stall cause of R16 under which a failed unit waits for its next attempt: 8 after a foul, 9 after a failed check. -/
  why : Nat := 0
deriving DecidableEq, Repr

/-- The quantities of R130, fixed at a task's first slice. -/
structure Plan where
  rbs : Nat
  kc : Nat
  e : Nat
  p : Nat
deriving DecidableEq, Repr

/-- A running slice of a task on a die (R34): the effective extent that its length word gave (R119), the frame in which it
started, and the tile-store blocks that it has read (R355). -/
structure SliceRec where
  die : Nat
  len : Nat
  frame : Nat
  seen : List Nat := []
deriving DecidableEq, Repr

/-- A tile of a vector program that met a parity error (R180): its number, its die, the bank that it stays bound to until it runs
again (R203), and its errors. -/
structure VecFail where
  tile : Nat
  die : Nat
  bank : Nat
  errs : Nat
deriving DecidableEq, Repr

/-- A task of an admitted graph (R379, R386). `desc` is the descriptor with its argument references resolved (R381). -/
structure TaskRec where
  tid : Nat
  gid : Nat
  p : Nat
  r : Nat
  seq : Nat
  idx : Nat
  tenant : Nat
  slot : Nat := 0
  descAddr : Nat
  deps : List Nat := []
  desc : List Byte := []
  /-- The chain programs as the graph engine read them at admission (R153): a product's prologue, and the epilogue of a
  product or the program of a vector-program task. -/
  pro : Option ChainProg := none
  epi : Option ChainProg := none
  /-- Where the task stands (R379, R384), and what its completion entry will report (R395). -/
  phase : TPhase := .fresh
  status : Nat := 0
  flags : Nat := 0
  aux : Nat := 0
  /-- MXE clocks charged (R404). -/
  cyc : Nat := 0
  /-- Task re-executions (R423), control-core faults met (R431). -/
  retries : Nat := 0
  coreFaults : Nat := 0
  /-- The division of a split-K product (R130). -/
  plan : Option Plan := none
  /-- The running slices, at most one on a die (R34, R119). -/
  slices : List SliceRec := []
  /-- The units of issue (R421). -/
  units : List UnitRec := []
  nextUid : Nat := 0
  /-- Progress of the kinds without units: a counter and words of the kind's own. -/
  mark : Nat := 0
  words : List Nat := []
  /-- Tiles of a vector program that wait to run again (R180). -/
  vfails : List VecFail := []
  /-- The units of a task that runs in one step whose attempts have found a foul, once for each (R427). -/
  fouls : List Nat := []
  /-- The sequence records whose pages the task pins (R237). -/
  pins : List Nat := []
  /-- The page-list entries whose pages the task has read or written (R234). -/
  kvUsed : List Nat := []
  /-- Dies on which a halt has been raised (R34, R35), and whether it waits for the tile boundary. -/
  halts : List (Nat × Bool) := []
  /-- The task's epilogue holds a deferred statistic, so that its row blocks bind tables, not its tiles (R173). -/
  defers : Bool := false
  /-- The task has run, so that its buffers may hold what it stored (R15, R384). -/
  ran : Bool := false
deriving DecidableEq, Repr

/-- A write on its way to a checking point (R433): who wrote it, under which tag and attempt, and its bytes. `what` is
the class of unit: 0 MXE, 1 VXE, 2 attention pipeline. -/
structure Flight where
  die : Nat
  what : Nat
  eng : Nat
  tag : Nat
  tid : Nat
  uid : Nat
  attempt : Nat
  bytes : List (Nat × Byte)
deriving DecidableEq, Repr

/-- Firmware's record of an engine: array-check failures (or parity errors) since the last formation load (R98, R180),
and the disabled-unit map's entry. -/
structure EngRec where
  die : Nat
  what : Nat
  eng : Nat
  fails : Nat := 0
  retired : Bool := false
  /-- Firmware has decided to retire the unit (R98). -/
  due : Bool := false
deriving DecidableEq, Repr

/-- A tenant of a partition that has had work: its virtual time in units of a clock over `vtUnit` (R403) and the
charges since the last update. -/
structure TenantRec where
  p : Nat
  t : Nat
  vtime : Nat := 0
  charge : Nat := 0
deriving DecidableEq, Repr

/-- A partition of the formation in force (R543). -/
structure PartRec where
  p : Nat
  dies : List Nat := []
  weight : Nat := 1
  pairs : Nat := 0
  codecCores : Nat := 0
  codecBufs : Nat := 0
  spanBase : Nat := 0
  spanPages : Nat := 0
  hbmFrames : Nat := 0
  quota : Nat := 0
  keepPages : Nat := 0
  seedMask : Nat := 0
  seeds : List Nat := []
deriving DecidableEq, Repr

/-- A valid reuse slot (R257, R258): its BATCH and M, which tell how the map is read. -/
structure SlotRec where
  p : Nat
  slot : Nat
  batch : Nat
  m : Nat
deriving DecidableEq, Repr

/-- A page-list entry that holds a page of a pool: its address, the sequence record that it belongs to, and the address of the
pool's header (R230, R237). -/
structure KvHold where
  entry : Nat
  record : Nat
  pool : Nat
deriving DecidableEq, Repr

/-- A migration in progress (R327): the page, the destination, the blocks dirtied in this pass, the passes that found
dirty blocks, and whether writes are held. -/
structure MigRec where
  page : Nat
  tier : Nat
  die : Nat
  frame : Nat
  dirty : List Nat := []
  passes : Nat := 0
  held : Bool := false
  lostDest : List Nat := []
  /-- Chosen by age (R323, R321), so that it counts as an eviction. -/
  evict : Bool := false
  /-- Blocks that this pass copies, and the stored sectors of those that the copy compressed (R334), as (block, sectors). -/
  todo : List Nat := []
  secs : List (Nat × Nat) := []
  /-- Its task readers wait for it: KEEP or a restore called for it (R274, R412). -/
  called : Bool := false
deriving DecidableEq, Repr

/-- A migration that a residency operation or a restore has called for and that cannot start yet (R274, R316, R412): the page, its
tier and die, and whether KEEP calls for it. -/
structure MoveRec where
  page : Nat
  tier : Nat
  die : Nat
  keep : Bool
deriving DecidableEq, Repr

/-- What firmware counts of a row of a pseudo-channel since the last formation load (R365): corrected reads, and the block of
an uncorrectable error. -/
structure HbmRow where
  pc : Nat
  row : Nat
  corr : Nat := 0
  bad : Option Nat := none
deriving DecidableEq, Repr

/-- What a controller counts of a partition's request slots (R358): those of the present round of the weighted shares, those of the
present 64, with the class-0 ones among them, and the class-1 slots since the last class-2 slot. -/
structure HbmShare where
  p : Nat
  round : Nat := 0
  window : Nat := 0
  zero : Nat := 0
  one : Nat := 0
deriving DecidableEq, Repr

/-- What firmware keeps of a pseudo-channel: consecutive failed trainings and the clock of the tick before the last of them (R364), the
stack's temperature and the clock of the tick before its last training (R361), banks whose spare row is used (R365), uncorrectable words since the last formation load (R369), corrected words of this frame (R361), and the row in repair. -/
structure HbmPcRec where
  pc : Nat
  fails : Nat := 0
  failClk : Nat := 0
  temp : Nat := 0
  trained : Nat := 0
  used : List Nat := []
  uncorr : Nat := 0
  corr : Nat := 0
  repairing : Option Nat := none
  /-- The controller's counts of request slots, by partition, and the slots since the last one of class 3 (R358). -/
  shares : List HbmShare := []
  sinceScrub : Nat := 0
deriving DecidableEq, Repr

/-- A frame waiting for its last reads or its scrub before it returns to its pool (R327, R319). -/
structure FrameRec where
  page : Nat
  p : Nat
  tier : Nat
  die : Nat
  frame : Nat
  /-- It is the source of a migration that has switched, with the blocks of the page written since (R332). -/
  copy : Bool := false
  dirty : List Nat := []
deriving DecidableEq, Repr

/-- A record of the scorebook (R577), but for its CHECK, which is computed. -/
structure SbRec where
  time : Nat
  seq : Nat
  boot : Nat
  code : Nat
  unitId : Nat
  part : Nat
  sev : Nat
  arg0 : Nat
  arg1 : Nat
deriving DecidableEq, Repr

/-- A segment of the flush area (R580). -/
structure SbSeg where
  boot : Nat
  reason : Nat
  firstSeq : Nat
  time : Nat
  count : Option Nat
  recs : List SbRec := []
deriving DecidableEq, Repr

/-- The scorebook: the last 65,536 records, newest first, the records copied to the mirror, the segments of the flush
area (`none` is an erased one), a flush in progress and one that waits, an erase in progress (R577 to R582). -/
structure Scorebook where
  recs : List SbRec := []
  head : Nat := 0
  mirrored : Nat := 0
  segs : List (Option SbSeg) := List.replicate 8 none
  nextSeg : Nat := 0
  flushing : Option (Nat × Nat × List SbRec) := none
  /-- The reasons of flushes asked for and not begun. -/
  waiting : List Nat := []
  erasing : Option Nat := none
  /-- A flush copies from SRAM, so that recording is held (R580). -/
  held : Bool := false
  /-- The number of the present boot, and the count that the record area holds (R581). -/
  boot : Nat := 0
  count : Nat := 0
deriving DecidableEq, Repr

/-- What the SPDM responder answers (R559). -/
inductive SpdmAnswer where
  | version (major minor : Nat)
  | capabilities
  | algorithms
  | digests (bytes : List Byte)
  | certificate (bytes : List Byte)
  | challengeAuth (signature : List Byte)
  | measurements (blocks : List (Nat × List Byte)) (signature : List Byte)
  | unsupported
deriving DecidableEq, Repr

/-- Someone outside hears of the module: an MSI-X vector raised by a function, the bytes that a BAR read returned, a start
message for a member, a flit, credits or a NAK on a link port, a collective block or an acknowledgement for a member, an answer of the
management or of the attestation service, the level of a pin. -/
inductive Out where
  | msix (fn vec : Nat)
  | readData (fn : Nat) (bytes : List Byte)
  | start (dest : Nat) (msg : StartMsg)
  | flit (port : Nat) (f : Flit)
  | credit (port vc : Nat)
  | nak (port ack : Nat)
  | block (dest : Nat) (blk : CollBlock)
  | blockAck (dest member idx : Nat)
  | blockAgain (dest member idx : Nat)
  | mgmt (words : List Nat)
  | spdm (answer : SpdmAnswer)
  | pin (name : String) (level : Bool)
deriving DecidableEq, Repr

/-- A START that waits on this member (R452 to R457): its group and number, its partition, METHOD as read at issue, its member
list, the arrivals that the root holds with their counters, and the count C once it is known. -/
structure StartRec where
  tid : Nat
  group : Nat
  seq : Nat
  p : Nat
  method : Nat
  list : List Nat
  arrivals : List (Nat × Nat) := []
  target : Option Nat := none
deriving DecidableEq, Repr

/-- The alignment of frames to FSYNC_IN (R460): the error that the edge of this frame measured, what the next tick moves by, the frames of
a re-lock that are left, what each of them moves the tick by, the error that its path predicts, and the frames in a row without an
edge. -/
structure FsyncRec where
  edge : Option Int := none
  move : Int := 0
  relock : Nat := 0
  step : Int := 0
  expect : Int := 0
  missed : Nat := 0
deriving DecidableEq, Repr

/-- A link port (R517 to R523) beside its registers: the partner and the rate that the formation image gives it, the SEQ that it
expects, whether it awaits a replay, the SEQ that it sends next, the flits not yet acknowledged, oldest first, with the number of times the oldest has
been replayed, the flits that wait for a credit, and the credits of each channel. -/
structure PortRec where
  i : Nat
  expected : Nat := 0xFFFF
  maxRate : Nat := 0
  rxNext : Nat := 0
  awaiting : Bool := false
  txNext : Nat := 0
  unacked : List Flit := []
  replays : Nat := 0
  queue : List Flit := []
  credits : List Nat := [448, 48, 8]
deriving DecidableEq, Repr

/-- A route table entry (R523). -/
structure Route where
  dest : Nat
  ports : List Nat
deriving DecidableEq, Repr

/-- The units that serve the partitions in weighted round robin: the graph engine's admission of graphs, the entry writes of IO0's PCIe
DMA, and the starts of the collective engines (R406). -/
inductive SharedUnit where
  | admission
  | entries
  | collectives
deriving DecidableEq, Repr

/-- What a unit has served of a partition in its round (R406). -/
structure Turn where
  unit : SharedUnit
  p : Nat
  served : Nat
deriving DecidableEq, Repr

/-- A running collective (R524 to R527): its group and number, its partition, its member list, this member's place, the digest of
its descriptor, the blocks of its own input, those received, fouls found as (member, index), the blocks of its own that a member
has acknowledged as (member, index), and whether its output is stored. -/
structure CollRec where
  tid : Nat
  group : Nat
  seq : Nat
  p : Nat
  list : List Nat
  me : Nat
  digest : List Nat
  blocks : List (List Byte)
  got : List CollBlock := []
  fouls : List (Nat × Nat) := []
  acked : List (Nat × Nat) := []
  stored : Bool := false
deriving DecidableEq, Repr

/-- The marks of a frame buffer (R482), whether its picture carries CONCEALED (R487), and its picture order count. -/
structure BufMark where
  short : Bool := false
  long : Bool := false
  out : Bool := false
  concealed : Bool := false
deriving DecidableEq, Repr

/-- What a session record holds beside its public fields (R476, R477): the OPEN descriptor, the partition, the buffers' marks, the
next output number, whether a key picture is due (R489), and coded pictures held because they did not fit (R491). -/
structure SessRec where
  addr : Nat
  p : Nat
  desc : List Byte
  marks : List BufMark
  nextOut : Nat := 0
  keyDue : Bool := false
  held : List PicCoded := []
deriving DecidableEq, Repr

/-- A context image (R409, R410): what its header says and what its sections hold; keys of tables count from the partition's first
die, tasks name the dies of the partition that was saved. -/
structure CtxImage where
  fw : Nat := 0
  grade : Nat := 0
  mxes : Nat := 0
  dies : List Nat := []
  digest : List Byte := []
  rings : List (RingRec × W64 × W64 × W64) := []
  /-- The rings that are not enabled, whose kept entries and write counts section 1 carries (R397). -/
  offRings : List RingRec := []
  graphs : List GraphRec := []
  tasks : List TaskRec := []
  narrowDue : List (Nat × Nat) := []
  books : Sparse 32 := []
  tables : Sparse 33 := []
  epoch : Nat := 0
  seeds : List W64 := []
  seeded : Nat := 0
  reuse : Sparse 64 := []
  slots : List SlotRec := []
  keep : List Nat := []
  tsPages : List (Nat × Nat) := []
deriving DecidableEq, Repr, Inhabited

/-- A context image in a reserve slot of a partition (R411). -/
structure CtxSlot where
  p : Nat
  slot : Nat
  img : CtxImage
deriving DecidableEq, Repr

/-- A context image that this module wrote into host memory, with its bytes (R411). -/
structure HostImage where
  bytes : List Byte
  img : CtxImage
deriving DecidableEq, Repr

/-- A SAVE or a RESTORE in progress (R411, R412): the target as the command found it. -/
structure CtxCmd where
  p : Nat
  addr : Nat
  len : Nat
  slot : Nat
  toHost : Bool
deriving DecidableEq, Repr

/-- The fuses (R538, R539, R553): the life-cycle state, the owner key digest with its revocation, RETURN_PENDING, the security
minimums, and whether the device identity key is there (R560). -/
structure Fuses where
  state : Nat := 0
  owner : Option (List Byte) := none
  revoked : Bool := false
  returning : Bool := false
  fwMin : Nat := 0
  formMin : Nat := 0
  idKey : Bool := true
deriving DecidableEq, Repr

/-- An entry of the disabled-unit map (R576): the kind of unit (0 MXE, 1 VXE, 2 codec core, 3 HBM frame, 4 tile store frame, 5
pseudo-channel), its die, its number, and the boot count at which it was made. -/
structure DisEntry where
  what : Nat
  die : Nat
  idx : Nat
  boot : Nat
deriving DecidableEq, Repr

/-- A security command that runs (R566): its OP, the result that it will end with, the slot, target state or scope that it names,
a duration, and the digest of a key to be fused. -/
structure SecCmd where
  op : Nat
  result : Nat
  slot : Nat := 0
  seconds : Nat := 0
  key : List Byte := []
deriving DecidableEq, Repr

/-- How far the boot chain of R547 stands: the supply is off, the boot ROM runs, the recovery of R548, firmware runs. -/
inductive BootPhase where
  | off
  | rom
  | recovery
  | firmware
deriving DecidableEq, Repr

/-- The state of the module. -/
structure State where
  /-- The commands that wait, first in, first out. -/
  pending : List Instr := []
  maps : Maps := {}
  /-- The model's own count of the open values taken so far: each one is a value of Config at the next count. -/
  free : Nat := 0
  boot : BootPhase := .off
  /-- The module's grade, fused at manufacture (R6): 1 is S, 2 is X. -/
  grade : Nat := 1
  /-- NumVFs of the SR-IOV capability (R504). -/
  numVfs : Nat := 0
  /-- The clock, counted from the formation load, of the last frame tick (R403), and what it took to the tick before. -/
  tickClk : Nat := 0
  /-- Ring reads issued and not complete, as (partition, ring, at a tick), the number of the last series of reads, and
  the clock of that series (R29, R33, R383). -/
  reading : List (Nat × Nat × Bool) := []
  readNo : Nat := 0
  readClk : Nat := 0
  nextGid : Nat := 0
  nextTid : Nat := 0
  parts : List PartRec := []
  rings : List RingRec := []
  graphs : List GraphRec := []
  tasks : List TaskRec := []
  tenants : List TenantRec := []
  flights : List Flight := []
  engs : List EngRec := []
  migs : List MigRec := []
  /-- Frames on their way back to a pool (R319, R327), and frames out of service (R333). -/
  frames : List FrameRec := []
  badFrames : List FrameRec := []
  /-- Frames in which an uncorrectable error arose and that go out of service once their page has left them (R333). -/
  sick : List FrameRec := []
  hbmRows : List HbmRow := []
  hbmPcs : List HbmPcRec := []
  /-- Rows due for repair, in the order in which they became due (R365), the requests of the hold queues (R363), and those that wait
  for a slot or for a place in one (R358, R363), in order of arrival. -/
  hbmDue : List (Nat × Nat) := []
  hbmHold : List HbmReq := []
  hbmWait : List HbmReq := []
  /-- Blocks that a task wrote whose side-table entry waits for a quiesced stack, as (task, block) (R368). -/
  entryWait : List (Nat × Nat) := []
  /-- Host pool entries that were skipped (R325), as (partition, index). -/
  hostSkips : List (Nat × Nat) := []
  /-- Spare frames left in the firmware reserve (R320, R333). -/
  hbmSpare : Nat := 0
  /-- Blocks of NARROW pages that a task wrote and that its completion narrows (R335), as (task, block). -/
  narrowDue : List (Nat × Nat) := []
  /-- Bytes that a task and another one write with no order between the two, as (task, address, length), until that task
  completes (R384). -/
  shared : List (Nat × Nat × Nat) := []
  /-- The dies that accessed a page in this frame and in the one before (R324), as (page, die), and the last one since the page was
  mapped (R273). -/
  touched : List (Nat × Nat) := []
  touchedPrev : List (Nat × Nat) := []
  lastDies : List (Nat × Nat) := []
  /-- Migrations called for that cannot start yet (R274, R316, R322). -/
  moves : List MoveRec := []
  /-- The page-list entries that hold a page (R230, R237). -/
  kvRecs : List KvHold := []
  /-- Frames for which the condition of R240 has held in a partition, and partitions in which a page of a pool has been freed
  since the last tick. -/
  kvStuck : List (Nat × Nat) := []
  kvFreed : List Nat := []
  /-- The tasks that wait for a page of their pool, in the order in which the graph engine issued them (R232). -/
  kvWait : List Nat := []
  /-- Pools whose free frames have fallen below LOW and not yet reached HIGH, as (partition, tier, die) (R323). -/
  evicting : List (Nat × Nat × Nat) := []
  reuseSlots : List SlotRec := []
  /-- Slots of the cyclic table whose window is open (R402). -/
  slotsOn : List Nat := []
  sb : Scorebook := {}
  /-- Starts that wait on this member, and messages that are held (R453). -/
  starts : List StartRec := []
  startMsgs : List StartMsg := []
  /-- The follower has loaded its master's count (R450), the count is off by so much (R449), and the clocks that it has been
  advanced to before a tick counted them. -/
  gcAcquired : Bool := false
  gcOffset : Int := 0
  gcAhead : Nat := 0
  fsync : FsyncRec := {}
  ports : List PortRec := []
  routes : List Route := []
  colls : List CollRec := []
  /-- What each shared unit has served of each partition in its round (R406). -/
  rounds : List Turn := []
  sessions : List SessRec := []
  /-- Internal memory errors of the codec cores since the last formation load (R492). -/
  coreErrs : List (Nat × Nat) := []
  ctxCmds : List CtxCmd := []
  ctxSlots : List CtxSlot := []
  hostImages : List HostImage := []
  fuses : Fuses := {}
  /-- Units fused off at manufacture, as (kind, die, number) in the numbers of the disabled-unit map, and that map (R552, R576). -/
  fusedOff : List (Nat × Nat × Nat) := []
  disMap : List DisEntry := []
  /-- The markers of the two firmware slots, and of the two formation slots: 0 none, 1 valid, 2 ACTIVE (R537, R550). -/
  fwMarks : List Bool := [false, false]
  formMarks : List Nat := [0, 0]
  sec : Option SecCmd := none
  /-- The formation slot whose load has been decided and not ended (R547, R549). -/
  loading : Option Nat := none
  /-- Every engine has stopped and a flush precedes the module reset (R515, R580). -/
  dying : Bool := false
  /-- Orderly removal (R514): 0 none, 1 a SAVE is awaited, 2 entries are written and the flush runs, 3 ready. -/
  removal : Nat := 0
  /-- Measurement 5 as the last formation load recorded it (R558). -/
  mapMeas : List Byte := []
  /-- Clocks of the second in which the debug token counts (R557). -/
  debugClk : Nat := 0
  pwren : Bool := false
  supply : Bool := true
  /-- The sideband runs on SMBus (R529). -/
  smbus : Bool := false
  /-- Issue outside real-time windows is held until the next tick, because the granted share is used (R587), or by a trip (R588). -/
  powerHold : Bool := false
  tripped : Bool := false
  /-- The effective seeds of the traffic generators that ran PATTERN 3 (R573), and the warm-up states of the control cores (R303). -/
  tgSeeds : List (Nat × W64) := []
  warm : List W64 := List.replicate 8 0x8768000000000001#64
  /-- Generators that STOP ends at their next line (R572). -/
  tgStops : List Nat := []
  /-- The scrub with which test hold begins is under way (R568); a run of self-tests with its tests and REQUAL (R575, R576). -/
  holding : Bool := false
  diag : Option (Nat × Bool) := none
  outs : List Out := []
deriving DecidableEq, Repr

/-- Why a step stops. -/
inductive Fault where
  /-- A command that names a unit, a partition, a ring, a port or a page that the spec says does not exist.
  Raised by every meaning that takes such an index. Safe: no such command can be given to the part. -/
  | noSuchUnit
deriving DecidableEq, Repr

/-- Why a command has no meaning. -/
inductive Refusal where
  /-- The command has no meaning in the model yet. Raised by the dispatch alone. Safe: nothing is claimed of it. -/
  | notModelled (mnemonic : String)
deriving DecidableEq, Repr

/-- The module after power is applied and before PWREN rises: nothing boots before that edge (R547), no formation is in
force, every register holds its reset value, every memory lists nothing, and no command waits. -/
def State.reset : State := {}

end Sys2Proof.Machine
end

