-- ==== Sys2Proof/Machine/Ops.lean ====
section
/-! DEFINITION. The named operations over the state: registers and counters, the scorebook, the device virtual range and
its side table, the residency table and the pools, tasks and their units, and completion entries. -/
namespace Sys2Proof.Machine
open Sys2Proof

/-! Bit fields of 64-bit words. -/

/-- Bits [hi:lo] of a word. -/
def getBits (w : W64) (hi lo : Nat) : Nat := fld w.toNat hi lo

/-- The word with `v` in bits [hi:lo]. -/
def setBits (w : W64) (hi lo v : Nat) : W64 :=
  (w &&& ~~~ BitVec.ofNat 64 (maskBits hi lo)) ||| BitVec.ofNat 64 ((v % pow2 (hi + 1 - lo)) <<< lo)

/-! Registers and counters. -/

/-- The live value of the register at `a`. -/
def State.reg (s : State) (a : Nat) : W64 := Sparse.get 0 s.maps.reg a ^^^ resetOf a

/-- Setting the live value of the register at `a`. -/
def State.setReg (s : State) (a : Nat) (v : W64) : State :=
  { s with maps := { s.maps with reg := Sparse.set 0 s.maps.reg a (v ^^^ resetOf a) } }

/-- Bits [hi:lo] of a register. -/
def State.rd (s : State) (a hi lo : Nat) : Nat := getBits (s.reg a) hi lo

/-- Setting bits [hi:lo] of a register. -/
def State.setFld (s : State) (a hi lo v : Nat) : State := s.setReg a (setBits (s.reg a) hi lo v)

/-- The live value of a counter or of another register of type SNAP. -/
def State.ctr (s : State) (a : Nat) : W64 := Sparse.get 0 s.maps.ctr a

/-- Setting it. -/
def State.setCtr (s : State) (a : Nat) (v : W64) : State :=
  { s with maps := { s.maps with ctr := Sparse.set 0 s.maps.ctr a v } }

/-- Adding `n` to a counter, which wraps at 2^64 (R185). -/
def State.bump (s : State) (a n : Nat) : State := s.setCtr a (s.ctr a + BitVec.ofNat 64 n)

/-- Adding to a tenant's count of the closing frame (R417). -/
def State.charge (s : State) (a n : Nat) : State :=
  { s with maps := { s.maps with acct := Sparse.set 0 s.maps.acct a (Sparse.get 0 s.maps.acct a + BitVec.ofNat 64 n) } }

/-- Copying the live value of `a` into its snapshot copy (R11). -/
def State.take1 (s : State) (a : Nat) : State :=
  { s with maps := { s.maps with snap := Sparse.set 0 s.maps.snap a (s.ctr a) } }

/-- Copying a list of registers in one clock (O9). -/
def State.takeAll (s : State) (as : List Nat) : State := as.foldl State.take1 s

/-- Resetting the counters in a list: the live values and the copies that their registers read (R185, log 132). -/
def State.clearCtrs (s : State) (as : List Nat) : State := as.foldl (fun s a => (s.setCtr a 0).take1 a) s

/-- FORMATION_READY. -/
def State.ready (s : State) : Bool := s.rd 0x8 18 18 = 1

/-- RAS_STATUS.FATAL (R440). -/
def State.fatal (s : State) : Bool := s.rd 0x700008 0 0 = 1

/-- Every engine has stopped: the fatal state (R432), or a reset that a flush precedes (R515, R580). -/
def State.stopped (s : State) : Bool := s.dying || s.fatal

/-! The scorebook. -/

/-- Unit numbers of R600. -/
def unitOf (cls die u : Nat) : Nat := cls * 4096 + die * 256 + u

/-- Writing one record (R577, R579): the ring keeps the last 65,536. The spec gives no SEV by code: a free value of the
code. While a flush holds recording, the event is counted as dropped (R580). -/
def State.event (s : State) (code unitId part a0 a1 : Nat) : State :=
  if s.sb.held then s.bump 0x709048 1
  else { s with sb := { s.sb with
      recs := ({ time := (s.reg 0x900008).toNat, seq := s.sb.head, boot := s.sb.boot, code := code, unitId := unitId,
                 part := part, sev := Config.sev code % 5, arg0 := a0 % pow2 32, arg1 := a1 % pow2 32 } :: s.sb.recs).take 65536,
      head := s.sb.head + 1 } }

/-- Telling the outside. -/
def State.tell (s : State) (o : Out) : State := { s with outs := s.outs ++ [o] }

/-- Entering a unit into the disabled-unit map (R576). -/
def State.mapAdd (s : State) (what die idx : Nat) : State :=
  if s.disMap.any fun e => e.what == what && e.die == die && e.idx == idx then s
  else { s with disMap := s.disMap ++ [{ what := what, die := die, idx := idx, boot := s.sb.boot }] }

/-! Free values. -/

/-- The state after one more open value has been taken. -/
def State.spend (s : State) : State := { s with free := s.free + 1 }

/-! Bytes. -/

/-- One byte of the device virtual range. -/
def State.devByte (s : State) (a : Nat) : Byte := Sparse.get 0 s.maps.dev a

/-- `n` bytes of the device virtual range. -/
def State.devBytes (s : State) (a n : Nat) : List Byte := Sparse.getList 0 s.maps.dev a n

/-- A little-endian number of `n` bytes of the device virtual range. -/
def State.devNat (s : State) (a n : Nat) : Nat := leNat (s.devBytes a n)

/-- A little-endian number of `n` bytes of host memory. -/
def State.hostNat (s : State) (a n : Nat) : Nat := leNat (Sparse.getList 0 s.maps.host a n)

/-- Writing bytes into host memory. -/
def State.hostWrite (s : State) (a : Nat) (bs : List Byte) : State :=
  { s with maps := { s.maps with host := Sparse.setList 0 s.maps.host a bs } }

/-- The host's own stores. -/
def State.hostStores (s : State) (w : List HostStore) : State :=
  { s with maps := { s.maps with host := Sparse.setAll 0 s.maps.host (w.map fun h => (h.addr, h.byte)) } }

/-- A little-endian field of a list of bytes. -/
def bytesNat (bs : List Byte) (off n : Nat) : Nat := leNat ((bs.drop off).take n)

/-- The list without repeats, the first of each kept. -/
def nubList (l : List Nat) : List Nat := l.foldl (fun a x => if x ∈ a then a else a ++ [x]) []

/-! CRC-32C (R353). -/

/-- One byte of the reflected CRC-32C. -/
def crcByte (c : W32) (b : Byte) : W32 :=
  (List.range 8).foldl (fun c _ => if c.getLsbD 0 then (c >>> 1) ^^^ 0x82F63B78#32 else c >>> 1) (c ^^^ b.setWidth 32)

/-- The CRC-32C of a list of bytes. -/
def crc32c (bs : List Byte) : W32 := ~~~ (bs.foldl crcByte 0xFFFFFFFF#32)

/-! Residency entries (R313). -/

/-- The entry of a page. -/
def State.rt (s : State) (page : Nat) : W64 := Sparse.get 0 s.maps.rt page

/-- Writing the entry of a page. -/
def State.setRt (s : State) (page : Nat) (e : W64) : State :=
  { s with maps := { s.maps with rt := Sparse.set 0 s.maps.rt page e } }

def rtAge (e : W64) : Nat := getBits e 63 56
def rtPart (e : W64) : Nat := getBits e 55 53
def rtState (e : W64) : Nat := getBits e 52 50
def rtTier (e : W64) : Nat := getBits e 49 48
def rtDest (e : W64) : Nat := getBits e 47 46
def rtPlace (e : W64) : Nat := getBits e 45 44
def rtKeep (e : W64) : Bool := getBits e 43 43 = 1
def rtPin (e : W64) : Bool := getBits e 42 42 = 1
def rtComp (e : W64) : Bool := getBits e 41 41 = 1
def rtNarrow (e : W64) : Bool := getBits e 40 40 = 1
def rtNsrc (e : W64) : Nat := getBits e 39 38
def rtNtgt (e : W64) : Nat := getBits e 37 37
def rtFrame (e : W64) : Nat := getBits e 23 0
/-- The die of a page held in the tile store. -/
def rtDie (e : W64) : Nat := getBits e 12 10

/-! The side table (R352). -/

def State.side (s : State) (blk : Nat) : W64 := Sparse.get 0 s.maps.side blk

def State.setSide (s : State) (blk : Nat) (v : W64) : State :=
  { s with maps := { s.maps with side := Sparse.set 0 s.maps.side blk v } }

/-- The block is marked lost (R332). -/
def State.lost (s : State) (blk : Nat) : Bool := getBits (s.side blk) 32 32 = 1

/-- The block's bytes and its CRC disagree. -/
def State.crcBad (s : State) (blk : Nat) : Bool := getBits (s.side blk) 31 0 ≠ 0

/-! Partitions. -/

def State.part (s : State) (p : Nat) : Option PartRec := s.parts.find? fun x => x.p == p

/-- The compute dies of a partition. -/
def State.dies (s : State) (p : Nat) : List Nat := ((s.part p).map PartRec.dies).getD []

/-- The partition that owns a compute die. -/
def State.dieOwner (s : State) (d : Nat) : Option Nat := (s.parts.find? fun x => x.dies.contains d).map PartRec.p

/-- The page lies in the partition's span (R310). -/
def PartRec.owns (x : PartRec) (page : Nat) : Bool := x.spanBase ≤ page && page < x.spanBase + x.spanPages

/-- The partition whose span holds a page. -/
def State.pageOwner (s : State) (page : Nat) : Option Nat := (s.parts.find? fun x => x.owns page).map PartRec.p

/-- The PCIe function of a partition (R504): PF0 with no virtual functions, else VF p + 1 when it exists. -/
def State.fnOfPart (s : State) (p : Nat) : Option Nat :=
  if s.numVfs = 0 then (if p = 0 then some 0 else none) else if p < s.numVfs then some (p + 1) else none

/-- The partition of a PCIe function (R504, R508): PF0 with virtual functions reaches HIF_WIN.PART. -/
def State.partOfFn (s : State) (fn : Nat) : Nat :=
  if fn = 0 then (if s.numVfs = 0 then 0 else getBits (Sparse.get 0 s.maps.reg 0x20) 50 48) else fn - 1

/-- SCH_PART_STATUS.STATE: 0 RUNNING, 1 SAVING, 2 IDLE, 3 RESTORING, 4 RESETTING (R416). -/
def State.pstate (s : State) (p : Nat) : Nat := s.rd (Addr.sch p 4) 2 0

/-- Raising a vector of the partition's function (R509). -/
def State.raisePart (s : State) (p vec : Nat) : State :=
  match s.fnOfPart p with
  | some fn => s.tell (.msix fn vec)
  | none => s

/-! Pools and placement (R319 to R323). -/

/-- The entries of the residency table that `p` owns. -/
def State.pagesOf (s : State) (p : Nat) : List (Nat × W64) :=
  s.maps.rt.filter fun e => rtPart e.2 == p && rtState e.2 != 0

/-- Bytes of a die's tile store that spilled partial sums, staged values and gathered key blocks of the partition's tasks
take (R135, R174, R233). -/
def State.workBytes (s : State) (p die : Nat) : Nat :=
  let us := ((s.tasks.filter fun t => t.p == p).map TaskRec.units).flatten.filter fun u => u.heldAt == die
  (us.map UnitRec.held).foldl (· + ·) 0

/-- The tile-store frames that they fill (R321). -/
def State.workFrames (s : State) (p die : Nat) : Nat := (s.workBytes p die + 262143) / 262144

/-- Frames of a die's share of the keep region (R273). -/
def State.keepShare (s : State) (p die : Nat) : Nat :=
  let r := ((s.part p).map PartRec.keepPages).getD 0
  let ds := (List.range 8).filter fun d => (s.dies p).contains d
  r / max 1 ds.length + (if ds.findIdx (· == die) < r % max 1 ds.length then 1 else 0)

/-- Frames of a die's tile store that kept pages hold, or migrate into. -/
def State.keptHeld (s : State) (p die : Nat) : Nat :=
  ((s.pagesOf p).filter fun e => (rtState e.2 == 2 || rtState e.2 == 3) && rtTier e.2 == 1 && rtDie e.2 == die && rtKeep e.2).length +
  (s.migs.filter fun m => m.tier == 1 && m.die == die && s.pageOwner m.page == some p && rtKeep (s.rt m.page)).length

/-- A frame number belongs to the pool: a host frame at an index at or above COUNT does not (R326). -/
def State.inPool (s : State) (p tier frame : Nat) : Bool := tier != 3 || decide (frame < s.rd (Addr.memp p 0x30) 23 0)

/-- Frames of a tier (of a die, for the tile store) that pages of the partition hold, a migration holding two. -/
def State.framesHeld (s : State) (p tier die : Nat) : Nat :=
  ((s.pagesOf p).filter fun e => (rtState e.2 == 2 || rtState e.2 == 3) && rtTier e.2 == tier &&
      (tier != 1 || rtDie e.2 == die) && s.inPool p tier (rtFrame e.2)).length +
  (s.migs.filter fun m => m.tier == tier && (tier != 1 || m.die == die) && s.pageOwner m.page == some p && s.inPool p tier m.frame).length +
  (s.frames.filter fun f => f.p == p && f.tier == tier && (tier != 1 || f.die == die) && s.inPool p tier f.frame).length +
  (if tier = 1 then s.workFrames p die else 0)

/-- Frames in a pool: 992 for each die's tile store, the partition's HBM frames, the registered host frames, less those that
R333 took out of service and the host entries that R325 skipped. -/
def State.poolFrames (s : State) (p tier die : Nat) : Nat :=
  let bad := (s.badFrames.filter fun f => f.p == p && f.tier == tier && (tier != 1 || f.die == die) && s.inPool p tier f.frame).length
  let all := if tier = 1 then 992
    else if tier = 2 then ((s.part p).map PartRec.hbmFrames).getD 0
    else s.rd (Addr.memp p 0x30) 23 0 - (s.hostSkips.filter fun x => x.1 == p && s.inPool p 3 x.2).length
  all - bad

/-- Free frames of a pool for pages that are not kept. -/
def State.freeFrames (s : State) (p tier die : Nat) : Nat :=
  if tier = 1 then s.poolFrames p 1 die - s.keepShare p die - (s.framesHeld p 1 die - s.keptHeld p die)
  else s.poolFrames p tier die - s.framesHeld p tier die

/-- Free frames of a die's share of the keep region. -/
def State.keptFree (s : State) (p die : Nat) : Nat := s.keepShare p die - s.keptHeld p die

/-- A watermark of a pool in 1/256 of a frame (R323). -/
def State.watermark (s : State) (p tier die : Nat) (high : Bool) : Nat :=
  let a := Addr.memp p (0x8 + 8 * tier)
  let w := if high then getBits (s.ctr a) 63 56 else getBits (s.ctr a) 55 48
  w * s.poolFrames p tier die

/-- The free frames of a pool lie above a watermark, or below it. -/
def State.aboveMark (s : State) (p tier die : Nat) (high : Bool) : Bool :=
  decide (s.watermark p tier die high < 256 * s.freeFrames p tier die)
def State.belowMark (s : State) (p tier die : Nat) (high : Bool) : Bool :=
  decide (256 * s.freeFrames p tier die < s.watermark p tier die high)

/-- The accessor of a page that is no die: the host through BAR2, or firmware. -/
def noDie : Nat := 8

/-- The die that firmware records as the last to access a page since it was mapped (R273). -/
def State.lastDie (s : State) (page : Nat) : Option Nat := (s.lastDies.find? fun x => x.1 == page).map Prod.snd

/-- The die whose share takes a kept page (R273): the last accessing one while it has room, else the one with the most free
frames, the lower number breaking a tie. -/
def State.keepDie (s : State) (p : Nat) (last : Option Nat) : Option Nat :=
  let ds := (List.range 8).filter fun d => (s.dies p).contains d
  match last.filter fun d => d < 8 && decide (0 < s.keptFree p d) with
  | some d => some d
  | none =>
    (ds.foldl (fun (b : Option Nat) d =>
      match b with
      | none => if 0 < s.keptFree p d then some d else none
      | some c => if s.keptFree p c < s.keptFree p d then some d else some c) none)

/-- The tier and the die that a page goes to (R322) when the die `die` of the partition accesses it: its PLACE first, then any
tier with a free frame; none when every tier that the rules allow is full. -/
def State.placeTier (s : State) (p die : Nat) (e : W64) : Option (Nat × Nat) :=
  let ts := if die < 8 then s.freeFrames p 1 die else 0
  let hbm := s.freeFrames p 2 0
  let host := s.freeFrames p 3 0
  let down := if 0 < hbm then some (2, 0) else if 0 < host then some (3, 0) else none
  if rtKeep e then (s.keepDie p (some die)).map fun d => (1, d)
  else if rtPlace e = 3 then (if 0 < host then some (3, 0) else none)
  else if rtPlace e ≤ 1 ∧ !rtPin e ∧ die < 8 ∧ s.aboveMark p 1 die false then some (1, die)
  else
    match down with
    | some t => some t
    | none => if !rtPin e && decide (0 < ts) then some (1, die) else none

/-- A number put into a rising list, unless it stands there. -/
def insertNat (n : Nat) : List Nat → List Nat
  | [] => [n]
  | x :: l => if n < x then n :: x :: l else if n = x then x :: l else x :: insertNat n l

/-- The `k`-th number, from 0, that a list does not hold. -/
def nthFree (used : List Nat) (k : Nat) : Nat := (used.foldr insertNat []).foldl (fun n u => if u ≤ n then n + 1 else n) k

/-- HBM frames that the module holds (R320). -/
def State.hbmTotal (s : State) : Nat := if s.rd 0x300000 37 37 = 1 then 3139584 else 3145728

/-- The frames of a tier that hold a page, take one in, await their return or are out of service (R319, R325, R333): frame
numbers of R313. -/
def State.usedFrames (s : State) (p tier : Nat) : List Nat :=
  let own := fun q => tier != 3 || q == p
  ((s.maps.rt.filter fun x => (rtState x.2 == 2 || rtState x.2 == 3) && rtTier x.2 == tier && own (rtPart x.2)).map fun x => rtFrame x.2) ++
    ((s.migs.filter fun m => m.tier == tier && own ((s.pageOwner m.page).getD p)).map MigRec.frame) ++
    (((s.frames ++ s.badFrames).filter fun f => f.tier == tier && own f.p).map FrameRec.frame) ++
    (if tier = 3 then (s.hostSkips.filter fun x => x.1 == p).map Prod.snd
     else (s.disMap.filter fun e => e.what + tier == 5).map DisEntry.idx)

/-- The frame number that firmware takes in a tier: a free value among the frames that are free (R313, R319). -/
def State.newFrame (s : State) (p tier die : Nat) : Nat :=
  let base := if tier = 1 then die * 1024 else 0
  let size := if tier = 1 then 1024 else if tier = 2 then s.hbmTotal else s.rd (Addr.memp p 0x30) 23 0
  let used := ((s.usedFrames p tier).filter fun f => base ≤ f && decide (f < base + size)).map fun f => f - base
  base + nthFree used (Config.frame s.free % max 1 (size - (used.foldr insertNat []).length))

/-- A page takes a frame in a tier and reads RESIDENT (R314, R322). -/
def State.takeFrame (s : State) (page tier die : Nat) : State :=
  let e := s.rt page
  let e := setBits (setBits (setBits (setBits e 52 50 2) 49 48 tier) 47 46 0) 23 0 (s.newFrame (rtPart e) tier die)
  (s.setRt page e).spend

/-- An access to a page clears its age (R30) and is remembered with its die, if a die makes it (R273, R324). -/
def State.touchPage (s : State) (page die : Nat) : State :=
  let e := s.rt page
  let s := if rtState e = 0 then s else s.setRt page (setBits e 63 56 0)
  if die < 8 then
    { s with touched := if (page, die) ∈ s.touched then s.touched else (page, die) :: s.touched
             lastDies := (page, die) :: s.lastDies.filter fun x => x.1 != page }
  else s

/-- The first write to a ZERO page takes a frame (R314, R322). While no tier can take the page, its writers wait
(`State.canWrite`). -/
def State.firstWrite (s : State) (page die : Nat) : State :=
  let e := s.rt page
  if rtState e = 1 then
    match s.placeTier (rtPart e) die e with
    | some t => s.takeFrame page t.1 t.2
    | none => s
  else s

/-- A write to a page can be done now: its page has a frame or can take one (R322), and no migration holds its writes (R327). -/
def State.canWrite (s : State) (die page : Nat) : Bool :=
  let e := s.rt page
  (rtState e != 1 || (s.placeTier (rtPart e) die e).isSome) && !(s.migs.any fun m => m.page == page && m.held)

/-- Every page of a list can be written, each taking its frame in turn. -/
def State.canWriteAll (s : State) (die : Nat) (pages : List Nat) : Bool :=
  (pages.foldl (fun (x : Bool × State) pg => (x.1 && x.2.canWrite die pg, x.2.firstWrite pg die)) (true, s)).1

/-- A block that a base die or IO0 compresses (R334): its stored sectors are a free value from 1 to 128. -/
def State.compressBlock (s : State) (blk : Nat) : State :=
  let e := s.rt (blk / 64)
  if rtComp e && (rtTier e == 2 || rtTier e == 3) then
    let n := 1 + Config.sectors s.free % 128
    let v := setBits (setBits (s.side blk) 39 33 (n - 1)) 40 40 (if n < 128 then 1 else 0)
    let p := rtPart e
    (((s.setSide blk v).bump (Addr.memp p 0x70) 4096).bump (Addr.memp p 0x78) (32 * n)).spend
  else s

/-- LOSTBLK of a page follows the marks of its blocks (R313, R332). -/
def State.refreshLost (s : State) (page : Nat) : State :=
  let any := (List.range 64).any fun i => s.lost (page * 64 + i)
  let e := s.rt page
  if rtState e = 0 then s else s.setRt page (setBits e 36 36 (if any then 1 else 0))

/-- A write that covers a block whole makes its CRC good and clears its lost mark, and LOSTBLK follows (R332, R354). -/
def State.wholeWrite (s : State) (blk : Nat) : State :=
  let s := s.setSide blk 0
  if getBits (s.rt (blk / 64)) 36 36 = 1 then s.refreshLost (blk / 64) else s

/-- Marking a block written: a write that covers it whole makes its CRC good and clears the lost mark, a partial write
carries a disagreement on (R354, R332); a migration in progress notes it as dirty, but while it holds writes, which then
land after its switch (R327). -/
def State.blockWritten (s : State) (blk : Nat) (whole : Bool) : State :=
  let s := if whole then s.wholeWrite blk else s
  let s := { s with
    migs := s.migs.map fun (m : MigRec) =>
      if m.page = blk / 64 ∧ !m.held then { m with dirty := if blk ∈ m.dirty then m.dirty else m.dirty ++ [blk] } else m
    frames := s.frames.map fun (f : FrameRec) =>
      if f.page = blk / 64 then { f with dirty := if blk ∈ f.dirty then f.dirty else f.dirty ++ [blk] } else f }
  s.compressBlock blk

/-- Bytes of a PLACE = 3 page that were moved in place (MEM_HOST_INPLACE_BYTES). -/
def State.inPlace (s : State) (page n : Nat) : State :=
  let e := s.rt page
  if rtPlace e = 3 && rtTier e = 3 then s.bump (Addr.memp (rtPart e) 0xA0) n else s

/-- The stored bytes of a block (R334, R352). -/
def State.storedBytes (s : State) (blk : Nat) : Nat :=
  let v := s.side blk
  if getBits v 40 40 = 1 then 32 * (getBits v 39 33 + 1) else 4096

/-- A block of a COMPRESS page that is read from host passes the compressor (R334). -/
def State.hostRead (s : State) (blk : Nat) : State :=
  let e := s.rt (blk / 64)
  if rtComp e && rtTier e == 3 then
    (s.bump (Addr.memp (rtPart e) 0x70) 4096).bump (Addr.memp (rtPart e) 0x78) (s.storedBytes blk)
  else s

/-- A whole block is read on behalf of a die (R30, R324, R334). -/
def State.blockRead (s : State) (die blk : Nat) : State :=
  ((s.touchPage (blk / 64) die).inPlace (blk / 64) 4096).hostRead blk

/-- HBM_PC_STATUS.STATE: 0 ACTIVE, 1 RETRAINING, 2 REPAIRING, 3 FAILED, 4 REMOVED. -/
def State.pcState (s : State) (pc : Nat) : Nat := s.rd (Addr.hbmPc pc 0) 3 0

/-- The pseudo-channel is quiesced (R362, R366). -/
def State.pcQuiet (s : State) (pc : Nat) : Bool := s.pcState pc == 1 || s.pcState pc == 2

/-- Some pseudo-channel is quiesced (R368). -/
def State.quiescing (s : State) : Bool := (List.range 512).any s.pcQuiet

/-! The interleave map (R346, R348). -/

/-- h of R346. -/
def lineHash (ln : Nat) : Nat := ln % 512 ^^^ (ln / 512 % 512) ^^^ (ln / 262144 % 512)

/-- The pseudo-channel and the line of granule `g`, with 512 pseudo-channels or with x removed. -/
def granulePlace (removed : Option Nat) (g : Nat) : Nat × Nat :=
  match removed with
  | none =>
    let ln := g / 512
    (g % 512 ^^^ lineHash ln, ln)
  | some x =>
    let ln := g / 511
    let q := (g % 511 + lineHash ln) % 511
    (if q < x then q else q + 1, ln)

/-- The pseudo-channel that the formation removed (R372). -/
def State.removedPc (s : State) : Option Nat := if s.rd 0x300000 37 37 = 1 then some (s.rd 0x300000 36 28) else none

/-- Where the byte at offset o of a frame lies: pseudo-channel and line. -/
def State.hbmPlace (s : State) (frame o : Nat) : Nat × Nat := granulePlace s.removedPc (frame * 1024 + o / 256)

/-- The places of a block's granules, while its page lies in HBM. -/
def State.blockPlaces (s : State) (blk : Nat) : List (Nat × Nat) :=
  let e := s.rt (blk / 64)
  if (rtState e = 2 ∨ rtState e = 3) ∧ rtTier e = 2 then
    (List.range 16).map fun i => s.hbmPlace (rtFrame e) (blk % 64 * 4096 + 256 * i)
  else []

/-- A pseudo-channel that holds a part of the block is quiesced. -/
def State.blockQuiesced (s : State) (blk : Nat) : Bool := (s.blockPlaces blk).any fun x => s.pcQuiet x.1

/-! The side table and quiesces (R352, R368). -/

/-- No pseudo-channel of the stack is quiesced. -/
def State.stackQuiet (s : State) (pc : Nat) : Bool := !((List.range 64).any fun i => s.pcQuiet (8 * i + pc % 8))

/-- The side-table entry of a block outside the tile store lies in a stack with a quiesced pseudo-channel, so that its update waits
(R352, R368). -/
def State.entryLate (s : State) (blk : Nat) : Bool := s.rd 0x300000 15 12 != 0 && rtTier (s.rt (blk / 64)) != 1 && !s.stackQuiet blk

/-- Writing bytes into the device virtual range on behalf of a die, and of a task when `tid` names one: frames are
taken, blocks are marked, ages cleared, and blocks of NARROW pages noted for the task's completion (R335). -/
def State.devWrite (s : State) (die : Nat) (tid : Option Nat) (w : List (Nat × Byte)) : State :=
  let addrs := w.map Prod.fst
  let pages := nubList (addrs.map (· / 262144))
  let blks := nubList (addrs.map (· / 4096))
  let s := { s with maps := { s.maps with dev := Sparse.setAll 0 s.maps.dev w } }
  let s := pages.foldl (fun s pg => (s.firstWrite pg die).touchPage pg die) s
  let s := pages.foldl (fun s pg => s.inPlace pg (addrs.filter fun a => a / 262144 == pg).length) s
  let s := blks.foldl (fun s b => s.blockWritten b (decide (4096 ≤ (nubList (addrs.filter fun a => a / 4096 == b)).length))) s
  match tid with
  | some t =>
    let due := (blks.filter fun b => rtNarrow (s.rt (b / 64)) && !s.narrowDue.contains (t, b)).map fun b => (t, b)
    { s with narrowDue := s.narrowDue ++ due, entryWait := s.entryWait ++ (blks.filter s.entryLate).map fun b => (t, b) }
  | none => s

/-- Writing a run of bytes. -/
def State.devWriteRun (s : State) (die : Nat) (tid : Option Nat) (a : Nat) (bs : List Byte) : State :=
  s.devWrite die tid (Sparse.numbered a bs)

/-- Marking a block lost (R332): the side table's mark, LOSTBLK of its page, the count and the record. -/
def State.markLost (s : State) (blk : Nat) : State :=
  if s.lost blk then s
  else
    let e := s.rt (blk / 64)
    let s := s.setSide blk (setBits (s.side blk) 32 32 1)
    let s := if rtState e = 0 then s else s.setRt (blk / 64) (setBits e 36 36 1)
    let p := rtPart e
    (s.bump (Addr.memp p 0x90) 1).event 0x21 (unitOf 4 0 0x21) p blk (rtTier e)

/-- Recording a memory fault (R311, R312, R325, R326, R598). KIND 7 counts nothing. -/
def State.memFault (s : State) (p kind where_ : Nat) (count : Bool) : State :=
  let s := if count then s.bump (Addr.memp p 0x68) 1 else s
  s.setCtr (Addr.memp p 0x40) (BitVec.ofNat 64 (kind * pow2 32 + where_ % pow2 24))

/-- The page's bytes, marks, attributes and entry are gone, a cleared KEEP is counted (R287), and its frame is on its way to the pool
(R316, R319, R341). -/
def State.dropPage (s : State) (page : Nat) : State :=
  let e := s.rt page
  let s := if rtKeep e then s.bump (Addr.keep (rtPart e) 0x20) 1 else s
  let gone : List FrameRec := if rtState e = 2 || rtState e = 3 then
      [{ page := page, p := rtPart e, tier := rtTier e, die := rtDie e, frame := rtFrame e }] else []
  let gone2 : List FrameRec := (s.migs.filter fun m => m.page == page).map fun (m : MigRec) =>
      { page := page, p := rtPart e, tier := m.tier, die := m.die, frame := m.frame }
  { s with
    maps := { s.maps with
      dev := Sparse.erase (fun a => a / 262144 == page) s.maps.dev
      side := Sparse.erase (fun b => b / 64 == page) s.maps.side
      rt := Sparse.set 0 s.maps.rt page 0 }
    migs := s.migs.filter fun m => m.page != page
    moves := s.moves.filter fun m => m.page != page
    touched := s.touched.filter fun x => x.1 != page
    touchedPrev := s.touchedPrev.filter fun x => x.1 != page
    lastDies := s.lastDies.filter fun x => x.1 != page
    frames := (s.frames.map fun (f : FrameRec) => if f.page = page then { f with copy := false } else f) ++ gone ++ gone2 }

/-! Rings, graphs and tasks. -/

def State.ring (s : State) (p r : Nat) : RingRec :=
  (s.rings.find? fun x => x.p == p && x.r == r).getD { p := p, r := r }

def State.setRing (s : State) (x : RingRec) : State :=
  { s with rings := x :: s.rings.filter fun y => !(y.p == x.p && y.r == x.r) }

/-- Ring r of partition p is enabled. -/
def State.enabled (s : State) (p r : Nat) : Bool := s.rd (Addr.ringCfg p r) 17 17 = 1

/-- The task of a number that engines and firmware can work on: none while every engine has stopped. -/
def State.task (s : State) (tid : Nat) : Option TaskRec :=
  if s.stopped then none else s.tasks.find? fun t => t.tid == tid

def State.setTask (s : State) (t : TaskRec) : State :=
  { s with tasks := s.tasks.map fun u => if u.tid = t.tid then t else u }

def State.graph (s : State) (gid : Nat) : Option GraphRec := s.graphs.find? fun g => g.gid == gid

def TaskRec.unit (t : TaskRec) (uid : Nat) : Option UnitRec := t.units.find? fun u => u.uid == uid

def TaskRec.setUnit (t : TaskRec) (u : UnitRec) : TaskRec :=
  { t with units := t.units.map fun v => if v.uid = u.uid then u else v }

/-- A field of the task's descriptor. -/
def TaskRec.f (t : TaskRec) (off n : Nat) : Nat := bytesNat t.desc off n

/-- The tasks of a graph. -/
def State.tasksOf (s : State) (gid : Nat) : List TaskRec := s.tasks.filter fun t => t.gid == gid

/-- Every task of the graph has completed; a graph that is gone has. -/
def State.graphDone (s : State) (p r seq : Nat) : Bool := !(s.graphs.any fun g => g.p == p && g.r == r && g.seq == seq)

/-- Queueing a completion entry of a ring (R397: kept in completion order). -/
def State.queueEntry (s : State) (p r : Nat) (e : CqEntry) : State :=
  let x := s.ring p r
  s.setRing { x with kept := x.kept ++ [e] }

/-- The entry that reports a whole graph (R382, R395, R400, R408). -/
def State.graphEntry (s : State) (g : GraphRec) (status : Nat) : State :=
  s.queueEntry g.p g.r { user := 0, seq := g.seq, idx := 0xFFFF, status := status, flags := 0, cyc := 0,
                         frame := (s.reg 0x100008).toNat % pow2 32, aux := 0 }

/-- The graph leaves the table. -/
def State.dropGraph (s : State) (gid : Nat) : State :=
  { s with graphs := s.graphs.filter (fun g => g.gid != gid)
           tasks := s.tasks.filter (fun t => t.gid != gid) }

/-- A task that ends with a status has run: it was ready or at work, and the status is not one with which a task writes nothing
(ST_INVALID_DESC, ST_LENGTH_LIMIT, ST_REF_MISSING). -/
def TaskRec.runs (t : TaskRec) (status : Nat) : Bool :=
  t.ran || ((t.phase == .ready || t.phase == .running) && !([0x10, 0x11, 0x12].contains status))

/-- The outcome of a task is decided with a status: its units stop and it waits for its completion. A task whose outcome is decided
keeps it (R436: the first exhaustion). -/
def State.endTask (s : State) (tid status : Nat) : State :=
  match s.task tid with
  | none => s
  | some t =>
    if t.phase = .ended || t.phase = .done then s
    else s.setTask { t with
      phase := .ended, status := status, slices := []
      ran := t.runs status
      units := t.units.map fun u => { u with acc := [], staged := [], bank := none } }

end Sys2Proof.Machine
end

