-- ==== Sys2Proof/Machine/Operands.lean ====
section
/-! DEFINITION. Operand forms: runs of bytes, tensors with their scale arrays (R41 to R46, R142), chain programs and
argument tables in memory (R153, R163), the product, vector-program and CONVERT descriptors (R140, R388, R389), and the
random draws of a task (R293 to R295). -/
namespace Sys2Proof.Machine
open Sys2Proof

/-- `nb` batch entries of `n` rows of `len` bytes. -/
structure Rng where
  base : Nat
  nb : Nat := 1
  bstride : Nat := 0
  n : Nat := 1
  stride : Nat := 0
  len : Nat
deriving DecidableEq, Repr

/-- The rows of a range as (address, length). -/
def Rng.rows (x : Rng) : List (Nat × Nat) :=
  (List.range x.nb).flatMap fun b => (List.range x.n).map fun r => (x.base + b * x.bstride + r * x.stride, x.len)

/-- Two runs of bytes share a byte. -/
def runsMeet (a b : Nat × Nat) : Bool := a.1 < b.1 + b.2 && b.1 < a.1 + a.2 && a.2 != 0 && b.2 != 0

/-- Two ranges share a byte. -/
def Rng.meets (x y : Rng) : Bool := x.rows.any fun a => y.rows.any fun b => runsMeet a b

/-- Some range of one list shares a byte with some range of the other. -/
def rngsMeet (xs ys : List Rng) : Bool := xs.any fun x => ys.any fun y => x.meets y

def ceilDiv (a b : Nat) : Nat := (a + b - 1) / b
/-- `a` rounded up to a multiple of `b`. -/
def roundUp (a b : Nat) : Nat := ceilDiv a b * b

/-- A stored tensor: elements packed along `cols`, `rows` rows per batch entry, and its scales (R41, R45). A batch
stride of 0 shares one copy. -/
structure Tensor where
  base : Nat
  fmt : Fmt
  smode : SMode
  t : F32
  scale : Nat
  stride : Nat
  bstride : Nat
  nb : Nat
  rows : Nat
  cols : Nat
deriving DecidableEq, Repr

/-- The stored length of a row in bytes. -/
def Tensor.rowLen (x : Tensor) : Nat := rowBytes x.fmt x.cols
/-- Scale bytes of one row (R45). -/
def Tensor.scaleRow (x : Tensor) : Nat := if x.smode.blocked then ceilDiv x.cols x.smode.block else 0
/-- The size of one entry's scale array, rounded up to 64 bytes (R45). -/
def Tensor.scaleEntry (x : Tensor) : Nat := roundUp (x.rows * x.scaleRow) 64
/-- The copies that the batch entries name. -/
def Tensor.copies (x : Tensor) : Nat := if x.bstride = 0 then 1 else x.nb
def Tensor.rowAddr (x : Tensor) (b r : Nat) : Nat := x.base + b * x.bstride + r * x.stride
/-- The address of the scale byte of an element (R45). -/
def Tensor.scaleAddr (x : Tensor) (b r c : Nat) : Nat :=
  x.scale + (if x.bstride = 0 then 0 else b) * x.scaleEntry + r * x.scaleRow + c / x.smode.block
/-- The bytes of the elements. -/
def Tensor.rng (x : Tensor) : Rng :=
  { base := x.base, nb := x.copies, bstride := x.bstride, n := x.rows, stride := x.stride, len := x.rowLen }
/-- The bytes of the elements and of the scale array. -/
def Tensor.rngs (x : Tensor) : List Rng :=
  x.rng :: (if x.smode.blocked then
    [{ base := x.scale, nb := x.copies, bstride := x.scaleEntry, len := x.rows * x.scaleRow }] else [])

/-- The format that a read delivers to a converter: an element with a scale is delivered in FP32 (R46). -/
def Tensor.srcFmt (x : Tensor) : Fmt := if x.smode = .none then x.fmt else .fp32

/-! Reading elements. -/

/-- The codebook table that a format names on a die (R49). -/
def State.tab (s : State) (die : Nat) (f : Fmt) : List W32 :=
  match f with
  | .cb k => (List.range 16).map fun c => Sparse.get 0 s.maps.cbk ((die * 14 + k) * 16 + c)
  | _ => []

/-- The code of an element. -/
def State.codeAt (s : State) (x : Tensor) (b r c : Nat) : Nat :=
  elemCode x.fmt (fun i => s.devByte (x.rowAddr b r + i)) c

/-- The scale byte of an element's block, 0 where there is none. -/
def State.scaleAt (s : State) (x : Tensor) (b r c : Nat) : Nat :=
  if x.smode.blocked then (s.devByte (x.scaleAddr b r c)).toNat else 0

/-- An element decoded without its scale, which products apply to sums, with the bad code that it may be; a NaN block
scale makes the element NaN (R44, R46, R48). -/
def State.elemVal (s : State) (die : Nat) (x : Tensor) (b r c : Nat) : Xv × Bool :=
  let d := decodeElem x.fmt (s.tab die x.fmt) (s.codeAt x b r c)
  if scaleNaN x.smode (s.scaleAt x b r c) then (.nan, d.2)
  else if x.smode == .two && scaleVal .two (s.scaleAt x b r c) == .fin false 0 0 then
    (match d.1 with | .fin n _ _ => .fin n 0 0 | v => v, d.2)
  else d

/-- An element as the load path delivers it in FP32 (R46), with the bad codes it counts. -/
def State.elemF32 (s : State) (die : Nat) (x : Tensor) (b r c : Nat) : F32 × Nat :=
  loadF32 x.fmt x.smode (s.tab die x.fmt) x.t (s.scaleAt x b r c) (s.codeAt x b r c)

/-- An FP32 pair element as it stands (R63). -/
def State.elemPair (s : State) (die : Nat) (x : Tensor) (b r c : Nat) : Pair :=
  if x.fmt = .fp32pair then
    let k := s.codeAt x b r c
    ⟨BitVec.ofNat 32 k, BitVec.ofNat 32 (k >>> 32)⟩
  else ⟨(s.elemF32 die x b r c).1, f32Zero⟩

/-- What the converter takes from an element: another format's own value where no scale applies, so that an exact
conversion stays exact (R55), else the FP32 value of R46. -/
def State.elemSrc (s : State) (die : Nat) (x : Tensor) (b r c : Nat) : Src × Nat :=
  if x.fmt = .fp32pair then (.pair (s.elemPair die x b r c), 0)
  else if x.fmt = .fp32 ∨ x.smode ≠ .none then
    let v := s.elemF32 die x b r c
    (.f32 v.1, v.2)
  else
    let d := decodeElem x.fmt (s.tab die x.fmt) (s.codeAt x b r c)
    (.elem x.fmt d.1, if d.2 then 1 else 0)

/-- The blocks of a row whose scale is NaN, which count as read bad codes (R44). -/
def State.nanScales (s : State) (x : Tensor) (b r cols : Nat) : Nat :=
  if x.smode.blocked then
    ((List.range (ceilDiv cols x.smode.block)).filter fun j => scaleNaN x.smode (s.scaleAt x b r (j * x.smode.block))).length
  else 0

/-- The bytes that put codes into a row from column `c0`, later ones over earlier ones (R41, R120). -/
def State.putCodes (s : State) (x : Tensor) (b r : Nat) (codes : List (Nat × Nat)) : List (Nat × Byte) :=
  let a := x.rowAddr b r
  let w := codes.foldl (fun (m : Sparse 8 × List Nat) cc =>
    let rd := fun i => match m.1.find? (fun e => e.1 == i) with
      | some e => e.2
      | none => s.devByte (a + i)
    (elemWrite x.fmt rd cc.1 cc.2).foldl (fun m e => ((e.1, e.2) :: m.1.filter (fun q => q.1 != e.1), m.2)) m) ([], [])
  w.1.reverse.map fun e => (a + e.1, e.2)

/-! Chain programs and argument tables in memory. -/

/-- The chain program at an address (R153). -/
def State.program (s : State) (a : Nat) : ChainProg := chainOf fun i => BitVec.ofNat 32 (s.devNat (a + 4 * i) 4)

/-- Resolving an argument reference against the argument block `arg` of the graph (R381); none is a refusal. -/
def State.resolveRef (s : State) (arg v : Nat) : Option Nat :=
  let k := v >>> 60
  let off := v % pow2 40
  if k = 0 then (if v >>> 40 = 0 then some v else none)
  else if arg = 0 then none
  else if k = 0xA then some (arg + off)
  else if k = 0xB then some (s.devNat (arg + 8 * fld v 58 56) 8 + off)
  else none

/-- Argument `i` of a table, its ADDR resolved unless it is an immediate (R163, R381). -/
def State.chainArg (s : State) (arg table i : Nat) : ChainArg :=
  let w := fun k => BitVec.ofNat 32 (s.devNat (table + 32 * i + 4 * k) 4)
  let a := chainArgOf w
  let raw := s.devNat (table + 32 * i) 8
  match a.kind with
  | .imm => a
  | .unused => a
  | _ =>
    match s.resolveRef arg raw with
    | some v => { chainArgOf (fun k => if k = 0 then BitVec.ofNat 32 v else if k = 1 then BitVec.ofNat 32 (v >>> 32) else w k)
                  with addr := v }
    | none => { a with ok := false }

/-- The eight arguments of a table; a table at 0 holds none. -/
def State.chainArgs (s : State) (arg table : Nat) : List ChainArg :=
  if table = 0 then List.replicate 8 { (default : ChainArg) with ok := true }
  else (List.range 8).map (s.chainArg arg table)

/-- An argument as a tensor over (batch, outer) × inner (R163, R164). -/
def argTensor (a : ChainArg) (nb rows cols : Nat) : Tensor :=
  let c := a.cv.getD default
  { base := a.addr, fmt := c.fmt, smode := c.smode, t := a.t, scale := 0, stride := a.stride, bstride := 256 * a.bstride
    nb := nb, rows := rows, cols := cols }

/-- The bytes that an argument's tensor covers, for extents rows × cols (R163, R164). -/
def argRngs (a : ChainArg) (nb rows cols : Nat) : List Rng :=
  let c := a.cv.getD default
  match a.kind with
  | .unused => []
  | .imm => []
  | .col => [{ base := a.addr, nb := if a.bstride = 0 then 1 else nb, bstride := 256 * a.bstride, len := rowBytes c.fmt cols }]
  | .row => [{ base := a.addr, nb := if a.bstride = 0 then 1 else nb, bstride := 256 * a.bstride, len := rowBytes c.fmt rows }]
  | .elem => [(argTensor a nb rows cols).rng]
  | .elemOut => [(argTensor a nb rows cols).rng]

/-- The value of an argument at batch entry b, row m and column c, with its bad codes (R164). -/
def State.argVal (s : State) (die : Nat) (a : ChainArg) (b m c : Nat) : Pair × Nat :=
  let x := argTensor a 1 1 1
  match a.kind with
  | .col => (s.elemPair die x b 0 c, (s.elemF32 die x b 0 c).2)
  | .row => (s.elemPair die x b 0 m, (s.elemF32 die x b 0 m).2)
  | .elem => (s.elemPair die x b m c, (s.elemF32 die x b m c).2)
  | .imm => (⟨BitVec.ofNat 32 a.addr, f32Zero⟩, 0)
  | _ => (⟨f32Zero, f32Zero⟩, 0)

/-! Random draws of a task. -/

/-- The key of stream `t` of a partition (R291, R292). -/
def State.streamKeyOf (s : State) (p t : Nat) : Quad := streamKey (Sparse.get 0 s.maps.seeds (p * 16 + t)) t

/-- The draw of SR for element e under a use code (R293, R295). -/
def State.srDraw (s : State) (t : TaskRec) (stream use e : Nat) : Nat :=
  drawSr (s.streamKeyOf t.p stream) use (t.f 0xC 4) (t.f 0x10 4) e

/-- The draw of DROP for element e. -/
def State.dropDraw (s : State) (t : TaskRec) (stream e : Nat) : Nat :=
  drawDrop (s.streamKeyOf t.p stream) (t.f 0xC 4) (t.f 0x10 4) e

/-- The function tables that a unit of a die reads in a bank (R186): what a load or a formation wrote, else the
library's. -/
def State.ftView (s : State) (die bank : Nat) : FtView :=
  let lib := libView (s.reg 0x900088).toNat
  let rd := fun (k : Nat) (d : W32) =>
    let v := Sparse.get 0 s.maps.ft ((die * 2 + bank) * 0x20000 + k)
    if v.getLsbD 32 then v.setWidth 32 else d
  ⟨fun f w => rd (f * 32 + w) (lib.word f w), fun i c => rd (0x1000 + i * 4 + c) (lib.coef i c)⟩

/-- The active bank of a die (R211). -/
def State.ftActive (s : State) (die : Nat) : Nat := s.rd (Addr.vxe die 0 0x100) 0 0

end Sys2Proof.Machine
end

