-- ==== Sys2Proof/Machine/Registers.lean ====
section
/-! DEFINITION. The commands of the register map: writes, refused accesses and snapshots (R9 to R11, R507, R582, R591,
R594, R599). -/
namespace Sys2Proof.Machine
open Sys2Proof

/-- The number of engines of a die whose MXE_STATUS.STATE is `st` (R108). -/
def State.mxeCount (s : State) (d st : Nat) : Nat :=
  ((List.range 17).filter fun k => s.rd (Addr.mxe d k 0) 3 0 == st).length

/-- Engines of the module in a state. -/
def State.mxeTotal (s : State) (st : Nat) : Nat := ((List.range 8).map fun d => s.mxeCount d st).foldl (· + ·) 0

/-- HIF_IDENT (R6): the part, B0, the grade and the counts of the lineup. -/
def State.identWord (s : State) : W64 :=
  let act := if s.ready then s.mxeTotal 0 else 0
  let dis := if s.ready then s.mxeTotal 2 + s.mxeTotal 3 else 0
  BitVec.ofNat 64 (0x8768 + s.grade % 16 * pow2 16 + pow2 20 + act % 256 * pow2 32 + dis % 256 * pow2 40)

/-- BAR0 answers at an offset while no formation is in force (R599): HIF_IDENT, HIF_STATUS and SEC before firmware runs
and in recovery; from then on also HIF, RAS, HBM, PWR, the module registers of RNG and SYN and the SCH partition
blocks. -/
def State.answers (s : State) (off : Nat) : Bool :=
  let sec := 0x800000 ≤ off && off < 0x900000
  if s.ready then true
  else
    match s.boot with
    | .off => false
    | .rom => off == 0 || off == 8 || sec
    | .recovery => off == 0 || off == 8 || sec
    | .firmware =>
      sec || decide (off < 0x100000) || (0x101000 ≤ off && off < 0x109000) || (0x300000 ≤ off && off < 0x400000) ||
        (0x600800 ≤ off && off < 0x600810) || (0x700000 ≤ off && off < 0x800000) ||
        (0x900000 ≤ off && off < 0x901000) || (0xA00000 ≤ off && off < 0xB00000)

/-- A function reaches the register for writing (R507); a virtual function beyond NumVFs is not there. -/
def State.mayWrite (s : State) (fn : Nat) (d : RegDef) (off : Nat) : Bool :=
  if fn = 0 then true
  else if s.numVfs < fn then false
  else
    match d.indexAt off, d.owner with
    | some (i, _), .part => i == fn - 1
    | some (i, _), .die => s.dieOwner i == some (fn - 1)
    | _, .fn => true
    | _, _ => false

/-- A function reaches the register for reading (R507): module registers are readable by all. -/
def State.mayRead (s : State) (fn : Nat) (d : RegDef) (off : Nat) : Bool :=
  (d.owner == .module && (fn == 0 || decide (fn ≤ s.numVfs))) || s.mayWrite fn d off

/-- The key of a function's copy of a register: HIF_WIN has one per function (R532). -/
def winKey (fn off : Nat) : Nat := if off = 0x20 then fn * pow2 32 + 0x20 else off

/-- SEC_LC (R565), from the fuses. -/
def State.lcWord (s : State) : W64 :=
  let f := s.fuses
  BitVec.ofNat 64 (f.state + (if f.returning then 16 else 0) + (if f.owner.isSome && !f.revoked then 32 else 0) + f.fwMin * pow2 24 +
    f.formMin * pow2 32)

/-- LNK_UP (R533): a bit for each port that is UP. -/
def State.upPorts (s : State) : W64 :=
  BitVec.ofNat 64 (((List.range 24).filter fun i => s.rd (Addr.port i 0) 3 0 == 2).foldl (fun a i => a + pow2 i) 0)

/-- SYN_DET_ID (R465): the grade and the active engines of each die. -/
def State.lineupWord (s : State) : W64 :=
  BitVec.ofNat 64 (s.grade % 16 * pow2 60 + ((List.range 8).map fun n => s.mxeCount n 0 * pow2 (5 * n)).foldl (· + ·) 0)

/-- Tiles, row blocks and attention tiles of a die that are bound to a bank (R203, R211): the row blocks of a task with a deferred
statistic, the units of another one, and tiles of vector programs that run again. -/
def State.boundTo (s : State) (die bank : Nat) : Nat :=
  (s.tasks.map fun t =>
    let us := t.units.filter fun u => u.die == die && u.bank == some bank
    (if t.defers then (us.map fun u => (u.b, u.rb)).eraseDups.length else us.length) +
      (t.vfails.filter fun f => f.die == die && f.bank == bank).length).foldl (· + ·) 0

/-- Attention units of a pipeline that are bound to a bank. -/
def State.atBoundTo (s : State) (die r bank : Nat) : Nat :=
  ((s.tasks.filter fun t => bytesNat t.desc 0 1 == 1).map fun t =>
    (t.units.filter fun u => u.die == die && u.eng == r && u.bank == some bank).length).foldl (· + ·) 0

/-- What a read of the register at `off` returns to function `fn`: live registers, snapshot copies, 0 for write-only
ones, gaps and what the function or the module's state hides (R10, R11, R507, R594, R599). A W1S bit reads 1 from the write that
sets it until what it asked for has ended (DESIGN CHOICE, log 135). -/
def State.readReg (s : State) (fn off : Nat) : W64 :=
  match regAt off with
  | none => if 0x801000 ≤ off ∧ off < 0x810000 ∧ s.rd 0x800040 1 1 = 1 ∧ fn = 0 then Config.debugWord off else 0
  | some d =>
    if !s.answers off || !s.mayRead fn d off then 0
    else if d.cls = .ctl then 0
    else if d.cls = .snap then Sparse.get 0 s.maps.snap off
    else if d.name = "HIF_IDENT" then s.identWord
    else if d.name = "HIF_STATUS" then setBits (s.reg off) 7 4 fn
    else if d.name = "HIF_WIN" then
      (if fn = 0 then s.reg (winKey 0 off) else setBits (s.reg (winKey fn off)) 50 48 (fn - 1))
    else if d.name = "SCH_PART_STATUS" then
      let p := (off - 0x101004) / 0x1000
      setBits (s.reg off) 31 16 (((List.range 16).filter fun r => s.enabled p r).foldl (fun a r => a + pow2 r) 0)
    else if d.name = "RAS_SB_STATUS" then
      setBits (setBits (s.reg off) 63 32 s.sb.head) 0 0 (if s.sb.flushing.isSome then 1 else 0)
    else if d.name = "RAS_SB_CTRL" then
      setBits (s.reg off) 0 0 (if s.sb.flushing.isSome || s.sb.waiting.contains 4 then 1 else 0)
    else if d.name = "HBM_TG_CTRL" then
      (let ch := (off - Addr.tg 0 0) / (Addr.tg 1 0 - Addr.tg 0 0)
       setBits (s.reg off) 1 0 ((s.rd (Addr.tg ch 0x18) 0 0) + if s.tgStops.contains ch then 2 else 0))
    else if d.name = "RAS_DIAG_CTRL" then
      setBits (s.reg off) 1 0 ((if s.holding || s.rd 0x709108 0 0 == 1 then 1 else 0) + if s.diag.isSome then 2 else 0)
    else if d.name = "MEM_KEEP_STATUS" then
      setBits (s.reg off) 12 0 ((s.pagesOf ((off - 0x290008) / 0x100)).filter fun e => rtKeep e.2).length
    else if d.name = "RAS_SB_REC" then Sparse.get 0 s.maps.snap off
    else if d.name = "SEC_LC" then s.lcWord
    else if d.name = "LNK_UP" then s.upPorts
    else if d.name = "MED_STATUS" then setBits (s.reg off) 40 32 s.sessions.length
    else if d.name = "SYN_DET_ID" then s.lineupWord
    else if d.name = "VXE_FT_STATUS" then
      (let die := (off - 0x1020100) / 0x100000
       setBits (setBits (s.reg off) 11 2 (s.boundTo die 0)) 21 12 (s.boundTo die 1))
    else if d.name = "ATP_FT_STATUS" then
      (let die := (off - 0x1040100) / 0x100000
       let r := (off - 0x1040100) % 0x100000 / 0x1000
       setBits (setBits (s.reg off) 11 2 (s.atBoundTo die r 0)) 21 12 (s.atBoundTo die r 1))
    else s.reg off

/-- An access of a width or an alignment that R10 refuses at the register it meets: a 64-bit register takes one aligned
64-bit access, a 32-bit register one aligned 32-bit access. A gap takes any aligned access of 4 or 8 bytes. -/
def badAccess (off bytes : Nat) : Bool :=
  match regAt off with
  | some d => bytes != d.width / 8
  | none => (bytes != 4 && bytes != 8) || off % bytes != 0 || (regAt (off - off % 8)).isSome && off % 8 != 0 &&
      ((regAt (off - off % 8)).map RegDef.width).getD 32 == 64

/-- Recording a refused access (R10): HIF_BAD_ACCESS and a scorebook record. A read returns all ones. -/
def State.refuseAccess (s : State) (fn off bytes : Nat) (isWrite : Bool) : State :=
  let s := (s.bump 0x120 1).event 0x1 (unitOf 6 0 fn) (if fn = 0 then 0xFF else fn - 1) off (bytes % 256 + fn * 256)
  if isWrite then s else s.tell (.readData fn (List.replicate (4 * ((bytes + 3) / 4)) 0xFF#8))

/-- The RW fields of a register after a write of `v`, and its W1C fields (R11). -/
def writeMasks (d : RegDef) (old v : W64) : W64 :=
  let rw := BitVec.ofNat 64 d.rw
  let w1c := BitVec.ofNat 64 d.w1c
  (((old &&& ~~~ rw) ||| (v &&& rw)) &&& ~~~ (v &&& w1c))

/-- Asking for a flush (R580): it starts when no other runs and a segment is erased. -/
def State.askFlush (s : State) (reason : Nat) : State :=
  { s with sb := { s.sb with waiting := s.sb.waiting ++ [reason] } }

/-- A write of a register with a rule of its own for what it takes: ring bases and shape while enabled (R416), ranges
(R415, R466, R543), HIF_WIN per function (R532), caps (R590), the scorebook's source and its FLUSH bit (R591). -/
def State.regWrite (s : State) (fn off : Nat) (d : RegDef) (v : W64) : State :=
  let n := writeMasks d (s.reg off) v
  if d.name = "HIF_WIN" then
    let k := winKey fn off
    let w := writeMasks d (s.reg k) v
    s.setReg k (if fn = 0 then w else setBits w 50 48 (getBits (s.reg k) 50 48))
  else if d.name = "SCH_FRAME_CFG" then
    let i := getBits v 31 16
    if 1 ≤ i ∧ i ≤ 1000 then s.setReg off n else s
  else if d.name = "SCH_SQ_BASE" ∨ d.name = "SCH_CQ_BASE" then
    match d.indexAt off with
    | some (p, r) => if s.enabled p r then s else s.setReg off n
    | none => s
  else if d.name = "SCH_RING_CFG" then
    match d.indexAt off with
    | some (p, r) => if s.enabled p r then s.setFld off 31 24 (getBits v 31 24) else s.setReg off n
    | none => s
  else if d.name = "SYN_MODE" then
    let n := if getBits v 47 32 = 0 then setBits n 47 32 (s.rd off 47 32) else n
    s.setReg off n
  else if d.name = "PWR_CAP" then s.setFld off 10 0 (max 400 (min 1650 (getBits v 10 0)))
  else if d.name = "RAS_SB_CTRL" then
    let s := if getBits v 7 4 ≤ 8 then s.setFld off 7 4 (getBits v 7 4) else s
    if getBits v 0 0 = 1 ∧ fn = 0 ∧ s.sb.flushing.isNone then s.askFlush 4 else s
  else s.setReg off n

/-- The write is a command of another row of the table: it sets or clears a ring's ENABLE, carries a command of SCH_PART_CTRL,
SEC_CMD or the diagnostics, or names the host pool. -/
def State.ownRow (s : State) (off : Nat) (d : RegDef) (v : W64) : Bool :=
  d.cls == .ctl ||
  (d.name == "SCH_RING_CFG" && (getBits v 17 17 != s.rd off 17 17)) ||
  (d.name == "SCH_PART_CTRL" && (1 ≤ getBits v 3 0 && getBits v 3 0 ≤ 4)) ||
  d.name == "MEM_HPOOL_BASE" || d.name == "MEM_HPOOL_COUNT" ||
  (d.name == "SEC_CMD" && (1 ≤ getBits v 3 0 && getBits v 3 0 ≤ 6)) ||
  (d.name == "HIF_CTRL" && getBits v 0 0 == 1) ||
  (d.name == "HBM_CONTROL" && getBits v 0 0 == 1) ||
  (d.name == "HBM_TG_CTRL" && getBits v 1 0 != 0) ||
  (d.name == "RAS_DIAG_CTRL" && getBits v 1 0 != 0)

/-- REGISTER_WRITE (R9 to R11, R507, R594, R599). An access that R10 refuses is recorded and has no other effect. -/
def execRegisterWrite (fn off bytes : Nat) (value : W64) (s : State) : Host.Outcome State Fault Refusal :=
  if 8 < fn ∨ 0x4000000 ≤ off then .fault .noSuchUnit
  else if s.numVfs < fn then .next s
  else if badAccess off bytes then .next (s.refuseAccess fn off bytes true)
  else
    match regAt off with
    | none => .next s
    | some d =>
      if !s.answers off || !s.mayWrite fn d off || s.ownRow off d value then .next s
      else .next (s.regWrite fn off d value)

/-- BAD_REGISTER_ACCESS (R10). A well-formed access is none of these and changes nothing. -/
def execBadRegisterAccess (fn off bytes : Nat) (isWrite : Bool) (s : State) : Host.Outcome State Fault Refusal :=
  if 8 < fn ∨ 0x4000000 ≤ off then .fault .noSuchUnit
  else if s.numVfs < fn then .next s
  else if badAccess off bytes then .next (s.refuseAccess fn off bytes isWrite)
  else .next s

/-! Snapshots. -/

/-- The pool registers and MEM_MAPPED as they stand (R343): FREE over all dies for the tile store. -/
def State.refreshPools (s : State) (p : Nat) : State :=
  let dies := s.dies p
  let ts := (dies.map fun d => s.poolFrames p 1 d - s.framesHeld p 1 d).foldl (· + ·) 0
  let frames := (dies.map fun d => s.poolFrames p 1 d).foldl (· + ·) 0
  let put := fun (s : State) (t free frames : Nat) =>
    let a := Addr.memp p (0x8 + 8 * t)
    s.setCtr a (setBits (setBits (s.ctr a) 47 24 free) 23 0 frames)
  let s := put s 1 ts frames
  let s := put s 2 (s.freeFrames p 2 0) (s.poolFrames p 2 0)
  let s := put s 3 (s.freeFrames p 3 0) (s.poolFrames p 3 0)
  s.setCtr (Addr.memp p 0x38) (BitVec.ofNat 64 (s.pagesOf p).length)

/-- The bytes of a scorebook record as four words (R577), CHECK computed over bytes 0 to 27. -/
def SbRec.words (r : SbRec) : List W64 :=
  let b := leBytes 8 r.time ++ leBytes 4 r.seq ++ leBytes 2 r.boot ++ leBytes 2 r.code ++ leBytes 2 r.unitId ++
    leBytes 1 r.part ++ leBytes 1 r.sev ++ leBytes 4 r.arg0 ++ leBytes 4 r.arg1
  let b := b ++ leBytes 4 (crc32c b).toNat
  [BitVec.ofNat 64 (bytesNat b 0 8), BitVec.ofNat 64 (bytesNat b 8 8), BitVec.ofNat 64 (bytesNat b 16 8),
   BitVec.ofNat 64 (bytesNat b 24 8)]

/-- The record or header that SRC and INDEX select (R582), as four words. -/
def State.sbSelect (s : State) : Option (List W64) :=
  let src := s.rd 0x709008 7 4
  let ix := s.rd 0x70900C 31 0
  if src = 0 then (s.sb.recs.find? fun r => r.seq % pow2 32 == ix).map SbRec.words
  else
    match s.sb.segs.getD (src - 1) none with
    | none => none
    | some g =>
      if ix = 0xFFFFFFFF then
        some ((List.range 4).map fun i => Config.flushHeader g.boot g.reason g.firstSeq g.time (g.count.getD 0) i)
      else (g.recs[ix]?).map SbRec.words

/-- TAKE of RAS_SB_SNAP (R582, R591): the selected record into RAS_SB_REC, VALID, and the two counters. -/
def State.takeSb (s : State) : State :=
  let s := match s.sbSelect with
    | some ws => (((List.range 4).foldl (fun (s : State) i => (s.setCtr (0x709018 + 8 * i) (ws.getD i 0))) s).takeAll
        (run64 0x709018 4)).setFld 0x709000 2 2 1
    | none => s.setFld 0x709000 2 2 0
  s.takeAll (run64 0x709040 2)

/-- The entry of a page as the register shows it: PART is the span's owner in every state (R313). -/
def State.rtEntry (s : State) (page : Nat) : W64 :=
  let e := s.rt page
  if rtState e = 0 then setBits e 55 53 ((s.pageOwner page).getD 0) else e

/-- One write of TAKE to the snapshot control at `off`: every SNAP register of its block in one clock (R11, R183, O9). -/
def State.takeSnap (s : State) (off : Nat) : State :=
  if off = 0x200008 then (s.setCtr 0x200010 (s.rtEntry (s.rd 0x200000 21 0))).take1 0x200010
  else if off = 0x709010 then s.takeSb
  else if off = 0x900010 then ((s.setCtr 0x900018 (s.reg 0x900008))).takeAll (snapMembers off)
  else if 0x201000 ≤ off ∧ off < 0x209000 then (s.refreshPools ((off - 0x201000) / 0x1000)).takeAll (snapMembers off)
  else s.takeAll (snapMembers off)

/-- A snapshot control written by a function: R507 lets a VF take the blocks of its own partition alone. -/
def State.snapAllowed (s : State) (fn off : Nat) : Bool :=
  match regAt off with
  | some d => d.cls == .ctl && s.answers off && s.mayWrite fn d off
  | none => false

/-- SNAP_TAKE (R11, R183). -/
def execSnapTake (fn off : Nat) (s : State) : Host.Outcome State Fault Refusal :=
  if 8 < fn then .fault .noSuchUnit
  else if s.snapAllowed fn off && off != 0x709050 then .next (s.takeSnap off)
  else .next s

/-- MEM_RT_SNAP_TAKE (R342). -/
def execMemRtSnapTake (fn : Nat) (s : State) : Host.Outcome State Fault Refusal :=
  if 8 < fn then .fault .noSuchUnit
  else if s.snapAllowed fn 0x200008 then .next (s.takeSnap 0x200008)
  else .next s

/-- RAS_SB_SNAP_TAKE (R582, R591). -/
def execRasSbSnapTake (fn : Nat) (s : State) : Host.Outcome State Fault Refusal :=
  if 8 < fn then .fault .noSuchUnit
  else if s.snapAllowed fn 0x709010 then .next s.takeSb
  else .next s

/-- RAS_SNAP_ALL_TAKE (R591): TAKE of every snapshot block of the module in one clock, by PF0 only. -/
def execRasSnapAllTake (fn : Nat) (s : State) : Host.Outcome State Fault Refusal :=
  if 8 < fn then .fault .noSuchUnit
  else if s.snapAllowed fn 0x709050 && fn == 0 then
    .next ((snapControls.filter s.answers).foldl State.takeSnap s)
  else .next s

end Sys2Proof.Machine
end

