-- ==== Sys2Proof/Machine/Rings.lean ====
section
/-! DEFINITION. Submission and completion rings and the admission of graphs (R378 to R400). -/
namespace Sys2Proof.Machine
open Sys2Proof

/-- The module takes rings and issues work for the partition: it is formation-ready, not fatal, not preparing its
removal, and the partition is RUNNING (R407, R432, R514). -/
def State.serving (s : State) (p : Nat) : Bool :=
  s.ready && !s.stopped && s.rd 0x8 19 19 == 0 && (s.part p).isSome && s.pstate p == 0

/-- RAS_CFG.FOUL_RETRIES (R439). -/
def State.foulRetries (s : State) : Nat := s.rd 0x700000 3 0

/-- The FOUL counter of the tier that holds a block (R427): tile store, HBM or host. -/
def State.foulAddr (s : State) (p blk : Nat) : Nat :=
  let t := rtTier (s.rt (blk / 64))
  Addr.ras p (if t = 3 then 0x18 else if t = 2 then 0x8 else 0)

/-- The path number of a foul record (R578), in the order of the counters. -/
def State.foulPathNo (s : State) (p blk : Nat) : Nat := (s.foulAddr p blk - Addr.ras p 0) / 8

/-- Counting `n` fouls of one block, with a record each (R427); `narrow` says that the block came through the narrow path
(R356). -/
def State.countFouls (s : State) (p blk unitId : Nat) (narrow : Bool) : Nat → State
  | 0 => s
  | n + 1 =>
    (if narrow then (s.bump (Addr.ras p 0x10) 1).event 0x20 (unitOf 1 (blk % 8) 0x41) p blk 2
     else (s.bump (s.foulAddr p blk) 1).event 0x20 unitId p blk (s.foulPathNo p blk)).countFouls p blk unitId narrow n

/-- Reading one block of a structure: a lost block ends the read at once, a foul is read again up to FOUL_RETRIES times
in all (R382, R122). The status is 0 when a read succeeds. -/
def State.readBlock (s : State) (p blk unitId : Nat) (narrow : Bool) (fault : Option ReadFault) : State × Nat :=
  if s.lost blk then (s, 0x22)
  else
    let n := match fault with
      | some f => if f.addr / 4096 = blk then f.reads else 0
      | none => 0
    let n := if s.crcBad blk then s.foulRetries else min n s.foulRetries
    let s := s.countFouls p blk unitId narrow n
    (s, if n = s.foulRetries ∧ n ≠ 0 then 0x20 else 0)

/-- Reading every block of a byte range. -/
def State.readRange (s : State) (p unitId : Nat) (narrow : Bool) (fault : Option ReadFault) (a len : Nat) : State × Nat :=
  if len = 0 then (s, 0)
  else
    (List.range ((a + len - 1) / 4096 - a / 4096 + 1)).foldl
      (fun (x : State × Nat) i => if x.2 = 0 then (x.1.blockRead noDie (a / 4096 + i)).readBlock p (a / 4096 + i) unitId narrow fault else x) (s, 0)

/-- The first page of a range that is outside the span (KIND 1) or UNMAPPED (KIND 2) (R311). -/
def State.rangeFault (s : State) (p a len : Nat) : Option (Nat × Nat) :=
  if len = 0 then none
  else
    ((List.range ((a + len - 1) / 262144 - a / 262144 + 1)).map fun i => a / 262144 + i).findSome? fun pg =>
      match s.part p with
      | none => some (1, pg)
      | some x => if !x.owns pg then some (1, pg) else if rtState (s.rt pg) = 0 then some (2, pg) else none

/-- Checking and reading a structure of a graph: a range outside the span or UNMAPPED is a fault of R311. -/
def State.readStruct (s : State) (p unitId : Nat) (narrow : Bool) (fault : Option ReadFault) (a len : Nat) : State × Nat :=
  match s.rangeFault p a len with
  | some (k, pg) => (s.memFault p k pg true, 0x10)
  | none => s.readRange p unitId narrow fault a len

/-! Weighted round robin among the partitions (R22, R406). -/

/-- The weight of a partition's share. -/
def State.weight (s : State) (p : Nat) : Nat := max 1 (((s.part p).map PartRec.weight).getD 1)

/-- The partition that is served next, and whether a round begins with it: in a round each waiting partition has as many turns as its
weight, the lowest number first, and a round ends when every waiting one has had its own. -/
def roundNext (weight served : Nat → Nat) (waiting : List Nat) : Option (Nat × Bool) :=
  let ps := (List.range 8).filter waiting.contains
  match ps.find? fun p => served p < weight p with
  | some p => some (p, false)
  | none => ps.head?.map fun p => (p, true)

/-- What a unit has served of a partition in its round. -/
def State.served (s : State) (u : SharedUnit) (p : Nat) : Nat :=
  ((s.rounds.find? fun x => x.unit == u && x.p == p).map Turn.served).getD 0

/-- The partition whose turn it is at a unit. -/
def State.turnOf (s : State) (u : SharedUnit) (waiting : List Nat) : Option (Nat × Bool) := roundNext s.weight (s.served u) waiting

/-- It is the partition's turn. -/
def State.hasTurn (s : State) (u : SharedUnit) (waiting : List Nat) (p : Nat) : Bool :=
  (s.turnOf u waiting).map Prod.fst == some p

/-- The partition's turn is taken; a round that begins forgets the one before. -/
def State.takeTurn (s : State) (u : SharedUnit) (waiting : List Nat) (p : Nat) : State :=
  let anew := ((s.turnOf u waiting).map Prod.snd).getD false
  { s with rounds := { unit := u, p := p, served := (if anew then 0 else s.served u p) + 1 } ::
      s.rounds.filter fun x => x.unit != u || (!anew && x.p != p) }

/-! The ring headers in host memory. -/

/-- The base of a submission ring (R416). -/
def State.sq (s : State) (p r : Nat) : Nat := (s.reg (Addr.sqBase p r)).toNat
/-- The base of a completion ring. -/
def State.cq (s : State) (p r : Nat) : Nat := (s.reg (Addr.cqBase p r)).toNat
/-- The number of entries of a submission ring (R392). -/
def State.sqSize (s : State) (p r : Nat) : Nat := pow2 (s.rd (Addr.ringCfg p r) 4 0)
/-- The number of entries of a completion ring (R395). -/
def State.cqSize (s : State) (p r : Nat) : Nat := pow2 (s.rd (Addr.ringCfg p r) 12 8)

/-- The completion ring is full: WRITTEN − CONSUMER equals its size (R397). -/
def State.cqFull (s : State) (p r : Nat) : Bool :=
  s.cqSize p r ≤ ((s.ring p r).written + pow2 32 - (s.ring p r).consumer) % pow2 32

/-- CQ_FULL follows the ring (R416). -/
def State.refreshFull (s : State) (p r : Nat) : State :=
  s.setFld (Addr.ringStatus p r) 1 1 (if s.enabled p r && s.cqFull p r then 1 else 0)

/-- DONE_LOW (R392): the lowest graph sequence number of the ring with a task not completed, else CONSUMED. -/
def State.doneLow (s : State) (p r : Nat) : Nat :=
  (((s.graphs.filter fun g => g.p == p && g.r == r).map GraphRec.seq).head?).getD (s.ring p r).taken

/-- Writing CONSUMED and DONE_LOW of an enabled ring (R392, R393). -/
def State.writeSqHeader (s : State) (p r : Nat) : State :=
  if s.enabled p r then
    s.hostWrite (s.sq p r + 8) (leBytes 4 (s.ring p r).taken ++ leBytes 4 (s.doneLow p r))
  else s

/-- Tasks of the partition that hold places in the task table (R394). -/
def State.quotaUsed (s : State) (p : Nat) : Nat :=
  ((s.graphs.filter fun g => g.p == p && g.phase == .admitted).map GraphRec.ntasks).foldl (· + ·) 0

/-- TASKS of the graph header at an address, 0 where the graph will be rejected for it (R378, R382). -/
def State.peekTasks (s : State) (p a : Nat) : Nat :=
  let n := s.devNat a 2
  if a % 64 = 0 ∧ 1 ≤ n ∧ n ≤ 4096 ∧ (s.rangeFault p a 64).isNone then n else 0

/-- One more graph placed in the quota or the backlog (R394): (places used, graphs in the backlog). -/
def placeGraph (quota : Nat) (x : Nat × Nat) (n : Nat) : Nat × Nat :=
  if n = 0 then x else if x.2 = 0 ∧ x.1 + n ≤ quota then (x.1 + n, 0) else (x.1, x.2 + 1)

/-- Where the quota and the backlog stand with every graph already taken placed. -/
def State.placed (s : State) (p : Nat) : Nat × Nat :=
  let q := ((s.part p).map PartRec.quota).getD 0
  let bl := (s.graphs.filter fun g => g.p == p && g.phase == .backlog).length
  ((s.graphs.filter fun g => g.p == p && g.phase == .taken).map fun g => s.peekTasks p g.addr).foldl (placeGraph q)
    (s.quotaUsed p, bl)

/-- The graph comes before the other in the order of R383. -/
def graphBefore (a b : GraphRec) : Bool :=
  a.readNo < b.readNo || (a.readNo == b.readNo && (a.r < b.r || (a.r == b.r && a.seq < b.seq)))

/-- Putting a graph at its place in the order of R383. -/
def insertGraph (g : GraphRec) : List GraphRec → List GraphRec
  | [] => [g]
  | h :: t => if graphBefore g h then g :: h :: t else h :: insertGraph g t

/-- Taking up to `n` entries from the ring's CONSUMED, stopping at the first that would find the backlog full (R393,
R394). The flag says that entries are left untaken. -/
def State.takeEntries (s : State) (p r : Nat) : Nat → State × Bool
  | 0 => (s, false)
  | n + 1 =>
    if 4096 ≤ (s.placed p).2 then (s, true)
    else
      let x := s.ring p r
      let e := s.sq p r + 64 + 16 * (x.taken % s.sqSize p r)
      let g : GraphRec := { gid := s.nextGid, p := p, r := r, seq := x.taken, addr := s.hostNat e 8,
                            arg := s.hostNat (e + 8) 8, readNo := s.readNo, tick := s.readClk }
      let s := { s with graphs := insertGraph g s.graphs
                        nextGid := s.nextGid + 1 }
      let s := (s.setRing { x with taken := (x.taken + 1) % pow2 32 }).bump (Addr.sch p 0xD0) 1
      s.takeEntries p r n

/-- RING_READ_COMPLETE (R393, R394). -/
def execRingReadComplete (p r : Nat) (host : List HostStore) (s : State) : Host.Outcome State Fault Refusal :=
  if 8 ≤ p ∨ 16 ≤ r then .fault .noSuchUnit
  else
    let s := s.hostStores host
    match s.reading.find? fun x => x.1 == p && x.2.1 == r with
    | none => .next s
    | some rd =>
      let s := { s with reading := s.reading.filter fun x => !(x.1 == p && x.2.1 == r) }
      if !s.serving p || !s.enabled p r then .next s
      else
        let prod := s.hostNat (s.sq p r) 4
        let x := s.ring p r
        let s := (s.setRing { x with consumer := s.hostNat (s.cq p r) 4 }).refreshFull p r
        let n := (prod + pow2 32 - x.taken) % pow2 32
        if s.sqSize p r < n then
          .next (((s.setFld (Addr.ringStatus p r) 2 2 1).bump (Addr.sch p 0xE0) 1).event 0x30 (unitOf 4 0 0x20) p r prod)
        else
          let t := s.takeEntries p r n
          let s := t.1
          let s := if t.2 && rd.2.2 then s.bump (Addr.sch p 0xD8) 1 else s
          .next (s.writeSqHeader p r)

/-! Graphs. -/

/-- The rules of R382 on a header whose bytes have been read, with its RT_SLOT and its TENANT. -/
def State.headerOk (s : State) (g : GraphRec) : Bool :=
  let h := fun o n => s.devNat (g.addr + o) n
  let slot := h 0x5 1
  1 ≤ h 0 2 && h 0 2 ≤ 4096 && h 2 2 < 4 && h 6 1 ≤ 15 && h 7 1 == 0 && h 0x20 4 ≤ 262144 && h 0x24 4 == 0 &&
    h 0x30 8 == 0 && h 0x38 8 == 0 && h 0x10 8 % 64 == 0 &&
    (slot == 0 || (slot ≤ 64 && s.rd (0x100100 + 8 * (slot - 1)) 11 11 == 1 &&
      s.rd (0x100100 + 8 * (slot - 1)) 10 8 == g.p)) &&
    s.rd (Addr.weight g.p (h 4 1)) (8 * (h 4 1 % 4) + 7) (8 * (h 4 1 % 4)) != 0

/-- The address of a graph's argument block (R380, R378): the ring entry's, else the header's own. -/
def State.argBlock (s : State) (g : GraphRec) : Nat := if g.arg = 0 then s.devNat (g.addr + 0x28) 8 else g.arg

/-- The predecessors of task i of a graph (R379). -/
def State.depsOf (s : State) (g : GraphRec) (i : Nat) : List Nat :=
  let t := s.devNat (g.addr + 0x10) 8 + 16 * i
  let d := s.devNat (g.addr + 0x18) 8 + 2 * s.devNat (t + 8) 4
  (List.range (s.devNat (t + 12) 2)).map fun k => s.devNat (d + 2 * k) 2

/-- The entry i of the task table keeps R382. -/
def State.entryOk (s : State) (g : GraphRec) (i : Nat) : Bool :=
  let t := s.devNat (g.addr + 0x10) 8 + 16 * i
  let n := s.devNat (t + 12) 2
  s.devNat t 8 % 64 == 0 && n ≤ 64 && s.devNat (t + 14) 2 == 0 &&
    s.devNat (t + 8) 4 + n ≤ s.devNat (g.addr + 0x20) 4

/-- The tasks still left after taking away, again and again, those whose predecessors are all taken away: none exactly
when the dependences form no cycle. -/
def acyclicRest (deps : Nat → List Nat) : Nat → List Nat → List Nat
  | 0, left => left
  | n + 1, left => acyclicRest deps n (left.filter fun i => (deps i).any fun j => left.contains j)

/-- The dependences keep R382: they name other tasks of the graph and form no cycle. -/
def State.depsOk (s : State) (g : GraphRec) (n : Nat) : Bool :=
  ((List.range n).all fun i => (s.depsOf g i).all fun j => j != i && j < n) &&
    (acyclicRest (s.depsOf g) n (List.range n)).isEmpty

/-- A rejected or unreadable graph gives its one entry and leaves (R382); a recompute graph ends the task that waits for it (R238). -/
def State.rejectGraph (s : State) (g : GraphRec) (status : Nat) : State :=
  match g.recompute with
  | some tid => (s.dropGraph g.gid).endTask tid status
  | none => ((s.graphEntry g status).dropGraph g.gid).writeSqHeader g.p g.r

/-- Reading the task table, the dependence array and the argument block, and entering the tasks (R379, R382, R394). -/
def State.admitGraph (s : State) (g : GraphRec) (fault : Option ReadFault) : State :=
  let u := unitOf 4 0 0x20
  let n := s.devNat g.addr 2
  let deps := s.devNat (g.addr + 0x20) 4
  let arg := s.argBlock g
  let r1 := s.readStruct g.p u false fault (s.devNat (g.addr + 0x10) 8) (16 * n)
  let r2 := if r1.2 = 0 then r1.1.readStruct g.p u false fault (s.devNat (g.addr + 0x18) 8) (2 * deps) else r1
  let r3 := if r2.2 = 0 ∧ arg ≠ 0 then r2.1.readStruct g.p u false fault arg 64 else r2
  let s := r3.1
  if r3.2 ≠ 0 then s.rejectGraph g r3.2
  else if !((List.range n).all fun i => s.entryOk g i) || !s.depsOk g n then s.rejectGraph g 0x10
  else
    let h := fun o n => s.devNat (g.addr + o) n
    let g' : GraphRec := { g with
      phase := .admitted, ntasks := n, tenant := h 4 1, slot := h 5 1
      afterPrev := bit (h 2 2) 0
      waitOn := if bit (h 2 2) 1 then some (h 6 1, h 0xC 4) else none
      deadline := if h 8 4 = 0 then none else some (g.tick + 2500 * h 8 4) }
    let mk := fun i => ({ tid := s.nextTid + i, gid := g.gid, p := g.p, r := g.r, seq := g.seq, idx := i
                          tenant := h 4 1, slot := h 5 1, descAddr := s.devNat (h 0x10 8 + 16 * i) 8
                          flags := if g.xgrade then 4 else 0, deps := s.depsOf g i } : TaskRec)
    -- the tasks of a recompute graph come before the task that waits for them (R238)
    let ahead := fun (t : TaskRec) => some t.tid != g.recompute
    { s with graphs := s.graphs.map (fun x => if x.gid = g.gid then g' else x)
             tasks := s.tasks.takeWhile ahead ++ (List.range n).map mk ++ s.tasks.dropWhile ahead
             nextTid := s.nextTid + n }

/-- Reading the header of a taken graph, and admitting it or placing it in the backlog (R382, R394). A graph that firmware inserts
(R238) takes its places beyond the quota. -/
def State.admitTaken (s : State) (g : GraphRec) (fault : Option ReadFault) : State :=
  if g.addr % 64 ≠ 0 then s.rejectGraph g 0x10
  else
    let r := s.readStruct g.p (unitOf 4 0 0x20) false fault g.addr 64
    let s := r.1
    if r.2 ≠ 0 then s.rejectGraph g r.2
    else if !s.headerOk g then s.rejectGraph g 0x10
    else
      let q := ((s.part g.p).map PartRec.quota).getD 0
      let bl := s.graphs.any fun x => x.p == g.p && x.phase == .backlog
      if g.recompute.isSome || (!bl && decide (s.quotaUsed g.p + s.devNat g.addr 2 ≤ q)) then s.admitGraph g fault
      else { s with graphs := s.graphs.map fun x => if x.gid = g.gid then { x with phase := .backlog } else x }

/-- The quota has room for a graph of the backlog. -/
def State.backlogFits (s : State) (g : GraphRec) : Bool :=
  decide (s.quotaUsed g.p + s.devNat g.addr 2 ≤ ((s.part g.p).map PartRec.quota).getD 0)

/-- The partitions with a graph that the graph engine can admit (R406). -/
def State.admitWaiting (s : State) : List Nat :=
  (List.range 8).filter fun p => s.serving p && ((s.graphs.any fun g => g.p == p && g.phase == .taken) ||
    match s.graphs.find? fun g => g.p == p && g.phase == .backlog with
    | some g => s.backlogFits g
    | none => false)

/-- GRAPH_ADMIT (R382, R394, R406): the graphs of a partition come in the order of R383, the partitions in weighted round robin. -/
def execGraphAdmit (p r seq : Nat) (fault : Option ReadFault) (s : State) : Host.Outcome State Fault Refusal :=
  if 8 ≤ p ∨ 16 ≤ r then .fault .noSuchUnit
  else
    match s.graphs.find? fun g => g.p == p && g.phase == .taken with
    | some g =>
      if g.r = r ∧ g.seq = seq ∧ s.serving p ∧ s.hasTurn .admission s.admitWaiting p then
        .next ((s.takeTurn .admission s.admitWaiting p).admitTaken g fault)
      else .next s
    | none => .next s

/-- BACKLOG_ADMIT (R394, R406): the first graph of the backlog, when the quota has room for it. -/
def execBacklogAdmit (p : Nat) (fault : Option ReadFault) (s : State) : Host.Outcome State Fault Refusal :=
  if 8 ≤ p then .fault .noSuchUnit
  else
    match s.graphs.find? fun g => g.p == p && g.phase == .backlog with
    | some g =>
      if s.serving p && s.backlogFits g && s.hasTurn .admission s.admitWaiting p then
        .next ((s.takeTurn .admission s.admitWaiting p).admitGraph g fault)
      else .next s
    | none => .next s

/-! Completion rings. -/

/-- The bytes of a completion entry but for 0x0E, and that byte with PHASE (R395, R396). -/
def CqEntry.bytes (e : CqEntry) (phase : Bool) : List Byte × List Byte × Byte :=
  (leBytes 8 e.user ++ leBytes 4 e.seq ++ leBytes 2 e.idx,
   leBytes 1 e.flags ++ leBytes 8 e.cyc ++ leBytes 4 e.frame ++ leBytes 4 e.aux,
   BitVec.ofNat 8 (e.status % 64 + (if phase then 128 else 0)))

/-- Raising a ring's vector by R398. -/
def State.signalRing (s : State) (p r : Nat) : State :=
  let x := s.ring p r
  if s.rd (Addr.ringCfg p r) 31 24 = 0 then s.raisePart p r
  else if x.moderating then s.setRing { x with unsignalled := x.unsignalled + 1 }
  else (s.setRing { x with moderating := true, unsignalled := 0 }).raisePart p r

/-- Writing one entry: bytes 0x00 to 0x0D and 0x0F to 0x1F, then byte 0x0E, then WRITTEN, then the vector (R396 to
R398). -/
def State.writeEntry (s : State) (p r : Nat) (e : CqEntry) : State :=
  let x := s.ring p r
  let n := x.written
  let a := s.cq p r + 64 + 32 * (n % s.cqSize p r)
  let b := e.bytes (n / s.cqSize p r % 2 = 0)
  let s := ((s.hostWrite a b.1).hostWrite (a + 15) b.2.1).hostWrite (a + 14) [b.2.2]
  let s := s.setRing { x with written := (n + 1) % pow2 32, kept := x.kept.drop 1 }
  let s := s.hostWrite (s.cq p r + 8) (leBytes 4 (s.ring p r).written)
  (s.signalRing p r).refreshFull p r

/-- The oldest entry kept for a ring can be written. -/
def State.canWriteEntry (s : State) (p r : Nat) : Bool :=
  !(s.ring p r).kept.isEmpty && s.ready && !s.stopped && s.enabled p r && !s.cqFull p r

/-- The partitions with an entry that can be written (R406). -/
def State.entryWaiting (s : State) : List Nat :=
  (List.range 8).filter fun p => (List.range 16).any fun r => s.canWriteEntry p r

/-- COMPLETION_ENTRY_WRITE (R396, R397, R406). -/
def execCompletionEntryWrite (p r : Nat) (s : State) : Host.Outcome State Fault Refusal :=
  if 8 ≤ p ∨ 16 ≤ r then .fault .noSuchUnit
  else
    match (s.ring p r).kept with
    | [] => .next s
    | e :: _ =>
      if !s.canWriteEntry p r then .next (s.refreshFull p r)
      else if s.hasTurn .entries s.entryWaiting p then .next ((s.takeTurn .entries s.entryWaiting p).writeEntry p r e)
      else .next s

/-- MSIX_MODERATION_EXPIRE (R398). -/
def execMsixModerationExpire (p r : Nat) (s : State) : Host.Outcome State Fault Refusal :=
  if 8 ≤ p ∨ 16 ≤ r then .fault .noSuchUnit
  else
    let x := s.ring p r
    if !x.moderating then .next s
    else if x.unsignalled = 0 then .next (s.setRing { x with moderating := false })
    else .next ((s.setRing { x with unsignalled := 0 }).raisePart p r)

/-! Enabling and disabling a ring. -/

/-- The function may write the registers of the partition (R507). -/
def State.fnReaches (s : State) (fn p : Nat) : Bool := fn == 0 || (fn == p + 1 && decide (fn ≤ s.numVfs))

/-- An enable is refused (R416, R504, R551, R569): no formation, test hold, no function, a LOG2 out of range, a base of
0. -/
def State.enableBad (s : State) (p r : Nat) (v : W32) : Bool :=
  let sq := fld v.toNat 4 0
  let cq := fld v.toNat 12 8
  !s.ready || s.rd 0x709108 0 0 == 1 || (s.fnOfPart p).isNone || (s.part p).isNone || sq < 4 || 16 < sq || cq < 4 ||
    16 < cq || s.sq p r == 0 || s.cq p r == 0

/-- The graphs from DONE_LOW to CONSUMED − 1 that the module no longer holds are reported as lost (R400). -/
def State.reportLost (s : State) (p r low taken : Nat) : State :=
  (List.range ((taken + pow2 32 - low) % pow2 32)).foldl (fun s i =>
    let seq := (low + i) % pow2 32
    if s.graphs.any fun g => g.p == p && g.r == r && g.seq == seq then s
    else s.queueEntry p r { user := 0, seq := seq, idx := 0xFFFF, status := 0x30, flags := 0, cyc := 0,
                            frame := (s.reg 0x100008).toNat % pow2 32, aux := 0 }) s

/-- RING_ENABLE (R400, R416). -/
def execRingEnable (fn p r : Nat) (value : W32) (host : List HostStore) (s : State) : Host.Outcome State Fault Refusal :=
  if 8 < fn ∨ 8 ≤ p ∨ 16 ≤ r then .fault .noSuchUnit
  else
    let s := s.hostStores host
    let a := Addr.ringCfg p r
    if !s.answers a || !s.fnReaches fn p || s.enabled p r || fld value.toNat 17 17 = 0 then .next s
    else if s.enableBad p r value then
      .next ((s.setReg a (BitVec.ofNat 64 (value.toNat &&& 0xFF041F1F))).setFld (Addr.ringStatus p r) 0 0 1)
    else
      let s := s.setReg a (BitVec.ofNat 64 (value.toNat &&& 0xFF061F1F))
      let x := s.ring p r
      let taken := s.hostNat (s.sq p r + 8) 4
      let low := s.hostNat (s.sq p r + 12) 4
      let written := if x.kept.isEmpty then s.hostNat (s.cq p r + 8) 4 else x.written
      let s := s.setRing { x with
        taken := taken, written := written, consumer := s.hostNat (s.cq p r) 4
        moderating := false, unsignalled := 0, lost := false }
      let s := if fld value.toNat 18 18 = 1 ∧ x.lost then s.reportLost p r low taken else s
      .next (s.refreshFull p r)

/-- RING_DISABLE (R397, R416): no entry is dropped, and a write that clears ENABLE changes MOD_US beside it. -/
def execRingDisable (fn p r : Nat) (value : W32) (s : State) : Host.Outcome State Fault Refusal :=
  if 8 < fn ∨ 8 ≤ p ∨ 16 ≤ r then .fault .noSuchUnit
  else
    let a := Addr.ringCfg p r
    if !s.answers a || !s.fnReaches fn p || !s.enabled p r || fld value.toNat 17 17 = 1 then .next s
    else
      let s := (s.setFld a 31 24 (fld value.toNat 31 24)).setFld a 17 17 0
      .next ({ s with reading := s.reading.filter fun x => !(x.1 == p && x.2.1 == r) }.setFld (Addr.ringStatus p r) 1 1 0)

end Sys2Proof.Machine
end

