-- ==== Sys2Proof/Machine/Product.lean ====
section
/-! DEFINITION. The product task: its descriptor (R140 to R145, R249 to R251), its operands as the engine takes them
(R88 to R91, R104, R117, R118, R138, R168, R169), and its chunk sums. -/
namespace Sys2Proof.Machine
open Sys2Proof

/-! The descriptor (R140, R141). -/

/-- A 32-bit word of the descriptor. -/
def TaskRec.w (t : TaskRec) (off : Nat) : W32 := BitVec.ofNat 32 (t.f off 4)

def TaskRec.gM (t : TaskRec) : Nat := t.f 0x20 4
def TaskRec.gN (t : TaskRec) : Nat := t.f 0x24 4
def TaskRec.gK (t : TaskRec) : Nat := t.f 0x28 4
def TaskRec.gBatch (t : TaskRec) : Nat := t.f 0x2C 4
/-- Bits [hi:lo] of CTRL. -/
def TaskRec.ctrl (t : TaskRec) (hi lo : Nat) : Nat := fld (t.f 0x30 8) hi lo
def TaskRec.pairMode (t : TaskRec) : Bool := t.ctrl 8 7 == 1
def TaskRec.complex (t : TaskRec) : Nat := t.ctrl 10 9
def TaskRec.aTrans (t : TaskRec) : Bool := t.ctrl 6 6 == 1
def TaskRec.bAxis (t : TaskRec) : Bool := t.ctrl 5 5 == 1
def TaskRec.im2col (t : TaskRec) : Bool := t.ctrl 17 16 == 1
def TaskRec.prologue (t : TaskRec) : Nat := t.f 0xC0 8
def TaskRec.epilogue (t : TaskRec) : Nat := t.f 0xC8 8
def TaskRec.argTable (t : TaskRec) : Nat := t.f 0xD0 8
def TaskRec.discard (t : TaskRec) : Bool := bit (t.f 2 1) 0
/-- Stored batch entries of each tensor: two planes for a complex product (R142). -/
def TaskRec.entries (t : TaskRec) : Nat := t.gBatch * (if t.complex = 0 then 1 else 2)

/-- The argument block of a task's graph. -/
def State.taskArg (s : State) (t : TaskRec) : Nat :=
  match s.graph t.gid with
  | some g => s.argBlock g
  | none => 0

/-- The chain program at an address in memory, when a field names one. -/
def State.progAt (s : State) (a : Nat) : Option ChainProg := if a = 0 then none else some (s.program a)

/-- The epilogue gates (R170). -/
def TaskRec.glu (t : TaskRec) : Bool := (t.epi.map ChainProg.glu).getD false
/-- The epilogue holds a deferred statistic (R171). -/
def TaskRec.defer (t : TaskRec) : Bool := (t.epi.map ChainProg.defer).getD false
/-- The width of the output (R170). -/
def TaskRec.outN (t : TaskRec) : Nat := if t.glu then t.gN / 2 else t.gN

/-- Format and scale mode of an operand as stored: the conversion specifier's, or the header's (R386). -/
def TaskRec.storedForm (t : TaskRec) (hdr cv : Nat) : Fmt × SMode :=
  let h := t.f hdr 1
  if h = 0xFF then
    let c := (convOf (t.w cv)).getD default
    (c.fmt, c.smode)
  else ((fmtOfCode (h % 64)).getD .fp32, smodeOf (h / 64))

/-- A as stored with A_GEN = 0 (R142). -/
def TaskRec.tensorA (t : TaskRec) : Tensor :=
  let f := t.storedForm 4 0x3C
  { base := t.f 0x60 8, fmt := f.1, smode := f.2, t := t.w 0x4C, scale := t.f 0x80 8, stride := t.f 0x98 4
    bstride := 256 * t.f 0xA4 4, nb := t.entries
    rows := if t.aTrans then t.gK else t.gM, cols := if t.aTrans then t.gM else t.gK }

/-- B as stored (R142). -/
def TaskRec.tensorB (t : TaskRec) : Tensor :=
  let f := t.storedForm 5 0x40
  { base := t.f 0x68 8, fmt := f.1, smode := f.2, t := t.w 0x50, scale := t.f 0x88 8, stride := t.f 0x9C 4
    bstride := 256 * t.f 0xA8 4, nb := t.entries
    rows := if t.bAxis then t.gK else t.gN, cols := if t.bAxis then t.gN else t.gK }

/-- The C input (R140, R143): M rows of N. -/
def TaskRec.tensorC (t : TaskRec) : Tensor :=
  let c := (convOf (t.w 0x44)).getD default
  { base := t.f 0x70 8, fmt := c.fmt, smode := c.smode, t := f32One, scale := 0, stride := t.f 0xA0 4
    bstride := 256 * t.f 0xAC 4, nb := t.entries, rows := t.gM, cols := t.gN }

/-- The output D: M rows of the output width. -/
def TaskRec.tensorD (t : TaskRec) : Tensor :=
  let c := (convOf (t.w 0x48)).getD default
  { base := t.f 0x78 8, fmt := c.fmt, smode := c.smode, t := t.w 0x54, scale := if t.discard then 0 else t.f 0x90 8
    stride := t.f 0xA0 4, bstride := 256 * t.f 0xAC 4, nb := t.entries, rows := t.gM, cols := t.outN }

/-! The im2col address generator (R249 to R251). -/

/-- A field of the parameter block. -/
def State.gen (s : State) (t : TaskRec) (off n : Nat) : Nat := s.devNat (t.f 0xB8 8 + off) n

/-- An output extent of R250 on one axis: i input, pads p0 and p1, d dilation, k kernel, st stride; 0 where none. -/
def outExtent (i p0 p1 d k st : Nat) : Nat :=
  if st = 0 ∨ i + p0 + p1 < d * (k - 1) + 1 then 0 else (i + p0 + p1 - d * (k - 1) - 1) / st + 1

/-- The parameter block keeps R249 to R251. -/
def State.genOk (s : State) (t : TaskRec) : Bool :=
  let g := s.gen t
  let a := t.tensorA
  let rng := fun o n lo hi => lo ≤ g o n && g o n ≤ hi
  let kt := g 0xE 1
  let kh := g 0xF 1
  let kw := g 0x10 1
  rng 0 4 1 65536 && g 4 4 % 16 == 0 && rowBytes a.fmt (g 0 4) ≤ g 4 4 &&
    rng 8 2 1 4096 && rng 0xA 2 1 65535 && rng 0xC 2 1 65535 && rng 0xE 1 1 16 && rng 0xF 1 1 16 && rng 0x10 1 1 16 &&
    ([0x11, 0x12, 0x13, 0x14, 0x15, 0x16].all fun o => rng o 1 1 8) &&
    ([0x18, 0x19, 0x1A, 0x1B, 0x1C, 0x1D].all fun o => rng o 1 0 15) &&
    g 0x17 1 == 0 && g 0x1E 2 == 0 && g 0x26 2 == 0 && g 0x28 8 == 0 && g 0x30 8 == 0 && g 0x38 8 == 0 &&
    1 ≤ g 0x20 2 && 1 ≤ g 0x22 2 && 1 ≤ g 0x24 2 &&
    g 0x20 2 == outExtent (g 8 2) (g 0x18 1) (g 0x19 1) (g 0x14 1) kt (g 0x11 1) &&
    g 0x22 2 == outExtent (g 0xA 2) (g 0x1A 1) (g 0x1B 1) (g 0x15 1) kh (g 0x12 1) &&
    g 0x24 2 == outExtent (g 0xC 2) (g 0x1C 1) (g 0x1D 1) (g 0x16 1) kw (g 0x13 1) &&
    t.gM == g 0x20 2 * g 0x22 2 * g 0x24 2 && t.gK == kt * kh * kw * g 0 4 && !t.aTrans && t.f 0x98 4 == 0 &&
    !a.smode.blocked

/-- Where element (m, k) of A lies (R250): its position among the input's and the channel; none outside the input. -/
def State.genAt (s : State) (t : TaskRec) (m k : Nat) : Option (Nat × Nat) :=
  let g := s.gen t
  let oh := g 0x22 2
  let ow := g 0x24 2
  let cin := g 0 4
  let tap := k / cin
  let kw := g 0x10 1
  let kh := g 0xF 1
  let at_ := fun (o st p d kk : Nat) => (o * st + kk * d : Int) - (p : Int)
  let ft := at_ (m / (oh * ow)) (g 0x11 1) (g 0x18 1) (g 0x14 1) (tap / (kh * kw))
  let fy := at_ (m / ow % oh) (g 0x12 1) (g 0x1A 1) (g 0x15 1) (tap / kw % kh)
  let fx := at_ (m % ow) (g 0x13 1) (g 0x1C 1) (g 0x16 1) (tap % kw)
  if 0 ≤ ft ∧ ft < (g 8 2 : Int) ∧ 0 ≤ fy ∧ fy < (g 0xA 2 : Int) ∧ 0 ≤ fx ∧ fx < (g 0xC 2 : Int) then
    some ((ft.toNat * g 0xA 2 + fy.toNat) * g 0xC 2 + fx.toNat, k % cin)
  else none

/-- A as it lies in memory (R142): with A_GEN = 1 one row of CIN elements for each input position. -/
def State.layoutA (s : State) (t : TaskRec) : Tensor :=
  if t.im2col then
    { t.tensorA with stride := s.gen t 4 4, rows := s.gen t 8 2 * s.gen t 0xA 2 * s.gen t 0xC 2, cols := s.gen t 0 4 }
  else t.tensorA

/-- The stored shadow of an operand that lies as `x` (R144): rows packed densely at their length rounded up to 64 bytes,
entries at a multiple of 256 bytes, and in scale mode 1 its own per-tensor scale. -/
def State.shadowOf (s : State) (t : TaskRec) (x : Tensor) (cv addr scale : Nat) : Tensor :=
  let c := (convOf (t.w cv)).getD default
  let stride := roundUp (rowBytes c.fmt x.cols) 64
  { x with base := t.f addr 8, fmt := c.fmt, smode := c.smode, scale := t.f scale 8, stride := stride
           t := if c.smode = .tensor then BitVec.ofNat 32 (s.devNat (t.f scale 8) 4) else f32One
           bstride := if x.bstride = 0 then 0 else roundUp (stride * x.rows) 256 }

def State.shadowA (s : State) (t : TaskRec) : Tensor := s.shadowOf t (s.layoutA t) 0xF8 0xD8 0xE8
def State.shadowB (s : State) (t : TaskRec) : Tensor := s.shadowOf t t.tensorB 0xFC 0xE0 0xF0

/-- How an attempt takes an operand (R104, R105): as stored, through its stored shadow, or re-converted. -/
def TaskRec.shadowUse (t : TaskRec) (u : UnitRec) (isA : Bool) : Nat :=
  if u.rerun then (if isA then t.ctrl 19 18 else t.ctrl 21 20) else 0

/-- The tensor that an attempt reads for an operand. -/
def State.operandOf (s : State) (t : TaskRec) (u : UnitRec) (isA : Bool) : Tensor :=
  if t.shadowUse u isA = 1 then (if isA then s.shadowA t else s.shadowB t)
  else if isA then s.layoutA t else t.tensorB

/-- E4M3 in scale mode 2 under RNE: the target of re-conversion (R104). -/
def reconv : Conv := ⟨.e4m3, .e8m0, .rne, false, 0⟩

/-- The operand's conversion specifier in an attempt (R104, R105, R169). -/
def TaskRec.operandConv (t : TaskRec) (u : UnitRec) (isA : Bool) : Conv :=
  let sh := t.shadowUse u isA
  if sh = 2 then reconv
  else (convOf (t.w (if sh = 1 then (if isA then 0xF8 else 0xFC) else if isA then 0x3C else 0x40))).getD default

/-- The conversion that the load path applies to an operand in an attempt, if any (R104, R386). -/
def TaskRec.loadConv (t : TaskRec) (u : UnitRec) (isA : Bool) : Option Conv :=
  let sh := t.shadowUse u isA
  if sh = 1 then none
  else if sh = 2 ∨ t.f (if isA then 4 else 5) 1 ≠ 0xFF ∨ (isA ∧ t.prologue ≠ 0) then some (t.operandConv u isA)
  else none

/-- The per-tensor scale of an operand in an attempt: the descriptor's, or the stored shadow's own (R144). -/
def State.operandT (s : State) (t : TaskRec) (u : UnitRec) (isA : Bool) : F32 :=
  if t.shadowUse u isA = 1 then (s.operandOf t u isA).t else t.w (if isA then 0x4C else 0x50)

/-! Elements of the operands. -/

/-- What a load delivers for one operand position: the decoded element without its scale, what the converter or a
prologue takes, and the bad codes it counts. -/
structure Loaded where
  val : Xv
  src : Src
  bad : Nat
  /-- A padded position (R117). -/
  pad : Bool := false
deriving DecidableEq, Repr, Inhabited

/-- Element (row, k) of an operand from a tensor stored K-innermost or K-outermost. -/
def State.loadAt (s : State) (die : Nat) (x : Tensor) (outer : Bool) (e row k : Nat) : Loaded :=
  let r := if outer then k else row
  let c := if outer then row else k
  let v := s.elemVal die x e r c
  { val := v.1, src := (s.elemSrc die x e r c).1, bad := if v.2 then 1 else 0 }

/-- Element (m, k) of A from a tensor in A's layout, padding included (R117, R118, R250). -/
def State.loadA (s : State) (die : Nat) (t : TaskRec) (x : Tensor) (e m k : Nat) : Loaded :=
  if t.im2col then
    match s.genAt t m k with
    | some (q, c) => s.loadAt die x false e q c
    | none =>
      let v := xvOfCif (t.w 0x58)
      { val := v, src := .f32 (valF32 v), bad := 0, pad := true }
  else s.loadAt die x t.aTrans e m k

/-- A run of an operand's row over a chunk as an attempt reads it. -/
def State.loadRow (s : State) (t : TaskRec) (u : UnitRec) (isA : Bool) (e row k0 n : Nat) : List Loaded :=
  let x := s.operandOf t u isA
  (List.range n).map fun i =>
    if isA then s.loadA u.die t x e row (k0 + i) else s.loadAt u.die x t.bAxis e row (k0 + i)

/-- Bad codes that the load of a run counts: ternary codes, and blocks whose scale is NaN (R38, R44). -/
def State.loadBad (s : State) (t : TaskRec) (u : UnitRec) (isA : Bool) (e row k0 : Nat) (ls : List Loaded) : Nat :=
  let x := s.operandOf t u isA
  let outer := if isA then t.aTrans || t.im2col else t.bAxis
  let nan := if outer || !x.smode.blocked then 0
    else ((List.range (ceilDiv ls.length x.smode.block)).filter fun j =>
      scaleNaN x.smode (s.scaleAt x e row (k0 + j * x.smode.block))).length
  (ls.map Loaded.bad).foldl (· + ·) nan

/-- A run of one operand row over a chunk as the engine takes it: format, scale mode, values and the block scales of
its two halves; with the conversion's counts. -/
structure OpRow where
  fmt : Fmt
  smode : SMode
  vals : List Xv
  s1 : Xv
  s2 : Xv
  cnt : Cnt
  bad : Nat
deriving DecidableEq, Repr, Inhabited

/-- The scale of one half of a chunk: 1 without block scales. -/
def oneXv : Xv := .fin false 1 0

/-- Converting the sources of a chunk row into an operand format (R54 to R61), and decoding what was written. A padded
position is converted with the others and takes part in its block's amax (DESIGN CHOICE, log 116: R56 speaks of the block's
real elements), and counts in no saturation counter (R118). -/
def State.convertRow (s : State) (die : Nat) (c : Conv) (tt : F32) (sf : Fmt) (draw : Nat → Nat) (pad : Nat → Bool)
    (xs : List Src) : OpRow :=
  let tab := s.tab die c.fmt
  let q := convRowPad c tt tab (s.tab die sf) draw pad xs
  let sb := fun i => q.2.1.getD i 0
  let sc := fun i => if c.smode.blocked then scaleVal c.smode (sb i) else oneXv
  let vals := (List.range xs.length).map fun i =>
    let v := (decodeElem c.fmt tab (q.1.getD i 0)).1
    if scaleNaN c.smode (sb (i / (if c.smode.blocked then c.smode.block else 1))) then .nan else v
  ⟨c.fmt, c.smode, vals, sc 0, if c.smode = .two then sc 1 else sc 0, q.2.2, 0⟩

/-- A chunk row taken as stored. -/
def State.storedRow (s : State) (x : Tensor) (outer : Bool) (e row k0 : Nat) (ls : List Loaded) : OpRow :=
  let sc := fun k => if x.smode.blocked && !outer then scaleVal x.smode (s.scaleAt x e row k) else oneXv
  ⟨x.fmt, x.smode, ls.map Loaded.val, sc k0, if x.smode = .two then sc (k0 + 16) else sc k0, {}, 0⟩

/-- The environment of a chain instruction at coordinates (b, m, c) of element e (R164, R294). -/
def State.chainEnv (s : State) (die bank : Nat) (t : TaskRec) (args : List ChainArg) (stats : List F32) (b m c e : Nat) :
    ChainEnv :=
  let v := s.ftView die bank
  { arg := fun i => (s.argVal die (args.getD i default) b m c).1
    stat := fun i => stats.getD i f32Zero
    drop := fun st => s.dropDraw t st e
    fn := evalFn v
    tab := s.tab die }

/-- Bad codes that the read of one source counts at one element: a source that names an argument reads it. -/
def State.srcBad (s : State) (die : Nat) (args : List ChainArg) (c b m col : Nat) : Nat :=
  if 8 ≤ c ∧ c < 16 then (s.argVal die (args.getD (c - 8) default) b m col).2 else 0

/-- Bad codes that a program's argument reads count at one element, once for each argument named. -/
def State.argBad (s : State) (die : Nat) (args : List ChainArg) (is : List Inst) (b m c : Nat) : Nat :=
  ((List.range 8).map fun i =>
    if is.any fun x => x.sa == 8 + i || x.sb == 8 + i || x.sc == 8 + i then (s.argVal die (args.getD i default) b m c).2
    else 0).foldl (· + ·) 0

/-- One operand's run over the chunk that begins at k0 with n unmasked positions (R104, R105, R168, R169): the sources that
the load path delivers, after the prologue, and what the prologue collected. The prologue of a complex product reads its
arguments at the stored batch entry (DESIGN CHOICE, log 117: R164 numbers no batch entry of a complex plane). -/
def State.sources (s : State) (t : TaskRec) (u : UnitRec) (isA : Bool) (e row k0 : Nat) (ls : List Loaded) :
    List Src × ChainAcc :=
  match if isA && t.shadowUse u true != 1 then t.pro else none with
  | some pr =>
    let args := s.chainArgs (s.taskArg t) t.argTable
    let rs := (List.range ls.length).map fun i =>
      let env := s.chainEnv u.die (u.bank.getD 0) t args [] e row (k0 + i) ((e * t.gM + row) * t.gK + (k0 + i))
      let ent := chainEntry (s.tab u.die) pr false ⟨(ls.getD i default).src.f32Bits, f32Zero⟩
      chainOne env pr pr.insts ent.1
    (rs.map fun r => .f32 (r.1.getD 0 f32Zero), rs.foldl (fun a r => a.add r.2) {})
  | none => (ls.map Loaded.src, {})

/-- The element index from which the load path's draws count (R294). -/
def TaskRec.drawBase (t : TaskRec) (isA : Bool) (e row k0 : Nat) : Nat :=
  (e * (if isA then t.gM else t.gN) + row) * t.gK + k0

/-- The run of an operand as the engine takes it: converted, or as stored. -/
def State.opRow (s : State) (t : TaskRec) (u : UnitRec) (isA : Bool) (e row k0 : Nat) (ls : List Loaded) (srcs : List Src) :
    OpRow :=
  match t.loadConv u isA with
  | some c =>
    let x := s.operandOf t u isA
    let sf := if isA && t.pro.isSome then .fp32 else x.srcFmt
    s.convertRow u.die c (s.operandT t u isA) sf (fun i => s.srDraw t c.stream (if isA then 2 else 3) (t.drawBase isA e row k0 + i))
      (fun i => (ls.getD i default).pad) srcs
  | none => s.storedRow (s.operandOf t u isA) (if isA then t.aTrans || t.im2col else t.bAxis) e row k0 ls

/-- What one row of an operand brings to a chunk: its variants (R91), and what its prologue collected. -/
structure OpSide where
  rows : List OpRow
  pro : ChainAcc := {}
deriving DecidableEq, Repr, Inhabited

/-- One plane of one row: what was loaded, the sources, and the prologue's collection. -/
def State.plane (s : State) (t : TaskRec) (u : UnitRec) (isA : Bool) (e row k0 n : Nat) : List Loaded × List Src × ChainAcc :=
  let ls := s.loadRow t u isA e row k0 n
  (ls, s.sources t u isA e row k0 ls)

/-- A plane as the engine takes it, with the bad codes of its load. -/
def State.planeRow (s : State) (t : TaskRec) (u : UnitRec) (isA : Bool) (e row k0 : Nat) (p : List Loaded × List Src × ChainAcc) :
    OpRow :=
  { s.opRow t u isA e row k0 p.1 p.2.1 with bad := s.loadBad t u isA e row k0 p.1 }

/-- The FP32 sum or difference of two planes, formed once from the decoded values (R46, R91), and converted into the
operand's format. A prologue has run on each plane before (DESIGN CHOICE, log 118: R91 and R168 give no order of the two). -/
def State.gaussRow (s : State) (t : TaskRec) (u : UnitRec) (isA minus : Bool) (row k0 : Nat)
    (x y : List Loaded × List Src × ChainAcc) : OpRow :=
  let c := t.operandConv u isA
  s.convertRow u.die c (s.operandT t u isA) .fp32
    (fun i => s.srDraw t c.stream (if isA then 2 else 3) (t.drawBase isA (2 * u.b) row k0 + i))
    (fun i => (x.1.getD i default).pad)
    ((List.range x.2.1.length).map fun i =>
      let a := (x.2.1.getD i default).f32Bits
      let b := (y.2.1.getD i default).f32Bits
      .f32 (if minus then fsub a b else fadd a b))

/-- The variants of one row of A (R91): the planes, or a + b, a and b in the Gauss form. -/
def State.variantsA (s : State) (t : TaskRec) (u : UnitRec) (m k0 n : Nat) : OpSide :=
  if t.complex = 0 then
    let x := s.plane t u true u.b m k0 n
    ⟨[s.planeRow t u true u.b m k0 x], x.2.2⟩
  else
    let x := s.plane t u true (2 * u.b) m k0 n
    let y := s.plane t u true (2 * u.b + 1) m k0 n
    let xy := [s.planeRow t u true (2 * u.b) m k0 x, s.planeRow t u true (2 * u.b + 1) m k0 y]
    ⟨if t.complex = 1 then xy else s.gaussRow t u true false m k0 x y :: xy, x.2.2.add y.2.2⟩

/-- The variants of one column of B (R91): the planes, or c, d − c and c + d in the Gauss form, which takes d in its sums
alone. -/
def State.variantsB (s : State) (t : TaskRec) (u : UnitRec) (col k0 n : Nat) : OpSide :=
  if t.complex = 0 then ⟨[s.planeRow t u false u.b col k0 (s.plane t u false u.b col k0 n)], {}⟩
  else
    let x := s.plane t u false (2 * u.b) col k0 n
    let y := s.plane t u false (2 * u.b + 1) col k0 n
    let c := s.planeRow t u false (2 * u.b) col k0 x
    if t.complex = 1 then ⟨[c, s.planeRow t u false (2 * u.b + 1) col k0 y], {}⟩
    else
      let sum := s.gaussRow t u false false col k0 x y
      ⟨[c, s.gaussRow t u false true col k0 y x, { sum with bad := s.loadBad t u false (2 * u.b + 1) col k0 y.1 }], {}⟩

/-- The products of two rows over a chunk, with the halves' scales (R81, R84, R88). -/
def passGroup (neg : Bool) (a b : OpRow) : Xv × Xv × List CellProd :=
  (xvMul a.s1 b.s1, xvMul a.s2 b.s2,
   (List.range a.vals.length).map fun i =>
     mkProd (decide (16 ≤ i)) a.fmt b.fmt (a.vals.getD i (.fin false 0 0)) (b.vals.getD i (.fin false 0 0)) neg)

/-- The chunk result of a cell from its groups of passes (R82 to R89). -/
def cellChunk (gs : List (Bool × OpRow × OpRow)) : ChunkVal × Bool :=
  let e5 := gs.all fun g => g.2.1.fmt == .e5m2 && g.2.2.fmt == .e5m2
  let halves := gs.any fun g => g.2.1.smode == .two || g.2.2.smode == .two
  chunkValGroups (if e5 then 96 else 48) halves (gs.map fun g => passGroup g.1 g.2.1 g.2.2)

/-- The rows of both operands that the accumulators of a chunk use, with the counts of what was loaded and converted:
for each accumulator plane, the (negated, A variant, B variant) of its passes (R91). -/
def planePasses (complex : Nat) : List (List (Bool × Nat × Nat)) :=
  if complex = 0 then [[(false, 0, 0)]]
  else if complex = 1 then [[(false, 0, 0), (true, 1, 1)], [(false, 0, 1), (false, 1, 0)]]
  else [[(false, 0, 0)], [(false, 1, 1)], [(false, 2, 2)]]

/-! The array check (R94, R95). -/

/-- The exponent of a row's E8M0 scale; scales of mode 3 take no part in the check (R94). -/
def OpRow.checkExp (o : OpRow) : Int :=
  match o.smode, o.s1 with
  | .e8m0, .fin _ _ e => e
  | _, _ => 0

/-- The residues of a row, position by position and part by part. -/
def OpRow.residues (o : OpRow) : List (List (Bool × Nat)) := o.vals.map (elemResidues o.fmt o.checkExp)

/-- The residue that a cell forms of its chunk sum over its passes. -/
def cellCheck (gs : List (Bool × OpRow × OpRow)) : Nat :=
  resSum (gs.map fun g => cellResidue (g.2.1.checkExp + g.2.2.checkExp) (passGroup g.1 g.2.1 g.2.2).2.2)

/-- What faults add to the residue of cell (i, j), to the checksum-row cell j and to the checksum-column cell i. -/
def cellFault (fs : List ArrayFault) (i j : Nat) : Nat :=
  resSum (fs.map fun f => match f with
    | .cell r c d => if r = i ∧ c = j then d else 0
    | _ => 0)
def rowCellFault (fs : List ArrayFault) (j : Nat) : Nat :=
  resSum (fs.map fun f => match f with
    | .checkRow c d => if c = j then d else 0
    | _ => 0)
def colCellFault (fs : List ArrayFault) (i : Nat) : Nat :=
  resSum (fs.map fun f => match f with
    | .checkCol r d => if r = i then d else 0
    | _ => 0)

/-- What faults add to the load path's sum of position k over the rows of A, or over the columns of B. -/
def loadFault (fs : List ArrayFault) (isA : Bool) (k : Nat) : Nat :=
  resSum (fs.map fun f => match f with
    | .loadSum a q d => if a = isA ∧ q = k then d else 0
    | _ => 0)

/-- The load path's sums as faults leave them: a fault falls on the sum of the first part. -/
def loadSums (fs : List ArrayFault) (isA : Bool) (rows : List OpRow) : List (List (Bool × Nat)) :=
  let sums := sumResidues (rows.map OpRow.residues)
  (List.range sums.length).map fun k =>
    match sums.getD k [] with
    | [] => []
    | x :: xs => (x.1, resAdd x.2 (loadFault fs isA k)) :: xs

/-- The rows and the columns of a tile whose residues mismatch in one accumulator plane (R95): `as` and `bs` are the
variants of its rows of A and columns of B, `ps` the passes of the plane. -/
def planeCheck (fs : List ArrayFault) (as bs : List OpSide) (ps : List (Bool × Nat × Nat)) : List Nat × List Nat :=
  let va := fun (i v : Nat) => ((as.getD i default).rows).getD v default
  let vb := fun (j v : Nat) => ((bs.getD j default).rows).getD v default
  let cells := (List.range as.length).map fun i => (List.range bs.length).map fun j =>
    resAdd (cellCheck (ps.map fun p => (p.1, va i p.2.1, vb j p.2.2))) (cellFault fs i j)
  let sums := fun (isA : Bool) (v : Nat) => loadSums fs isA ((if isA then as else bs).map fun o => o.rows.getD v default)
  let checks := fun (fa fb : Nat → Fmt) (x y : Nat → List (List (Bool × Nat))) => resSum (ps.map fun p =>
    checkCell (fa p.2.1) (fb p.2.2) p.1 (x p.2.1) (y p.2.2))
  let fa := fun v => (va 0 v).fmt
  let fb := fun v => (vb 0 v).fmt
  let row := fun j => resAdd (checks fa fb (sums true) fun v => (vb j v).residues) (rowCellFault fs j)
  let col := fun i => resAdd (checks fa fb (fun v => (va i v).residues) (sums false)) (colCellFault fs i)
  ((List.range as.length).filter fun i => col i != resSum (cells.getD i []),
   (List.range bs.length).filter fun j => row j != resSum (cells.map fun r => r.getD j 0))

/-- What the array finds at the end of a chunk (R93, R95, R111): KIND, ROW and COL of MXE_CHK_LAST. The comparisons of the
residues come first, then the slot that the sums are added to, then the duplicate of the add (DESIGN CHOICE, log 115: the
order of what is found in one chunk). -/
def chunkFound (fs : List ArrayFault) (planes : List (List (Bool × Nat × Nat))) (as bs : List OpSide) :
    Option (Nat × Nat × Nat) :=
  let ms := (List.range planes.length).map fun i => planeCheck (if i = 0 then fs else []) as bs (planes.getD i [])
  let rows := nubList (ms.flatMap Prod.fst)
  let cols := nubList (ms.flatMap Prod.snd)
  match locateMismatch rows cols with
  | some x => some x
  | none =>
    match fs.findSome? fun f => match f with
      | .accWord r c => some (4, r, c)
      | _ => none with
    | some x => some x
    | none => fs.findSome? fun f => match f with
      | .duplicate r c => some (3, r, c)
      | _ => none

end Sys2Proof.Machine
end

