-- ==== Sys2Proof/Machine/ProductCheck.lean ====
section
/-! DEFINITION. The checks of a product descriptor (R145 and the rules it gathers) and the bytes it can reach. -/
namespace Sys2Proof.Machine
open Sys2Proof

/-- Format and scale mode of an operand as the engine uses it. -/
def TaskRec.usedForm (t : TaskRec) (cv : Nat) : Fmt × SMode :=
  let c := (convOf (t.w cv)).getD default
  (c.fmt, c.smode)

/-- The bytes of A (R142, R249, R250). -/
def State.rngsA (s : State) (t : TaskRec) : List Rng := (s.layoutA t).rngs

/-- The bytes of the stored shadows, with their per-tensor scales in scale mode 1 (R144). -/
def State.rngsShadow (s : State) (t : TaskRec) : List Rng :=
  let one := fun (x : Tensor) => x.rngs ++ (if x.smode = .tensor then [{ base := x.scale, len := 4 }] else [])
  (if t.ctrl 19 18 = 1 then one (s.shadowA t) else []) ++ (if t.ctrl 21 20 = 1 then one (s.shadowB t) else [])

/-- The bytes of a chain program, as read at admission (R153) or as it lies at `a`. -/
def State.rngProgram (s : State) (c : Option ChainProg) (a : Nat) : List Rng :=
  if a = 0 then [] else [{ base := a, len := 64 + 4 * (c.getD (s.program a)).len }]

/-- Argument i is named by the prologue. -/
def TaskRec.proNames (t : TaskRec) (i : Nat) : Bool := t.pro.any fun p => p.insts.any fun x => x.names i

/-- The extents of an argument of a product in its roles (R164): columns of the product, of the output after XMUL, or
the reduction for a prologue. Readers before and after XMUL may differ, so the wider one counts. -/
def TaskRec.argCols (t : TaskRec) (i : Nat) : Nat :=
  let epi := match t.epi with
    | some p =>
      let before := p.insts.takeWhile fun x => x.op != 0x18
      let rest := p.insts.dropWhile fun x => x.op != 0x18
      max (if (before ++ rest.take 1).any fun x => x.names i then t.gN else 0)
        (if (rest.drop 1).any fun x => x.names i then t.outN else 0)
    | none => 0
  max (if t.proNames i then t.gK else 0) epi

/-- The batch entries at which an argument is read: the stored ones where the prologue of a complex product names it
(log 117). -/
def TaskRec.argEntries (t : TaskRec) (i : Nat) : Nat := if t.proNames i then t.entries else t.gBatch

/-- The bytes of the arguments of a product, those that STO writes or the others. -/
def State.rngsArgs (s : State) (t : TaskRec) (out : Bool) : List (List Rng) :=
  (List.range 8).map fun i =>
    let a := (s.chainArgs (s.taskArg t) t.argTable).getD i default
    if (a.kind == .elemOut) == out && t.argCols i != 0 then argRngs a (t.argEntries i) t.gM (t.argCols i) else []

/-- The bytes of every argument of the table that is no ELEM_OUT, those that no instruction names among them, for the
overlaps of R165: these have the extents of the epilogue's product columns, or of the reduction where there is no
epilogue (DESIGN CHOICE, log 119: R164 gives extents to a role, and an unnamed argument has none). -/
def State.rngsTable (s : State) (t : TaskRec) : List (List Rng) :=
  (List.range 8).map fun i =>
    let a := (s.chainArgs (s.taskArg t) t.argTable).getD i default
    if a.kind == .elemOut then []
    else argRngs a (t.argEntries i) t.gM (if t.argCols i = 0 then (if t.epi.isSome then t.gN else t.gK) else t.argCols i)

/-- The bytes of D and of its scale array. -/
def TaskRec.rngsD (t : TaskRec) : List Rng := t.tensorD.rngs

/-- The bytes of the discard map (R282). -/
def TaskRec.rngsMap (t : TaskRec) : List Rng :=
  if t.discard then [{ base := t.f 0x90 8, len := t.gBatch * (64 * ceilDiv t.gM 512) }] else []

/-- The length word (R119). -/
def TaskRec.rngsLen (t : TaskRec) : List Rng := if t.ctrl 15 14 = 0 then [] else [{ base := t.f 0xB0 8, len := 4 }]

/-- What a product reads. -/
def State.productReads (s : State) (t : TaskRec) : List Rng :=
  s.rngsA t ++ t.tensorB.rngs ++ (if t.ctrl 11 11 = 1 then t.tensorC.rngs else []) ++ s.rngsShadow t ++ t.rngsLen ++ t.rngsMap ++
    (if t.im2col then [{ base := t.f 0xB8 8, len := 64 }] else []) ++ s.rngProgram t.pro t.prologue ++ s.rngProgram t.epi t.epilogue ++
    (if t.argTable = 0 then [] else [{ base := t.argTable, len := 256 }]) ++ (s.rngsArgs t false).flatten

/-- What a product writes. -/
def State.productWrites (s : State) (t : TaskRec) : List Rng := t.rngsD ++ (s.rngsArgs t true).flatten

/-- The stride is a multiple of 64 bytes and separates the stored rows, which R42 pads to whole groups of elements
(R145). -/
def Tensor.strideOk (x : Tensor) : Bool := x.stride % 64 == 0 && x.rowLen ≤ x.stride

/-- A conversion specifier that R145 accepts for an operand: valid, and no FP32 pair (R40). -/
def operandOk (w : W32) : Bool :=
  match convOf w with
  | some c => c.fmt != .fp32pair
  | none => false

/-- STORED_A or STORED_B: 0xFF, or a valid pair of format and scale mode that is no FP32 pair (R386). -/
def storedOk (h : Nat) : Bool :=
  h == 0xFF ||
    (match fmtOfCode (h % 64) with
     | some f => f != .fp32pair && smodeOk f (smodeOf (h / 64))
     | none => false)

/-- The rules on a shadow (R54, R79, R87, R104, R138, R144, R169): its code, its format and mode, and its fields. A stored
shadow of an A that the generator reads takes no block scales, as R251 has it for A itself (DEDUCED, log 120). -/
def TaskRec.shadowOk (t : TaskRec) (code cv addr scale : Nat) (src : Fmt × SMode) (outer isB : Bool) : Bool :=
  match code with
  | 0 => (convOf (t.w cv)).isSome
  | 1 =>
    (match convOf (t.w cv) with
     | some c => (c.fmt == .e4m3 || c.fmt == .e5m2) && c.smode != .two && !((outer || (!isB && t.im2col)) && c.smode.blocked) &&
        !(t.pairMode && c.smode == .tensor)
     | none => false) &&
    t.f addr 8 % 64 == 0 && t.f scale 8 % 64 == 0 && !(t.prologue != 0 && !isB)
  | 2 => (src.1 == .bf16 || src.1 == .fp16 || src.1 == .fp32) && !(isB && outer) && t.f addr 8 == 0 && t.f scale 8 == 0 &&
      t.f cv 4 == 0
  | _ => false

/-- The overlaps that R145 and R165 forbid. -/
def State.overlapsOk (s : State) (t : TaskRec) : Bool :=
  let ins := s.rngsA t ++ t.tensorB.rngs
  let d := t.rngsD
  let outs := s.rngsArgs t true
  let table := s.rngsTable t
  let others := ins ++ d ++ (if t.ctrl 11 11 = 1 then t.tensorC.rngs else []) ++ s.rngsShadow t
  let sameC := t.f 0x70 8 == t.f 0x78 8 && t.f 0x44 4 == t.f 0x48 4 && t.outN == t.gN
  !rngsMeet d ins && (t.ctrl 11 11 == 0 || sameC || !rngsMeet d t.tensorC.rngs) &&
    ((List.range 8).all fun i =>
      let x := outs.getD i []
      !rngsMeet x others && ((List.range 8).all fun j =>
        j == i || !(rngsMeet x (table.getD j []) || rngsMeet x (outs.getD j []))))

/-- A chain program named by a task keeps R162 in its role, and every argument keeps R163. -/
def State.programOk (s : State) (t : TaskRec) (role : Nat) (c : Option ChainProg) : Bool :=
  match c with
  | none => true
  | some p => chainOk role (s.chainArgs (s.taskArg t) t.argTable) p

/-- The element indices of a tensor stay below 2^50 where something draws by them (R294). -/
def indexOk (draws : Bool) (n : Nat) : Bool := !draws || n ≤ pow2 50

/-- A specifier rounds stochastically. -/
def isSr (w : W32) : Bool := ((convOf w).map Conv.rnd).getD .rne == .sr

/-- An argument that STO writes rounds stochastically. -/
def stoSr (args : List ChainArg) (is : List Inst) : Bool :=
  is.any fun x => x.op == 0x21 && ((args.getD x.aux default).cv.map Conv.rnd).getD .rne == .sr

/-- The draws of a program stay in range: DROP and STO count elements by the row's width before XMUL and by half of it after
(R170, R294). -/
def progIndexOk (p : Option ChainProg) (args : List ChainArg) (rows w : Nat) : Bool :=
  match p with
  | none => true
  | some q =>
    let before := q.insts.takeWhile fun x => x.op != 0x18
    let after := q.insts.dropWhile fun x => x.op != 0x18
    let draws := fun (is : List Inst) => stoSr args is || is.any fun x => x.op == 0x11
    indexOk (draws before) (rows * w) && indexOk (draws after) (rows * (w / 2))

/-- The reuse slot's BATCH and M match the task's (R260); slot 0 is no scope. -/
def State.slotMatches (s : State) (p slot batch m : Nat) : Bool :=
  slot == 0 || (s.reuseSlots.any fun x => x.p == p && x.slot == slot && x.batch == batch && x.m == m)

/-- The product descriptor keeps every rule that names ST_INVALID_DESC for it (R40, R42, R43, R54, R79, R87, R104, R117,
R122, R125, R126, R138, R140 to R145, R162, R163, R165, R169, R170, R251, R260, R282). -/
def State.productOk (s : State) (t : TaskRec) : Bool :=
  let ext := fun v hi => 1 ≤ v && v ≤ hi
  let a := t.tensorA
  let b := t.tensorB
  let ua := t.usedForm 0x3C
  let ub := t.usedForm 0x40
  let al := fun o => t.f o 8 % 64 == 0
  let args := s.chainArgs (s.taskArg t) t.argTable
  ext t.gM 16777216 && ext t.gN 16777216 && ext t.gK 16777216 && ext t.gBatch 65536 &&
  operandOk (t.w 0x3C) && operandOk (t.w 0x40) && storedOk (t.f 4 1) && storedOk (t.f 5 1) &&
  (match convOf (t.w 0x44) with
   | some c => (c.fmt == .fp32 || c.fmt == .fp32pair || c.fmt == .bf16 || c.fmt == .fp16) && c.smode == .none
   | none => false) &&
  (convOf (t.w 0x48)).isSome && (t.f 4 1 == 0xFF || t.f 4 1 < 0x100) &&
  t.ctrl 63 40 == 0 && t.ctrl 23 22 == 0 && t.ctrl 4 2 == 0 && t.ctrl 1 0 != 3 && t.ctrl 8 7 ≤ 1 && t.ctrl 10 9 ≤ 2 &&
  t.ctrl 17 16 ≤ 1 && t.ctrl 19 18 ≤ 2 && t.ctrl 21 20 ≤ 2 &&
  ([0x60, 0x68, 0x70, 0x78, 0x80, 0x88, 0x90, 0xB8, 0xC0, 0xC8, 0xD0, 0xD8, 0xE0, 0xE8, 0xF0].all al) &&
  (if t.im2col then s.genOk t else a.strideOk) && b.strideOk && t.tensorD.strideOk &&
  (t.ctrl 11 11 == 0 || t.tensorC.strideOk) &&
  !cifInvalid (t.w 0x58) && !cifInvalid (t.w 0x5C) &&
  !(t.bAxis && (b.smode.blocked || ub.2.blocked)) &&
  !(t.aTrans && a.smode.blocked) &&
  !(t.pairMode && (a.smode.perTensor || b.smode.perTensor || ua.2.perTensor || ub.2.perTensor)) &&
  t.shadowOk (t.ctrl 19 18) 0xF8 0xD8 0xE8 (t.storedForm 4 0x3C) t.aTrans false &&
  t.shadowOk (t.ctrl 21 20) 0xFC 0xE0 0xF0 (t.storedForm 5 0x40) t.bAxis true &&
  !(t.defer && t.ctrl 13 13 == 1) && t.f 0xB0 8 % 4 == 0 &&
  s.programOk t 1 t.pro && s.programOk t 0 t.epi && (t.argTable == 0 || args.all ChainArg.ok) &&
  (!t.glu || (t.gN % 128 == 0 && t.ctrl 15 14 != 2)) &&
  !(t.discard && ((convOf (t.w 0x48)).map fun c => c.smode.blocked).getD false) &&
  indexOk (isSr (t.w 0x48)) (t.entries * t.gM * t.outN) && progIndexOk t.epi args (t.entries * t.gM) t.gN &&
  indexOk (isSr (t.w 0x3C)) (t.entries * t.gM * t.gK) && progIndexOk t.pro args (t.entries * t.gM) t.gK &&
  indexOk (isSr (t.w 0x40)) (t.entries * t.gN * t.gK) &&
  (t.f 6 1 == 0 || (t.complex == 0 && !t.aTrans && s.slotMatches t.p (t.f 6 1) t.gBatch t.gM)) &&
  s.overlapsOk t

end Sys2Proof.Machine
end

