-- ==== Sys2Proof/Machine/Issue.lean ====
section
/-! DEFINITION. Units of issue and their attempts: shares of the dies (R123), slices and lengths (R34, R119), slots of
accumulator memory (R92), bindings (R203, R204), real-time windows (R402), engine time (R404), and what a failed attempt
leaves (R96 to R98, R422, R426, R427). -/
namespace Sys2Proof.Machine
open Sys2Proof

/-- Changing one task. -/
def State.updTask (s : State) (tid : Nat) (f : TaskRec → TaskRec) : State :=
  { s with tasks := s.tasks.map fun (t : TaskRec) => if t.tid = tid then f t else t }

/-- Changing one unit of a task. -/
def State.putUnit (s : State) (tid : Nat) (u : UnitRec) : State := s.updTask tid fun t => t.setUnit u

/-- The dies that run a task, in increasing order: DIE_MASK, or every die of the partition (R386). -/
def State.taskDies (s : State) (t : TaskRec) : List Nat :=
  let ds := (List.range 8).filter fun d => (s.dies t.p).contains d
  if t.f 3 1 = 0 then ds else ds.filter fun d => bit (t.f 3 1) d

/-- RAS_CFG.TASK_RETRIES (R439). -/
def State.taskRetries (s : State) : Nat := s.rd 0x700000 11 8

/-! Engine time (R404). -/

/-- A tenant's record. -/
def State.tenant (s : State) (p t : Nat) : TenantRec :=
  (s.tenants.find? fun x => x.p == p && x.t == t).getD { p := p, t := t }

def State.setTenant (s : State) (x : TenantRec) : State :=
  { s with tenants := x :: s.tenants.filter fun y => !(y.p == x.p && y.t == x.t) }

/-- Clocks charged to a tenant, for its virtual time (R403). -/
def State.chargeTenant (s : State) (p t n : Nat) : State :=
  let x := s.tenant p t
  s.setTenant { x with charge := x.charge + n }

/-- Clocks of an MXE assigned to a task: the tenant's and the task's, or SCH_RETRY_CYC on a re-execution (R404). -/
def State.chargeMxe (s : State) (t : TaskRec) (again : Bool) (n : Nat) : State :=
  if again then s.bump (Addr.sch t.p 0x108) n
  else ((s.charge (Addr.acct t.p t.tenant 0) n).chargeTenant t.p t.tenant n).updTask t.tid fun u => { u with cyc := u.cyc + n }

/-- Clocks of a VXE that runs a task's instructions (R404). -/
def State.chargeVxe (s : State) (t : TaskRec) (again : Bool) (n : Nat) : State :=
  if again then s.bump (Addr.sch t.p 0x108) n
  else (s.charge (Addr.acct t.p t.tenant 1) n).chargeTenant t.p t.tenant n

/-- The active VXEs of a die (R182). -/
def State.activeVxes (s : State) (d : Nat) : List Nat := (List.range 16).filter fun k => s.rd (Addr.vxe d k 0) 3 0 == 0

/-- The VXE that takes the `i`-th row after VXE `v` took the first (R167). -/
def State.rowVxe (s : State) (d v i : Nat) : Nat :=
  let a := s.activeVxes d
  a.getD ((a.findIdx (· == v) + i) % max 1 a.length) v

/-- What one row costs the VXE that runs it (R176, R181): its clocks, lane slots and special-function results. -/
structure RowCost where
  clocks : Nat := 0
  slots : Nat := 0
  sfu : Nat := 0
deriving DecidableEq, Repr, Inhabited

/-- The cost of a row from what its elements collected, column by column: each half of 64 lanes runs its instructions
together (R167). -/
def rowCost (els : List ChainAcc) : RowCost :=
  let m := fun (l : List ChainAcc) => (l.map ChainAcc.slots).foldl max 0
  { clocks := m (els.take 64) + m (els.drop 64), slots := (els.map ChainAcc.slots).foldl (· + ·) 0
    sfu := (els.map fun e => e.ft.slots).foldl (· + ·) 0 }

/-- Charging rows to the VXEs of a die, dealt in order from VXE `v` (R167, R181, R404). -/
def State.vxeRows (s : State) (t : TaskRec) (again : Bool) (d v : Nat) (costs : List RowCost) : State :=
  (List.range costs.length).foldl (fun s i =>
    let c := costs.getD i {}
    let k := s.rowVxe d v i
    (((s.bump (Addr.vxe d k 0x10) c.clocks).bump (Addr.vxe d k 0x18) c.slots).bump (Addr.vxe d k 0x20) c.sfu).chargeVxe
      t again c.clocks) s

/-- Function-table events of a die (R212). -/
def State.addFt (s : State) (d : Nat) (c : FtCnt) : State :=
  ((s.bump (Addr.ft d 0x18) c.limit).bump (Addr.ft d 0x20) c.domain).bump (Addr.ft d 0x28) c.undef

/-- Conversions of the store path (R62, R68). -/
def State.addStore (s : State) (d : Nat) (c : Cnt) : State :=
  ((((s.bump (Addr.conv d 0x8) c.sat).bump (Addr.conv d 0x18) c.inf).bump (Addr.conv d 0x20) c.nan).bump
    (Addr.conv d 0x28) c.bad).bump (Addr.conv d 0x30) c.sr

/-- Conversions of the load path (R62, R68). -/
def State.addLoad (s : State) (d : Nat) (c : Cnt) : State :=
  ((((s.bump (Addr.conv d 0x10) c.sat).bump (Addr.conv d 0x18) c.inf).bump (Addr.conv d 0x20) c.nan).bump
    (Addr.conv d 0x28) c.bad).bump (Addr.conv d 0x30) c.sr

/-! Engines. -/

/-- Firmware's record of a unit: 0 MXE, 1 VXE, 2 attention pipeline. -/
def State.engRec (s : State) (d what k : Nat) : EngRec :=
  (s.engs.find? fun e => e.die == d && e.what == what && e.eng == k).getD { die := d, what := what, eng := k }

def State.setEngRec (s : State) (e : EngRec) : State :=
  { s with engs := e :: s.engs.filter fun x => !(x.die == e.die && x.what == e.what && x.eng == e.eng) }

/-- MXE k of die d is active (R108). -/
def State.mxeActive (s : State) (d k : Nat) : Bool := k < 17 && s.rd (Addr.mxe d k 0) 3 0 == 0

/-- The active engines of a die. -/
def State.activeMxes (s : State) (d : Nat) : List Nat := (List.range 17).filter (s.mxeActive d)

/-- Firmware decides to retire an engine (R98). -/
def State.decideRetire (s : State) (d k : Nat) : State := s.setEngRec { s.engRec d 0 k with due := true }

/-- Counting a failure of an engine toward R98: the count reaches RETIRE_AT. -/
def State.countEngFail (s : State) (d k : Nat) : State :=
  let e := s.engRec d 0 k
  let n := e.fails + 1
  let at_ := s.rd (Addr.mxe d k 8) 7 0
  s.setEngRec { e with fails := n, due := e.due || (at_ != 0 && decide (at_ ≤ n)) }

/-! Shares of the dies (R123). -/

/-- Which of `d` shares of `n` things holds thing `x`: the first n mod d shares hold one more. -/
def shareOf (n d x : Nat) : Nat :=
  let q := n / d
  let r := n % d
  if x < r * (q + 1) then x / (q + 1) else r + (x - r * (q + 1)) / max 1 q

def TaskRec.rowBlocks (t : TaskRec) : Nat := ceilDiv t.gM 128
def TaskRec.colTiles (t : TaskRec) : Nat := ceilDiv t.gN 128

/-- The units of a product before any split: every tile of every batch entry, on the die that R123 gives it. -/
def State.productUnits (s : State) (t : TaskRec) : List UnitRec :=
  let ds := s.taskDies t
  let rb := t.rowBlocks
  let ct := t.colTiles
  let kc := ceilDiv t.gK 32
  (List.range (t.gBatch * rb)).flatMap fun x => (List.range ct).map fun c =>
    let i := if t.ctrl 13 13 = 0 then shareOf (t.gBatch * rb) ds.length x else shareOf ct ds.length c
    { uid := x * ct + c, b := x / rb, rb := x % rb, ct := c, die := ds.getD i 0, last := kc }

/-! Slices and lengths (R34, R119). -/

/-- The slice of a task that runs on a die, with its effective extent. -/
def TaskRec.sliceOn (t : TaskRec) (d : Nat) : Option Nat := (t.slices.find? fun x => x.die == d).map SliceRec.len

/-- An extent under a length L on its axis. -/
def TaskRec.effM (t : TaskRec) (L : Nat) : Nat := if t.ctrl 15 14 = 1 then min t.gM L else t.gM
def TaskRec.effN (t : TaskRec) (L : Nat) : Nat := if t.ctrl 15 14 = 2 then min t.gN L else t.gN
def TaskRec.effK (t : TaskRec) (L : Nat) : Nat := if t.ctrl 15 14 = 3 then min t.gK L else t.gK

/-- The rows and columns of a tile that are not masked (R114, R115). -/
def TaskRec.tileRows (t : TaskRec) (u : UnitRec) : List Nat :=
  (List.range 128).filterMap fun i => if u.rb * 128 + i < t.effM u.len then some (u.rb * 128 + i) else none
def TaskRec.tileCols (t : TaskRec) (u : UnitRec) : List Nat :=
  (List.range 128).filterMap fun i => if u.ct * 128 + i < t.effN u.len then some (u.ct * 128 + i) else none

/-- The reuse map says that block J is reused (R257). -/
def State.reused (s : State) (p slot J : Nat) : Bool :=
  (Sparse.get 0 s.maps.reuse ((p * 256 + slot) * 128 + J / 64)).getLsbD (J % 64)

/-- A tile of row blocks is skipped under L (R120). -/
def TaskRec.beyond (t : TaskRec) (u : UnitRec) (L : Nat) : Bool :=
  (t.ctrl 15 14 == 1 && L ≤ u.rb * 128) || (t.ctrl 15 14 == 2 && L ≤ u.ct * 128) || (t.ctrl 15 14 == 3 && L == 0) || L == 0

/-! Real-time windows (R402). -/

/-- SCH_SLOT[i]'s dies. -/
def State.slotHas (s : State) (i d : Nat) : Bool := bit (s.rd (0x100100 + 8 * i) 7 0) d

/-- The task's work may issue on a die now: bound work inside its slot's window, other work where no open window has
bound work, and while power does not hold it (R587, R588). -/
def State.windowOk (s : State) (t : TaskRec) (d : Nat) : Bool :=
  if t.slot ≠ 0 then s.slotsOn.contains (t.slot - 1) && s.slotHas (t.slot - 1) d
  else
    !s.powerHold && !s.tripped &&
      !(s.slotsOn.any fun i => s.slotHas i d && s.tasks.any fun x => x.slot == i + 1 && (x.phase == .ready || x.phase == .running))

/-- No halt stands on a die for a task. -/
def TaskRec.unhalted (t : TaskRec) (d : Nat) : Bool := !(t.halts.any fun x => x.1 == d)

/-! Slots and bindings. -/

/-- Slots per output tile (R92). -/
def TaskRec.tileSlots (t : TaskRec) : Nat :=
  (if t.complex = 0 then 1 else if t.complex = 1 then 2 else 3) * (if t.pairMode then 2 else 1)

/-- An attention unit runs on a pipeline that engine k of die d serves; a unit holds both engines of its pipeline. -/
def State.pipeHolds (s : State) (d k : Nat) : Bool :=
  s.tasks.any fun t => t.f 0 1 == 1 && t.units.any fun u => u.die == d && (u.phase == .issued || u.phase == .summed) &&
    (s.rd (Addr.atp d u.eng 0) 23 16 == k || s.rd (Addr.atp d u.eng 0) 15 8 == k)

/-- Slots that open tiles hold on an engine; an attention unit holds it whole. -/
def State.slotsUsed (s : State) (d k : Nat) : Nat :=
  (s.tasks.map fun t =>
    t.tileSlots * (t.units.filter fun u => u.die == d && u.eng == k && !u.spilled &&
      (u.phase == .issued || u.phase == .summed) && t.f 0 1 == 0).length).foldl (· + ·) (if s.pipeHolds d k then 15 else 0)

/-- MIN_EPOCH is still ahead of the die's epoch (R204). -/
def State.epochAhead (s : State) (t : TaskRec) (d : Nat) : Bool :=
  let m := t.f 8 4
  let x := (m + pow2 32 - s.rd (Addr.ft d 8) 31 0) % pow2 32
  m != 0 && 1 ≤ x && x < pow2 31

/-- The bank that a unit binds at its start (R173, R203): its own first binding, its row block's, or the active one. -/
def State.bindBank (s : State) (t : TaskRec) (u : UnitRec) : Option Nat :=
  if u.bank.isSome then u.bank
  else
    let rbBank := if t.defers then
        (t.units.find? fun v => v.b == u.b && v.rb == u.rb && v.die == u.die && v.bank.isSome).bind UnitRec.bank
      else none
    match rbBank with
    | some b => some b
    | none => if t.prologue ≠ 0 ∨ t.epilogue ≠ 0 then some (s.ftActive u.die) else none

/-- Holding a unit for its epoch counts it once (R204). -/
def State.holdEpoch (s : State) (t : TaskRec) (u : UnitRec) : State :=
  if u.epochHeld then s
  else (s.bump (Addr.ft u.die 0x48) 1).putUnit t.tid { u with epochHeld := true }

/-- The engine on which R124 keeps the units of this row block and part. -/
def State.rowEngine (s : State) (t : TaskRec) (u : UnitRec) : Option Nat :=
  (t.units.find? fun v => v.uid != u.uid && v.b == u.b && v.rb == u.rb && v.part == u.part && v.die == u.die &&
    v.attempt != 0 && !v.moved && v.redo == 0 && s.mxeActive v.die v.eng).map UnitRec.eng

/-! Failed attempts. -/

/-- The unit with everything of its attempt discarded, to be issued again from its start. -/
def UnitRec.discarded (u : UnitRec) : UnitRec :=
  { u with phase := .failed, acc := [], staged := [], arrived := [], sat := 0, held := 0, spilled := false, image := none,
           again := true }

/-- The same but for the spill image from which the unit begins again (R96). -/
def UnitRec.slotLost (u : UnitRec) : UnitRec :=
  { u.discarded with image := u.image, held := if u.image.isSome then u.held else 0 }

/-- A unit is abandoned (R97): it waits for a re-execution of the task, or ends the task when none is left (R426). -/
def State.abandonUnit (s : State) (t : TaskRec) (u : UnitRec) : State :=
  let s := s.putUnit t.tid { u.discarded with phase := .abandoned, bank := none }
  if t.retries < s.taskRetries then s else s.endTask t.tid 0x21

/-- An array-check failure, or a hang, of the unit's attempt (R96, R97, R426): once again on the same engine, then moved,
then abandoned. -/
def State.failTile (s : State) (t : TaskRec) (u : UnitRec) : State :=
  let a := Addr.mxe u.die u.eng
  let s := (s.bump (a 0x38) 1).countEngFail u.die u.eng
  let n := u.fails + 1
  if u.moved then s.abandonUnit t { u with fails := n }
  else if n = 1 then s.putUnit t.tid { u.slotLost with fails := n, redo := 1, why := 9 }
  else (s.bump (a 0x40) 1).putUnit t.tid { u.slotLost with fails := n, redo := 2, moved := true, movedFrom := u.eng, why := 9 }

/-- An attention unit's attempt fails, on an engine or in the RSU (R242, R97): once again on the same pipeline, then moved,
then abandoned. -/
def State.failAttn (s : State) (t : TaskRec) (u : UnitRec) (eng : Option Nat) : State :=
  let s := match eng with
    | some k => (s.bump (Addr.mxe u.die k 0x38) 1).countEngFail u.die k
    | none => s.bump (Addr.atp u.die u.eng 0x48) 1
  let u := { u with fails := u.fails + 1, badEng := eng }
  if u.moved then s.abandonUnit t u
  else if u.fails = 1 then s.putUnit t.tid { u.discarded with redo := 1, why := 9 }
  else s.putUnit t.tid { u.discarded with redo := 2, moved := true, movedFrom := u.eng, why := 9 }

/-- The record of an array-check failure (R96, R111). -/
def State.recordCheck (s : State) (t : TaskRec) (u : UnitRec) (kind row col : Nat) : State :=
  let w := kind % 8 * pow2 16 + col % 256 * 256 + row % 256
  (s.setCtr (Addr.mxe u.die u.eng 0x18) (BitVec.ofNat 64 w)).event 0x10 (unitOf 0 u.die u.eng) t.p w t.seq

/-- A parity error of a VXE, or an uncorrectable table word, which is handled as one, found in a unit (R180, R187): once
again, then abandoned; the sixteenth error of a VXE disables it. -/
def State.failParity (s : State) (t : TaskRec) (u : UnitRec) (v row : Nat) : State :=
  let s := (s.bump (Addr.vxe u.die v 0x28) 1).event 0x12 (unitOf 0 u.die (0x20 + v)) t.p row t.seq
  let e := s.engRec u.die 1 v
  let n := e.fails + 1
  let s := s.setEngRec { e with fails := n, retired := e.retired || decide (16 ≤ n) }
  let s := if 16 ≤ n ∧ s.rd (Addr.vxe u.die v 0) 3 0 = 0 then
      ((s.setFld (Addr.vxe u.die v 0) 3 0 2).mapAdd 1 u.die v).event 0x13 (unitOf 0 u.die (0x20 + v)) t.p 0 0xFF
    else s
  if u.parity = 0 then s.putUnit t.tid { u.discarded with parity := 1, redo := 1, why := 9 }
  else s.abandonUnit t { u with parity := u.parity + 1 }

/-- A foul in an input of a unit (R427): counted by its path, recorded, and the unit issued again, until FOUL_RETRIES
attempts have found one. -/
def State.failFoul (s : State) (t : TaskRec) (u : UnitRec) (blk ctrAddr path unitNo : Nat) : State :=
  let s := (s.bump ctrAddr 1).event 0x20 unitNo t.p blk path
  let n := u.fouls + 1
  if s.foulRetries ≤ n then s.endTask t.tid 0x20
  else s.putUnit t.tid { u.discarded with fouls := n, redo := 1, why := 8 }

/-- The task is over when every unit is done or skipped. -/
def State.settle (s : State) (tid : Nat) : State :=
  match s.task tid with
  | none => s
  | some t =>
    if t.phase = .running ∧ t.units.all (fun u => u.phase == .done || u.phase == .skipped) then s.endTask tid 0 else s

/-- The unit with the extent of the running slice, and the chunks of its next attempt: from its spill image where the tile
begins from one, else from its first (R96, R119). -/
def TaskRec.armed (t : TaskRec) (u : UnitRec) (L : Nat) : UnitRec :=
  let from_ := (u.image.map SpillImage.next).getD u.first
  { u with
    len := L, next := from_, base := from_, start := from_
    last := if t.ctrl 15 14 = 3 ∧ (t.plan.map Plan.p).getD 1 < 2 then ceilDiv (t.effK L) 32 else u.last }

/-- Giving a unit its first or next attempt on an engine (R96, R119, R203, R421); a split tile counts as issued with its
part 0 (R146). -/
def State.issueOn (s : State) (t : TaskRec) (u : UnitRec) (k L : Nat) (acc : List (List Pair)) : State :=
  let s := if u.part = 0 then s.bump (Addr.seq u.die 0x8) 1 else s
  s.putUnit t.tid { t.armed u L with
    eng := k, attempt := u.attempt + 1, phase := .issued
    acc := (u.image.map SpillImage.acc).getD acc, arrived := [], sat := (u.image.map SpillImage.sat).getD 0
    spilled := false, staged := [], bank := s.bindBank t u, redo := 0, epochHeld := false, why := 0 }

end Sys2Proof.Machine
end

