-- ==== Sys2Proof/Machine/KvPages.lean ====
section
/-! DEFINITION. The pools, records and page lists of the key-value cache (R226, R229 to R231, R236, R237), pre-emption (R414), and
what an attempt does that meets a lost block (R429). -/
namespace Sys2Proof.Machine
open Sys2Proof

/-! Fields of R226 and R227. -/

def TaskRec.aM (t : TaskRec) : Nat := t.f 0x20 4
def TaskRec.aS (t : TaskRec) : Nat := t.f 0x24 4
def TaskRec.aD (t : TaskRec) : Nat := t.f 0x28 2
def TaskRec.aDV (t : TaskRec) : Nat := t.f 0x2A 2
def TaskRec.aHq (t : TaskRec) : Nat := t.f 0x2C 2
def TaskRec.aG (t : TaskRec) : Nat := t.f 0x2E 2
def TaskRec.aHkv (t : TaskRec) : Nat := t.aHq / max 1 t.aG
def TaskRec.aBatch (t : TaskRec) : Nat := t.f 0x38 4
def TaskRec.aOp (t : TaskRec) : Nat := t.ctrl 1 0
def TaskRec.aNew (t : TaskRec) : Nat := if t.aOp = 2 then t.f 0x6C 4 else 0

/-! Pools and records (R229 to R231). -/

/-- A key-value pool header. -/
structure KvPool where
  addr : Nat
  kBase : Nat
  vBase : Nat
  state : Nat
  pages : Nat
  pitchK : Nat
  pitchV : Nat
  convK : W32
  convV : W32
  tK : F32
  tV : F32
deriving DecidableEq, Repr

/-- The pool whose header lies at `a`. -/
def State.poolAt (s : State) (a : Nat) : KvPool :=
  let w := fun o => BitVec.ofNat 32 (s.devNat (a + o) 4)
  { addr := a, kBase := s.devNat a 8, vBase := s.devNat (a + 8) 8, state := s.devNat (a + 0x10) 8, pages := s.devNat (a + 0x18) 4
    pitchK := s.devNat (a + 0x1C) 2, pitchV := s.devNat (a + 0x1E) 2, convK := w 0x20, convV := w 0x24, tK := w 0x28, tV := w 0x2C }

/-- The pool that a task names. -/
def State.kvPool (s : State) (t : TaskRec) : KvPool := s.poolAt (t.f 0x78 8)

/-- Token rows per page. -/
def KvPool.tpp (x : KvPool) : Nat := 16384 / max 1 (max x.pitchK x.pitchV)

/-- The address of a sequence record. -/
def TaskRec.recAt (t : TaskRec) (b : Nat) : Nat := t.f 0x80 8 + 64 * b
def State.recLen (s : State) (r : Nat) : Nat := s.devNat r 4
def State.recPin (s : State) (r : Nat) : Bool := (s.devByte (r + 4)).getLsbD 0
def State.recCap (s : State) (r : Nat) : Nat := s.devNat (r + 0x10) 4
def State.recRecompute (s : State) (r : Nat) : Nat := s.devNat (r + 0x18) 8

/-- The address of entry e of head g in a record's page list. -/
def State.entryAt (s : State) (r g e : Nat) : Nat := s.devNat (r + 8) 8 + 4 * (g * s.recCap r + e)

/-- An entry is PRESENT. -/
def State.present (s : State) (entry : Nat) : Bool := (s.devByte (entry + 3)).getLsbD 7
def State.entryPage (s : State) (entry : Nat) : Nat := s.devNat entry 3

/-- The address of a token's row of head g: its key, or its value. -/
def State.kvRow (s : State) (x : KvPool) (r g j : Nat) (val : Bool) : Nat :=
  let p := s.entryPage (s.entryAt r g (j / max 1 x.tpp))
  (if val then x.vBase else x.kBase) + p * 16384 + j % max 1 x.tpp * (if val then x.pitchV else x.pitchK)

/-! Pipelines (R224, R246). -/

/-- Pipeline r of die d is in service. -/
def State.pipeUp (s : State) (d r : Nat) : Bool := decide (r < 8) && s.rd (Addr.atp d r 0) 3 0 == 0

/-- The die has a pipeline in service. -/
def State.diePipes (s : State) (d : Nat) : Bool := (List.range 8).any (s.pipeUp d)

/-- A running attention task with units left ends when no die of it has a pipeline in service (R224). -/
def State.endPipeless (s : State) : State :=
  (s.tasks.filter fun t => t.f 0 1 == 1 && t.phase == .running && !(s.taskDies t).any s.diePipes &&
    t.units.any fun u => u.phase != .done && u.phase != .skipped).foldl (fun (s : State) t => s.endTask t.tid 0x21) s

/-! Pages (R230, R236, R237). -/

/-- OWNER and LAST_USE of a page. -/
def State.pageOwnerOf (s : State) (x : KvPool) (p : Nat) : Nat := s.devNat (x.state + 16 * p) 8
def State.lastUse (s : State) (x : KvPool) (p : Nat) : Nat := s.devNat (x.state + 16 * p + 8) 4

/-- Firmware's writes to a pool's structures. -/
def State.fwWrite (s : State) (a n v : Nat) : State := s.devWriteRun noDie none a (leBytes n v)

/-- The page that an entry holds is pinned (R237). An entry that no record is known to hold counts as pinned. -/
def State.kvPinned (s : State) (entry : Nat) : Bool :=
  match s.kvRecs.find? fun x => x.entry == entry with
  | none => true
  | some x => s.recPin x.record || s.recRecompute x.record == 0 || s.tasks.any fun t => t.phase != .done && t.pins.contains x.record

/-- Dropping the page that an entry holds: PRESENT is cleared (R236). -/
def State.dropEntry (s : State) (entry : Nat) : State :=
  let s := s.fwWrite (entry + 3) 1 ((s.devByte (entry + 3)).toNat % 128)
  { s with kvRecs := s.kvRecs.filter fun y => y.entry != entry }

/-- Pre-empting a task (R414): everything that it has open is discarded and it is ready again. -/
def State.preempt (s : State) (t : TaskRec) : State :=
  let s := (s.bump (Addr.sch t.p 0x100) 1).updTask t.tid fun t => { t with
    phase := .ready, units := [], slices := [], pins := [], halts := [], mark := 0, words := [], vfails := [] }
  { s with kvWait := s.kvWait.filter fun k => k != t.tid }

/-! Lost blocks (R429). -/

/-- A page given up: it is free again. -/
def State.unownPage (s : State) (p : Nat) (x : KvPool) (page : Nat) : State :=
  let s := s.fwWrite (x.state + 16 * page) 8 0
  let s := s.fwWrite (x.addr + 0x30) 4 (s.devNat (x.addr + 0x30) 4 + 1)
  { s with kvFreed := if s.kvFreed.contains p then s.kvFreed else p :: s.kvFreed }

/-- The page-list entry whose key or value page holds bytes of a block, where its record has a recompute graph (R429). -/
def State.recoverable (s : State) (blk : Nat) : Option KvHold :=
  s.kvRecs.find? fun h =>
    let x := s.poolAt h.pool
    let page := s.entryPage h.entry
    let holds := fun base => decide (base + page * 16384 < blk * 4096 + 4096) && decide (blk * 4096 < base + page * 16384 + 16384)
    (holds x.kBase || holds x.vBase) && s.pageOwnerOf x page == h.entry && s.recRecompute h.record != 0

/-- An attempt meets a lost block (R429): the page that holds it is dropped for recomputation, whatever its pins, and the task
is pre-empted and admitted again; else the task ends. The dropped page is free until the recompute graph takes one. All of it waits for
the end of a quiesce of the block's pseudo-channels (R368, R436). -/
def State.lostInput (s : State) (t : TaskRec) (blk : Nat) : State :=
  if s.blockQuiesced blk then s
  else
  match s.recoverable blk with
  | some h =>
    let x := s.poolAt h.pool
    let page := s.entryPage h.entry
    let s := ((s.dropEntry h.entry).bump (Addr.kv t.p 0x10) 1).unownPage t.p x page
    (s.preempt t).updTask t.tid fun t => { t with phase := .fresh }
  | none => (s.bump (Addr.ras t.p 0x38) 1).endTask t.tid 0x22

end Sys2Proof.Machine
end

