-- ==== Sys2Proof/Machine/RowRun.lean ====
section
/-! DEFINITION. Running a chain over the elements of one row, and storing what leaves it (R157 to R161, R164, R166,
R170, R171, R283, R294, R295): shared by drains, apply passes and vector programs. -/
namespace Sys2Proof.Machine
open Sys2Proof

/-- What running a chain on a row gives: the registers of each output column, what each lane collected in the order of
its column, the values that STO writes as (argument, column, value), the DROP draws as (stream, element index), and the
bad codes that argument reads met. -/
structure RowRun where
  outs : List (Nat × List F32) := []
  lanes : List ChainAcc := []
  stos : List (Nat × Nat × F32) := []
  drops : List (Nat × Nat) := []
  bad : Nat := 0
deriving DecidableEq, Repr, Inhabited

/-- Where a row lies: the die and bank that evaluate it, the batch entry and row at which arguments are read, the stored
row number that element indices count from (R294), and the width of its columns before XMUL. -/
structure RowPos where
  die : Nat
  bank : Nat
  b : Nat
  m : Nat
  erow : Nat
  w : Nat
deriving DecidableEq, Repr, Inhabited

/-- The streams that a list of instructions draws from by DROP. -/
def dropStreams (is : List Inst) : List Nat := ((is.filter fun i => i.op == 0x11).map fun i => i.aux % 16).eraseDups

/-- What one column's instructions gave: its column, its output column, the registers at the end, and what the runs before
and after XMUL collected; `part` is the partner's run. -/
structure ElemRun where
  col : Nat
  out : Nat
  regs : List F32
  pre : ChainAcc
  part : ChainAcc := {}
  post : ChainAcc := {}
deriving DecidableEq, Repr, Inhabited

/-- A lane's counts with the conversion of its entry. -/
def laneCnt (a : ChainAcc) (c : Cnt) : ChainAcc := { a with cnt := c.add a.cnt }

/-- The STO values that a run collected at a column. -/
def stosAt (a : ChainAcc) (col : Nat) : List (Nat × Nat × F32) := a.stos.map fun x => (x.1, col, x.2)

/-- The output column of a gate element (R170). -/
def gateCol (c : Nat) : Nat := c / 128 * 64 + c % 128

/-- Running instructions on a row whose column `cols[i]` starts with the registers and counts `starts[i]`. With an XMUL,
columns come in groups of 64 gate columns and their 64 partners. -/
def State.runRow (s : State) (t : TaskRec) (args : List ChainArg) (pr : ChainProg) (is : List Inst) (q : RowPos)
    (stats : List F32) (cols : List Nat) (starts : List (List F32 × Cnt)) : RowRun :=
  let env := fun (c w : Nat) => s.chainEnv q.die q.bank t args stats q.b q.m c (q.erow * w + c)
  let st := fun i => starts.getD i ([], {})
  let before := is.takeWhile fun i => i.op != 0x18
  let after := is.dropWhile fun i => i.op != 0x18
  let draws := fun (is : List Inst) (cs : List Nat) (w : Nat) =>
    (dropStreams is).flatMap fun d => cs.map fun c => (d, q.erow * w + c)
  let bads := fun (is : List Inst) (cs : List Nat) => (cs.map fun c => s.argBad q.die args is q.b q.m c).foldl (· + ·) 0
  if after.isEmpty then
    let rs := (List.range cols.length).map fun i =>
      let c := cols.getD i 0
      let r := chainOne (env c q.w) pr is (st i).1
      ({ col := c, out := c, regs := r.1, pre := laneCnt r.2 (st i).2 } : ElemRun)
    { outs := rs.map fun r => (r.out, r.regs), lanes := rs.map ElemRun.pre, stos := rs.flatMap fun r => stosAt r.pre r.col
      drops := draws is cols q.w, bad := bads is cols }
  else
    let w2 := q.w / 2
    let rs := ((List.range cols.length).filter fun i => cols.getD i 0 % 128 < 64).map fun i =>
      let c := cols.getD i 0
      let r := chainGlu (env c q.w) (env (c + 64) q.w) (env (gateCol c) w2) pr is (st i).1 (st (i + 64)).1
      ({ col := c, out := gateCol c, regs := r.1, pre := laneCnt r.2.1 (st i).2
         part := laneCnt r.2.2.1 (st (i + 64)).2, post := r.2.2.2 } : ElemRun)
    { outs := rs.map fun r => (r.out, r.regs)
      lanes := (List.range (ceilDiv rs.length 64)).flatMap fun g =>
        let grp := (rs.drop (64 * g)).take 64
        grp.map (fun r => r.pre.add r.post) ++ grp.map ElemRun.part
      stos := rs.flatMap fun r => stosAt r.pre r.col ++ stosAt r.part (r.col + 64) ++ stosAt r.post r.out
      drops := draws before cols q.w ++ draws after (rs.map ElemRun.out) w2
      bad := bads before cols + bads (after.drop 1) (rs.map ElemRun.out) +
        (after.take 1).foldl (fun n x => rs.foldl (fun n r =>
          n + s.srcBad q.die args x.sa q.b q.m r.col + s.srcBad q.die args x.sb q.b q.m (r.col + 64)) n) 0 }

/-- What leaves a row for the store path: bytes, the conversion counts, and the elements that drew under SR. -/
structure RowStore where
  bytes : List (Nat × Byte) := []
  cnt : Cnt := {}
  srs : List Nat := []
deriving DecidableEq, Repr, Inhabited

/-- Converting a run of output columns and placing their codes and scale bytes (R41, R45, R55 to R61, R161). The run
begins at a block boundary. -/
def State.storeRow (s : State) (t : TaskRec) (die : Nat) (x : Tensor) (c : Conv) (e r erow w : Nat) (xs : List (Nat × Src)) :
    RowStore :=
  let cols := xs.map Prod.fst
  let eOf := fun i => erow * w + cols.getD i 0
  let q := convRow c x.t (s.tab die c.fmt) [] (fun i => s.srDraw t c.stream 1 (eOf i)) (xs.map Prod.snd)
  let codes := s.putCodes x e r ((List.range xs.length).map fun i => (cols.getD i 0, q.1.getD i 0))
  let scales := if c.smode.blocked then
      (List.range q.2.1.length).map fun j => (x.scaleAddr e r (cols.headD 0 + j * c.smode.block), BitVec.ofNat 8 (q.2.1.getD j 0))
    else []
  { bytes := codes ++ scales, cnt := q.2.2, srs := if c.draws .fp32 [] [] then (List.range xs.length).map eOf else [] }

/-- The value that leaves the chain's v0 (R161), or a drained value without a chain (R67). -/
def outSrc (pairMode : Bool) (c : Conv) (regs : List F32) : Src :=
  if pairMode && c.fmt == .fp32pair then
    let p := fastTwoSum (regs.getD 0 f32Zero) (regs.getD 1 f32Zero)
    .pair ⟨p.1, p.2⟩
  else .f32 (regs.getD 0 f32Zero)

/-- One STO write: an argument's elements of a row, the last value of each column standing (R157, R159, R164). -/
def State.stoRow (s : State) (t : TaskRec) (die : Nat) (args : List ChainArg) (arg b r erow w : Nat)
    (vals : List (Nat × F32)) : RowStore :=
  let a := args.getD arg default
  let c := a.cv.getD default
  let x := argTensor a 1 1 1
  let cols := nubList (vals.map Prod.fst)
  let last := fun col => ((vals.reverse.find? fun v => v.1 == col).map Prod.snd).getD f32Zero
  let q := convRow c a.t (s.tab die c.fmt) [] (fun i => s.srDraw t c.stream (8 + arg) (erow * w + cols.getD i 0))
    (cols.map fun col => .f32 (last col))
  { bytes := s.putCodes x b r ((List.range cols.length).map fun i => (cols.getD i 0, q.1.getD i 0))
    cnt := q.2.2, srs := if c.draws .fp32 [] [] then cols.map fun col => erow * w + col else [] }

/-- The STO writes of a row, one per argument that it writes. Columns below `w` count with the width `w`. -/
def State.stoRows (s : State) (t : TaskRec) (die : Nat) (args : List ChainArg) (b r erow : Nat) (wOf : Nat → Nat)
    (stos : List (Nat × Nat × F32)) : List (Nat × RowStore) :=
  (nubList (stos.map Prod.fst)).map fun a =>
    (a, s.stoRow t die args a b r erow (wOf a) ((stos.filter fun x => x.1 == a).map Prod.snd))

/-- The width that an argument's STO elements count from: half of the row where its STO stands after XMUL (R170,
R294). -/
def stoWidth (is : List Inst) (w a : Nat) : Nat :=
  let after := is.dropWhile fun i => i.op != 0x18
  if after.any fun i => i.op == 0x21 && i.aux == a then w / 2 else w

/-- Counter values that a list of (stream, element) draws under one use evaluates (R295). -/
def drawCount (ds : List (Nat × Nat)) : Nat := ((ds.map fun d => (d.1, d.2 / 4)).eraseDups).length

end Sys2Proof.Machine
end

