-- ==== Sys2Proof/WellFormed.lean ====
section
/-! DEFINITION. The commands that can be given to the part: every unit, partition, ring, die, engine, port, page or line that
a command names is one that the module has. -/
namespace Sys2Proof

/-- A PCIe function: PF0, or one of up to eight VFs (R504). -/
def isFn (fn : Nat) : Bool := fn ≤ 8

/-- A partition (R3 of the terms: at most 8). -/
def isPart (p : Nat) : Bool := p < 8

/-- A ring of a partition (R392). -/
def isRing (r : Nat) : Bool := r < 16

/-- A compute die. -/
def isDie (d : Nat) : Bool := d < 8

/-- An MXE of a compute die, the substitute among them. -/
def isMxe (k : Nat) : Bool := k < 17

/-- A VXE of a compute die. -/
def isVxe (k : Nat) : Bool := k < 16

/-- A slot of the cyclic schedule table (R401). -/
def isSlot (i : Nat) : Bool := i < 64

/-- A page of the device virtual range (R309). -/
def isPage (p : Nat) : Bool := p < 4194304

/-- A pseudo-channel of the HBM (R346). -/
def isPc (pc : Nat) : Bool := pc < 512

/-- A link port (R517). -/
def isPort (i : Nat) : Bool := i < 24

/-- A control core (R431). -/
def isCore (c : Nat) : Bool := c < 8

/-- An offset of BAR0. -/
def isBar0 (off : Nat) : Bool := off < 0x4000000

/-- The readings of twenty dies and eight stacks. -/
def isTemps (dies hbms : List Nat) : Bool := dies.length == 20 && hbms.length == 8

/-- Waits of dies. -/
def areWaits (ws : List StallWait) : Bool := ws.all fun w => isDie w.d

/-- A line of a pseudo-channel (R345). -/
def isLine (line : Nat) : Bool := line < 6291456

/-- A fault lies within the array and a chunk. -/
def ArrayFault.placed : ArrayFault → Bool
  | .cell r c _ => decide (r < 128 ∧ c < 128)
  | .checkRow c _ => decide (c < 128)
  | .checkCol r _ => decide (r < 128)
  | .loadSum _ k _ => decide (k < 32)
  | .duplicate r c => decide (r < 128 ∧ c < 128)
  | .accWord r c => decide (r < 128 ∧ c < 128)

/-- What went wrong names places of the arrays. -/
def RsuEnv.placed (env : RsuEnv) : Bool :=
  match env.fault with
  | some (.arrayCheck _ fs) => fs.all ArrayFault.placed
  | some (.parity row) => decide (row < 128)
  | some (.table row) => decide (row < 128)
  | none => true

/-- A word of a slot lies within the array. -/
def SlotRead.placed (r : SlotRead) : Bool :=
  match r.bad with
  | some x => decide (x.1 < 128 ∧ x.2 < 128)
  | none => true

/-- Every index that a command names exists on the module. -/
def Instr.wellFormed (i : Instr) : Bool :=
  match i with
  | .registerWrite fn off _ _ => isFn fn && isBar0 off
  | .badRegisterAccess fn off _ _ => isFn fn && isBar0 off
  | .snapTake fn _ => isFn fn
  | .memRtSnapTake fn => isFn fn
  | .rasSbSnapTake fn => isFn fn
  | .rasSnapAllTake fn => isFn fn
  | .frameTick env => isTemps env.dieTemps env.stackTemps && areWaits env.waits && env.cqFull.all fun x => isPart x.1
  | .idlePoll _ => true
  | .ringReadComplete p r _ => isPart p && isRing r
  | .graphAdmit p r _ _ => isPart p && isRing r
  | .backlogAdmit p _ => isPart p
  | .taskAdmit _ _ => true
  | .taskReady _ => true
  | .depFailed _ _ => true
  | .unitIssue d k waits => isDie d && isMxe k && areWaits waits
  | .virtualTimeUpdate p => isPart p
  | .sliceStart _ d _ _ _ => isDie d
  | .sliceHalt _ d reads => isDie d && reads.all fun r => r.2.placed
  | .rtSlotHaltRaise i => isSlot i
  | .unitHaltAtBoundary _ _ read => read.placed
  | .rtSlotBegin i => isSlot i
  | .rtWindowEndHalt i => isSlot i
  | .taskComplete _ _ => true
  | .completionEntryWrite p r => isPart p && isRing r
  | .msixModerationExpire p r => isPart p && isRing r
  | .ringEnable fn p r _ _ => isFn fn && isPart p && isRing r
  | .ringDisable fn p r _ => isFn fn && isPart p && isRing r
  | .partSave fn p _ => isFn fn && isPart p
  | .saveDone p _ => isPart p
  | .partRestore fn p _ _ => isFn fn && isPart p
  | .restoreDone p => isPart p
  | .partStart fn p _ => isFn fn && isPart p
  | .partReset fn p _ => isFn fn && isPart p
  | .resetDone p => isPart p
  | .preemptTask _ => true
  | .product _ => true
  | .tileIssue _ _ k => isMxe k
  | .operandBlockArrive _ _ _ _ => true
  | .chunkComplete _ _ env => isVxe env.vxe && env.faults.all ArrayFault.placed
  | .scorebookMirrorCopy => true
  | .engineHang _ _ _ => true
  | .tileReexecute _ _ k => isMxe k
  | .accumSpill _ _ read => read.placed
  | .accumReload _ _ => true
  | .tileDrain _ _ env => isVxe env.vxe && env.slot.placed
  | .tileStoreComplete _ _ => true
  | .escalatedRerun _ _ k => isMxe k
  | .splitkReduce _ _ env => isVxe env.vxe && env.slot.placed
  | .mxeRetire d k _ => isDie d && isMxe k
  | .writeAtCheckpoint _ => true
  | .applyPass _ _ _ env => isVxe env.vxe
  | .applyRepeat _ _ _ env => isVxe env.vxe
  | .vectorProgram _ env => isVxe env.vxe
  | .convert _ => true
  | .codebookLoad _ => true
  | .ftLoad _ => true
  | .ftBankWrite _ => true
  | .ftBankSwap _ => true
  | .seedLoad _ => true
  | .rngFill _ => true
  | .reuseGate _ vxe => isVxe vxe
  | .finiteCheck _ vxe => isVxe vxe
  | .attend _ => true
  | .attendPaged _ => true
  | .appendAttend _ => true
  | .kvAllocRetry _ => true
  | .kvRelease _ => true
  | .kvDeadlockBreak p => isPart p
  | .attentionKeyBlock _ _ _ env => env.placed
  | .attentionUnitFinal _ _ env => env.placed
  | .map _ => true
  | .unmap _ => true
  | .hint _ => true
  | .migrationStart page tier die => isPage page && isDie die && decide (1 ≤ tier) && decide (tier ≤ 3)
  | .migrationPassEnd _ _ _ => true
  | .sourceFrameReturn _ => true
  | .eviction page => isPage page
  | .promotion page die => isPage page && isDie die
  | .narrowing _ => true
  | .hpoolBaseWrite fn p _ => isFn fn && isPart p
  | .hpoolCountWrite fn p _ _ => isFn fn && isPart p
  | .shrinkDone p => isPart p
  | .bar2Read fn off len _ => isFn fn && decide (off + len ≤ pow2 36) && decide (len ≠ 0)
  | .bar2Write fn off data => isFn fn && decide (off + data.length ≤ pow2 36) && !data.isEmpty
  | .hbmRequest pc arrivals => isPc pc && arrivals.all fun q => isLine q.line
  | .narrowPathRequest p _ sectors _ _ => isPart p && decide (sectors ≤ 128)
  | .patrolScrub pc line _ => isPc pc && isLine line
  | .retrainStart pc _ => isPc pc
  | .retrainComplete pc _ _ => isPc pc
  | .repairGo fn => isFn fn
  | .repairStart pc row => isPc pc && decide (row < 1572864)
  | .repairComplete pc _ _ => isPc pc
  | .taskReexecute _ => true
  | .controlCoreFault c _ _ _ _ => isCore c
  | .coreRestartComplete c => isCore c
  | .linkTimeout _ => true
  | .start _ => true
  | .startMessage msg => isPart msg.p
  | .huddleArrival msg => isPart msg.p
  | .huddleRelease msg => isPart msg.p
  | .whistleCount msg => isPart msg.p
  | .whistleRelease _ => true
  | .startTimeout _ => true
  | .startWithdrawal msg => isPart msg.p
  | .timingMessage msg => isPort msg.port
  | .gcSlew _ => true
  | .fsyncEdge _ => true
  | .codecOpen _ => true
  | .codecDecode _ _ => true
  | .codecEncode _ => true
  | .codecKeyRequest _ => true
  | .codecRelease _ => true
  | .codecFlush _ => true
  | .codecResume _ => true
  | .codecClose _ => true
  | .codecPicture _ _ => true
  | .hostCallback _ => true
  | .callbackDone _ _ => true
  | .allReduce _ => true
  | .allGather _ => true
  | .reduceScatter _ => true
  | .collBlockReceive _ _ => true
  | .collBlockAck _ _ _ => true
  | .collRouteChange _ => true
  | .flitReceive i _ _ => isPort i
  | .nakReceive i _ => isPort i
  | .ackTimeout i => isPort i
  | .portTrained i _ _ => isPort i
  | .portRetrainTimer i => isPort i
  | .linkPortDown i => isPort i
  | .pwrenRise => true
  | .pwrenFall _ => true
  | .supplyLoss _ => true
  | .perstNAssert => true
  | .pcieLinkUp _ _ => true
  | .pcieLinkDown => true
  | .flrPf0 => true
  | .flrVf n => decide (1 ≤ n) && decide (n ≤ 8)
  | .d3hotEntry fn => isFn fn
  | .vfConfigChange n _ => decide (n ≤ 8)
  | .hostCompletionFault fault =>
    (fault.ring.all fun x => isPart x.1 && isRing x.2) && fault.blk.all fun b => decide (b < 0x10000000)
  | .prepareRemove fn => isFn fn
  | .smbusFallback => true
  | .pldmGetSensor n => decide (n ≤ 34)
  | .pldmSetPowerCap _ => true
  | .pldmGetFru => true
  | .spdmGetVersion => true
  | .spdmGetCapabilities => true
  | .spdmNegotiateAlgorithms => true
  | .spdmGetDigests => true
  | .spdmGetCertificate _ _ => true
  | .spdmChallenge _ => true
  | .spdmGetMeasurements _ _ => true
  | .spdmUnsupported => true
  | .stageFw fn _ => isFn fn
  | .stageForm fn _ => isFn fn
  | .formLoad fn _ => isFn fn
  | .formationLoad kat => kat.all fun x => isDie x.1
  | .lcTransition fn _ => isFn fn
  | .debugOpen fn _ => isFn fn
  | .debugClose fn => isFn fn
  | .debugTokenExpire => true
  | .secCmdComplete => true
  | .diagHold fn _ => isFn fn
  | .diagRun fn _ => isFn fn
  | .diagRunComplete _ => true
  | .diagAbort => true
  | .hbmTgStart fn ch _ core => isFn fn && decide (ch < 256) && isCore core
  | .hbmTgStop fn ch _ => isFn fn && decide (ch < 256)
  | .hbmTgRunDone ch _ => decide (ch < 256)
  | .scorebookFlush _ => true
  | .flushComplete => true
  | .segmentEraseDone => true
  | .thermalCritical n _ => decide (n < 28)
  | .grantExhausted => true
  | .powerTrip _ => true
  | .thermNDeassert dies hbms => isTemps dies hbms
  | .coreRestartTimeout c => isCore c
  | .pcControllerFault pc => isPc pc
  | .callbackQueueRoom _ _ => true
  | .testHoldScrubDone => true
  | .supplyReturn => true

end Sys2Proof
end

