-- ==== Sys2Proof/Machine/Tiles.lean ====
section
/-! DEFINITION. The commands of products up to the sums of a tile (R72 to R148, R168): validation and division, the blocks that an
attempt reads, issue, loop order, chunks and spills. -/
namespace Sys2Proof.Machine
open Sys2Proof

/-! Division. -/

/-- PRODUCT (R123, R145): a ready product task is checked, and its tiles are formed. -/
def execProduct (tid : Nat) (s : State) : Host.Outcome State Fault Refusal :=
  match s.task tid with
  | none => .next s
  | some t =>
    if t.phase ≠ .ready ∨ t.f 0 1 ≠ 0 then .next s
    else if s.productOk t then
      .next (s.updTask tid fun t => { t with phase := .running, units := s.productUnits t, defers := t.defer })
    else .next (s.endTask tid 0x10)

/-! Bytes that an attempt reads (R355, R597). -/

/-- The blocks of a byte run. -/
def blocksOf (a len : Nat) : List Nat :=
  if len = 0 then [] else (List.range ((a + len - 1) / 4096 - a / 4096 + 1)).map fun i => a / 4096 + i

/-- The runs of bytes, as (address, length), of elements c0 to c1 of a stored row and of their scales. -/
def Tensor.spanRuns (x : Tensor) (e r c0 c1 : Nat) : List (Nat × Nat) :=
  if c1 ≤ c0 then []
  else
    let w := x.fmt.width
    let lo := c0 * w / 8
    (x.rowAddr e r + lo, (c1 * w + 7) / 8 - lo) ::
      (if x.smode.blocked then [(x.scaleAddr e r c0, x.scaleAddr e r (c1 - 1) + 1 - x.scaleAddr e r c0)] else [])

/-- The blocks that they lie in. -/
def runBlocks (rs : List (Nat × Nat)) : List Nat := nubList (rs.flatMap fun r => blocksOf r.1 r.2)
def Tensor.spanBlocks (x : Tensor) (e r c0 c1 : Nat) : List Nat := (x.spanRuns e r c0 c1).flatMap fun r => blocksOf r.1 r.2

/-- The bytes that the tile DMA moves of a block for a list of runs: whole 64-byte words, run by run (R252). -/
def wordBytes (blk : Nat) (rs : List (Nat × Nat)) : Nat :=
  (rs.map fun r =>
    let a := max r.1 (4096 * blk)
    let b := min (r.1 + r.2) (4096 * blk + 4096)
    if a < b then 64 * ((b + 63) / 64 - a / 64) else 0).foldl (· + ·) 0

/-- The stored batch entries of a tile's operands (R142). -/
def TaskRec.tileEntries (t : TaskRec) (b : Nat) : List Nat := if t.complex = 0 then [b] else [2 * b, 2 * b + 1]

/-- The runs of A that a tile's rows use over positions k0 to k1. -/
def State.runsA (s : State) (t : TaskRec) (u : UnitRec) (k0 k1 : Nat) : List (Nat × Nat) :=
  let x := s.operandOf t u true
  let rows := t.tileRows u
  (t.tileEntries u.b).flatMap fun e =>
    if t.im2col then rows.flatMap fun m =>
      -- consecutive channels of one position are one run
      let cin := max 1 (s.gen t 0 4)
      (List.range ((k1 + cin - 1) / cin - k0 / cin)).flatMap fun j =>
        let lo := max k0 ((k0 / cin + j) * cin)
        let hi := min k1 ((k0 / cin + j + 1) * cin)
        match s.genAt t m lo with
        | some (q, c) => x.spanRuns e q c (c + (hi - lo))
        | none => []
    else if t.aTrans then (List.range (k1 - k0)).flatMap fun i => x.spanRuns e (k0 + i) (rows.headD 0) (rows.headD 0 + rows.length)
    else rows.flatMap fun m => x.spanRuns e m k0 k1

/-- The runs of B that a tile's columns use over positions k0 to k1. -/
def State.runsB (s : State) (t : TaskRec) (u : UnitRec) (k0 k1 : Nat) : List (Nat × Nat) :=
  let x := s.operandOf t u false
  let cols := t.tileCols u
  (t.tileEntries u.b).flatMap fun e =>
    if t.bAxis then (List.range (k1 - k0)).flatMap fun i => x.spanRuns e (k0 + i) (cols.headD 0) (cols.headD 0 + cols.length)
    else cols.flatMap fun c => x.spanRuns e c k0 k1

/-- The runs of C that a tile starts from. -/
def TaskRec.runsC (t : TaskRec) (u : UnitRec) : List (Nat × Nat) :=
  let cols := t.tileCols u
  if t.ctrl 11 11 = 1 ∧ u.part = 0 then (t.tileEntries u.b).flatMap fun e => (t.tileRows u).flatMap fun m =>
    t.tensorC.spanRuns e m (cols.headD 0) (cols.headD 0 + cols.length)
  else []

/-- The runs of an argument that elements (b, m, c0 to c1) read. -/
def argRuns (a : ChainArg) (b m c0 c1 : Nat) : List (Nat × Nat) :=
  let x := argTensor a 1 1 1
  match a.kind with
  | .col => x.spanRuns b 0 c0 c1
  | .row => x.spanRuns b 0 m (m + 1)
  | .elem => x.spanRuns b m c0 c1
  | _ => []

/-- The runs of every argument that a list of instructions reads on rows, over spans of columns. -/
def State.instRuns (s : State) (t : TaskRec) (table : Nat) (is : List Inst) (b : Nat) (rows : List Nat)
    (spans : List (Nat × Nat)) : List (Nat × Nat) :=
  let args := s.chainArgs (s.taskArg t) table
  let used := (List.range 8).filter fun i => is.any fun x => x.sa == 8 + i || x.sb == 8 + i || x.sc == 8 + i
  used.flatMap fun i => rows.flatMap fun m => spans.flatMap fun c => argRuns (args.getD i default) b m c.1 c.2

/-- The positions of chunk c of a tile that are not masked. -/
def TaskRec.chunkSpan (t : TaskRec) (u : UnitRec) (c : Nat) : Nat × Nat := (32 * c, min (32 * c + 32) (t.effK u.len))

/-- The runs of the prologue's arguments over positions k0 to k1. -/
def State.runsPro (s : State) (t : TaskRec) (u : UnitRec) (k0 k1 : Nat) : List (Nat × Nat) :=
  match t.pro with
  | some p => if t.shadowUse u true = 1 then [] else
      (t.tileEntries u.b).flatMap fun e => s.instRuns t t.argTable p.insts e (t.tileRows u) [(k0, k1)]
  | none => []

/-- The runs of the epilogue's arguments: before XMUL at the product's columns, after it at the output's (R164). -/
def State.runsEpi (s : State) (t : TaskRec) (u : UnitRec) : List (Nat × Nat) :=
  match t.epi with
  | some p => if u.part ≠ 0 then [] else
      let n := (t.tileCols u).length
      let n0 := u.ct * 128
      let before := p.insts.takeWhile fun x => x.op != 0x18
      let rest := p.insts.dropWhile fun x => x.op != 0x18
      s.instRuns t t.argTable (before ++ rest.take 1) u.b (t.tileRows u) [(n0, n0 + n)] ++
        s.instRuns t t.argTable (rest.drop 1) u.b (t.tileRows u) [(n0 / 2, n0 / 2 + n / 2)]
  | none => []

/-- Every block that an attempt of a tile must have checked before its store. -/
def State.needed (s : State) (t : TaskRec) (u : UnitRec) : List Nat :=
  let k0 := 32 * u.start
  let k1 := min (32 * u.last) (t.effK u.len)
  runBlocks (s.runsA t u k0 k1 ++ s.runsB t u k0 k1 ++ t.runsC u ++ s.runsPro t u k0 k1 ++ s.runsEpi t u)

/-- The blocks that the next chunk takes, with those of C before the first. -/
def State.chunkNeeds (s : State) (t : TaskRec) (u : UnitRec) : List Nat :=
  let k := t.chunkSpan u u.next
  runBlocks (s.runsA t u k.1 k.2 ++ s.runsB t u k.1 k.2 ++ s.runsPro t u k.1 k.2 ++ (if u.next = u.first then t.runsC u else []))

/-- Every block of the attempt has passed its check (R355). -/
def State.allArrived (s : State) (t : TaskRec) (u : UnitRec) : Bool := (s.needed t u).all fun b => u.arrived.contains b

/-- KEEP or a restore takes the page into the tile store, and has not done so yet (R274, R412). -/
def State.movesIn (s : State) (page : Nat) : Bool :=
  (s.moves.any fun m => m.page == page && m.tier == 1) || s.migs.any fun m => m.page == page && m.called

/-- A page can be read by the tile DMA where it lies (R24, R274, R324, R331, R412): it reads zero, or no tier is called for that it does
not lie in yet, and it lies in the tile store, in HBM, or in host for good. -/
def State.readable (s : State) (page : Nat) : Bool :=
  let e := s.rt page
  rtState e ≤ 1 || (!s.movesIn page && (rtTier e ≤ 2 || rtPlace e == 3))

/-- What the tile DMA of a die moves of a block for a list of runs (R252, R355): nothing of a ZERO page, which is read from no
frame; the whole block from HBM and from host, and at the first read of a tile-store block in a slice; else the 64-byte words that
the runs lie in (DEDUCED, log 129). -/
def State.dmaBytes (s : State) (seen : Bool) (blk : Nat) (runs : List (Nat × Nat)) : Nat :=
  let e := s.rt (blk / 64)
  if rtState e ≤ 1 then 0 else if rtTier e = 1 && seen then wordBytes blk runs else 4096

/-- What the reads of a die move one after the other in one slice, each a list of runs. -/
def State.dmaAll (s : State) (reads : List (List (Nat × Nat))) : Nat :=
  (reads.foldl (fun (x : Nat × List Nat) rs =>
    let bs := runBlocks rs
    (x.1 + (bs.map fun b => s.dmaBytes (x.2.contains b) b rs).foldl (· + ·) 0, nubList (x.2 ++ bs))) (0, [])).1

/-! Space in the tile store (R135, R174, R321). -/

/-- A die's tile store has room for bytes of a task's work. -/
def State.hasRoom (s : State) (p die bytes : Nat) : Bool :=
  ceilDiv (s.workBytes p die + bytes) 262144 - s.workFrames p die ≤ s.freeFrames p 1 die

/-! Issue. -/

/-- The accumulators that an attempt starts from (R86, R91, R130, R143): +0, or C for an accumulating product's part 0. In
Gauss form C enters k3 negated and k2, so that the drain's k1 − k3 and k1 + k2 start from it. C is read as it stands when the
attempt is issued: an escalated rerun of a product with D = C reads what the first attempt stored (DESIGN CHOICE, log 121:
R105 and R143 do not say which C a rerun starts from). -/
def State.startAcc (s : State) (t : TaskRec) (u : UnitRec) : List (List Pair) :=
  let rows := t.tileRows u
  let cols := t.tileCols u
  let zero := rows.flatMap fun _ => cols.map fun _ => (⟨f32Zero, f32Zero⟩ : Pair)
  let planes := if t.complex = 0 then 1 else t.complex + 1
  if t.ctrl 11 11 = 1 ∧ u.part = 0 then
    let c := fun e => rows.flatMap fun m => cols.map fun n =>
      let v := s.elemPair u.die t.tensorC e m n
      if t.pairMode then v else ⟨v.hi, f32Zero⟩
    if t.complex = 0 then [c u.b]
    else if t.complex = 1 then [c (2 * u.b), c (2 * u.b + 1)]
    else [zero, c (2 * u.b + 1), (c (2 * u.b)).map fun v => ⟨v.hi ^^^ 0x80000000#32, v.lo ^^^ 0x80000000#32⟩]
  else List.replicate planes zero

/-- The blocks that the attempt still needs which the unit's next issue would make or resume. -/
def State.issueNeeds (s : State) (t : TaskRec) (u : UnitRec) : List Nat :=
  if u.phase = .halted then (s.needed t u).filter fun b => !u.arrived.contains b
  else s.needed t (t.armed u ((t.sliceOn u.die).getD 0))

/-- A product's unit may start on an engine now: every page that it needs lies where the tile DMA reads it (R24), or a block
is lost, which ends the attempt before it begins (R332, R429). -/
def State.tileReady (s : State) (t : TaskRec) (u : UnitRec) (k : Nat) : Bool :=
  t.f 0 1 == 0 && t.phase == .running && s.serving t.p && (t.sliceOn u.die).isSome && t.unhalted u.die &&
    s.windowOk t u.die && s.mxeActive u.die k && s.slotsUsed u.die k + t.tileSlots ≤ 15 &&
    (let bs := s.issueNeeds t u
     (bs.any fun b => s.lost b) || bs.all fun b => s.readable (b / 64))

/-! Loop order (R126, R127). -/

/-- Bytes of one chunk of A as the load path stages it: 128 rows of 32 elements with their block scales. -/
def TaskRec.chunkBytesA (t : TaskRec) : Nat :=
  let f := t.usedForm 0x3C
  128 * (4 * f.1.width) + (if f.2.blocked then 128 * (32 / f.2.block) else 0)

/-- The column tiles of a row block in a die's share. -/
def TaskRec.dieCols (t : TaskRec) (die : Nat) : Nat := ((t.units.filter fun v => v.die == die && v.part == 0).map UnitRec.ct).eraseDups.length

/-- The order is ROW_K_PANEL on a die: by LOOP, or under AUTO where its share holds more than one column tile. -/
def TaskRec.panelled (t : TaskRec) (u : UnitRec) : Bool :=
  t.ctrl 1 0 == 2 || (t.ctrl 1 0 == 0 && decide (1 < t.dieCols u.die))

/-- G and KP of R127, 1 and the whole tile under ROW_K_INNER. Under AUTO the sequencer's choice of G is R127's too (DESIGN
CHOICE, log 122: R126 leaves it to the sequencer). -/
def TaskRec.group (t : TaskRec) (u : UnitRec) : Nat :=
  if t.panelled u then (if t.ctrl 31 24 = 0 then max 1 (15 / t.tileSlots) else t.ctrl 31 24) else 1
def TaskRec.panel (t : TaskRec) (u : UnitRec) : Nat :=
  if t.panelled u then (if t.ctrl 39 32 = 0 then max 1 (32768 / max 1 t.chunkBytesA) else t.ctrl 39 32) else max 1 (u.last - u.first)

/-- Where a tile's next chunk stands in the loop order of its row block. -/
def TaskRec.loopKey (t : TaskRec) (u : UnitRec) : Nat × Nat × Nat :=
  (u.ct / t.group u, (u.next - u.first) / t.panel u, u.ct)

def keyLe (a b : Nat × Nat × Nat) : Bool :=
  a.1 < b.1 || (a.1 == b.1 && (a.2.1 < b.2.1 || (a.2.1 == b.2.1 && a.2.2 ≤ b.2.2)))

/-- Two units belong to one part of one row block. -/
def sameRow (u v : UnitRec) : Bool := v.b == u.b && v.rb == u.rb && v.part == u.part && v.die == u.die

/-- The other tiles of the unit's row block and part on its engine that still have chunks. -/
def TaskRec.rowMates (t : TaskRec) (u : UnitRec) : List UnitRec :=
  t.units.filter fun v => v.uid != u.uid && sameRow u v &&
    !v.moved && !v.rerun && v.next < v.last && (v.phase == .todo || (v.eng == u.eng && (v.phase == .issued || v.phase == .halted)))

/-- The unit's chunk is the next one of its engine's order. -/
def TaskRec.chunkTurn (t : TaskRec) (u : UnitRec) : Bool :=
  u.moved || u.rerun || (t.rowMates u).all fun v => keyLe (t.loopKey u) (t.loopKey v)

/-- A unit that has chunks left in a slot, or whose sums are spilled, holds its row block open on an engine. -/
def UnitRec.isOpen (u : UnitRec) (die k : Nat) : Bool := u.die == die && u.eng == k && u.phase == .issued && decide (u.next < u.last)

/-- Opening the unit on engine k keeps the loop order's open tiles (R124, R126): no tile of another row block is open there, and
those of the unit's own row block that have chunks left belong to its group or to a later one. -/
def State.mayOpen (s : State) (t : TaskRec) (u : UnitRec) (k : Nat) : Bool :=
  (s.tasks.all fun x => x.units.all fun v => !v.isOpen u.die k || x.f 0 1 != 0 || (x.tid == t.tid && sameRow u v)) &&
    ((t.units.filter fun v => sameRow u v && !v.moved && !v.rerun && (v.phase == .todo || v.isOpen u.die k)).all fun v =>
      u.ct / t.group u ≤ v.ct / t.group u)

/-- The engines of a die that the task's other row blocks and parts have used. -/
def TaskRec.otherEngines (t : TaskRec) (u : UnitRec) : List Nat :=
  ((t.units.filter fun v => v.die == u.die && !sameRow u v && v.attempt != 0 && !v.moved).map UnitRec.eng).eraseDups

/-- Under split-K each part of each row block runs on its own engine (R130), while the die has an engine that the task has not
used. -/
def State.ownEngine (s : State) (t : TaskRec) (u : UnitRec) (k : Nat) : Bool :=
  let used := t.otherEngines u
  (t.plan.map Plan.p).getD 1 < 2 || !used.contains k || (s.activeMxes u.die).all fun j => used.contains j

/-- The first block that an attempt would need and that is marked lost. -/
def State.lostNeed (s : State) (t : TaskRec) (u : UnitRec) : Option Nat := (s.issueNeeds t u).find? fun b => s.lost b

/-- Engine k is the one on which a halted tile resumes: its own, or any other one when that has left service (R100). -/
def State.resumesOn (s : State) (u : UnitRec) (k : Nat) : Bool := u.eng == k || !s.mxeActive u.die u.eng

/-- Engine k is one on which the unit's row block may run (R124, R126, R130). -/
def State.engineOk (s : State) (t : TaskRec) (u : UnitRec) (k : Nat) : Bool :=
  if u.phase = .halted then s.resumesOn u k
  else ((s.rowEngine t u).getD k) == k && s.mayOpen t u k && s.ownEngine t u k

/-- Starting the unit's next attempt, from its image or from the accumulators of R86, unless a block that it needs is lost
(R332, R429). -/
def State.startTile (s : State) (t : TaskRec) (u : UnitRec) (k : Nat) : State :=
  match s.lostNeed t u with
  | some b => s.lostInput t b
  | none =>
    let L := (t.sliceOn u.die).getD 0
    s.issueOn t u k L (s.startAcc t { u with len := L })

/-- Resuming a tile that halted (R34, R35). -/
def State.resumeTile (s : State) (t : TaskRec) (u : UnitRec) (k : Nat) : State :=
  match s.lostNeed t u with
  | some b => s.lostInput t b
  | none => s.putUnit t.tid { u with phase := .issued, eng := k, base := u.next }

/-- Issuing a tile that has not been issued (R124, R133, R203, R204), or resuming one that halted (R34, R35). -/
def State.issueTile (s : State) (t : TaskRec) (u : UnitRec) (k : Nat) : State :=
  if !s.tileReady t u k || !s.engineOk t u k then s
  else if u.phase = .halted then s.resumeTile t u k
  else if u.phase ≠ .todo then s
  else if s.epochAhead t u.die then s.holdEpoch t u
  else s.startTile t u k

/-- TILE_ISSUE (R24, R124, R126, R130). -/
def execTileIssue (tid uid k : Nat) (s : State) : Host.Outcome State Fault Refusal :=
  if 17 ≤ k then .fault .noSuchUnit
  else
    match s.task tid with
    | none => .next s
    | some t =>
      match t.unit uid with
      | none => .next s
      | some u => .next (s.issueTile t u k)

/-- An engine with no open tile. -/
def State.mxeIdle (s : State) (d k : Nat) : Bool := s.mxeActive d k && s.slotsUsed d k == 0

/-- The engine on which a failed unit runs next (R96, R100): the same one, the lowest-numbered other active one that is
free, or any active one. -/
def State.redoOk (s : State) (u : UnitRec) (k : Nat) : Bool :=
  if u.redo = 1 ∧ s.mxeActive u.die u.eng then k == u.eng
  else if u.redo = 2 then
    k != u.movedFrom && ((List.range 17).find? fun j => j != u.movedFrom && s.mxeIdle u.die j) == some k
  else true

/-- The unit's failures on an engine end with its attempts there: an unmoved unit that goes to another engine has none (R96). -/
def UnitRec.onEngine (u : UnitRec) (k : Nat) : UnitRec := if u.eng = k ∨ u.moved then u else { u with fails := 0 }

/-- TILE_REEXECUTE (R96, R99, R119): from the spill image where the tile began from one. -/
def execTileReexecute (tid uid k : Nat) (s : State) : Host.Outcome State Fault Refusal :=
  if 17 ≤ k then .fault .noSuchUnit
  else
    match s.task tid with
    | none => .next s
    | some t =>
      match t.unit uid with
      | none => .next s
      | some u =>
        if u.phase = .failed ∧ s.tileReady t u k ∧ s.redoOk u k then .next (s.startTile t (u.onEngine k) k) else .next s

/-- ESCALATED_RERUN (R105): the tile runs again from its start, with its shadows. -/
def execEscalatedRerun (tid uid k : Nat) (s : State) : Host.Outcome State Fault Refusal :=
  if 17 ≤ k then .fault .noSuchUnit
  else
    match s.task tid with
    | none => .next s
    | some t =>
      match t.unit uid with
      | none => .next s
      | some u =>
        if u.phase = .escalate ∧ s.tileReady t u k then
          let s := if u.part = 0 then s.bump (Addr.mxe u.die k 0x50) 1 else s
          .next (s.startTile t { u with rerun := true, again := false } k)
        else .next s

/-! Chunks. -/

/-- Row m of batch entry b is discarded (R282). -/
def State.discards (s : State) (t : TaskRec) (b m : Nat) : Bool :=
  t.discard && (s.devByte (t.f 0x90 8 + b * (64 * ceilDiv t.gM 512) + m / 8)).getLsbD (m % 8)

/-- Counter values of load-path draws that the positions `es` evaluate first in this attempt: `r0` to `r1` are the stored
rows that the attempt reads and `lo` to `k0` the reduction positions it has converted already (R295). -/
def newGroups (k lo k0 r0 r1 : Nat) (es : List Nat) : Nat :=
  ((es.map fun e => e / 4).eraseDups.filter fun g => !([0, 1, 2, 3].any fun i =>
    let e := 4 * g + i
    r0 ≤ e / k && e / k < r1 && lo ≤ e % k && e % k < k0)).length

/-- What one chunk of a tile gives: the accumulators, the cell-chunks whose window dropped a bit, the conversions and
saturations counted, the prologue's costs by row and its table events, the counter values drawn, and what the array found. -/
structure ChunkOut where
  acc : List (List Pair)
  trunc : Nat
  cnt : Cnt
  costs : List RowCost
  ft : FtCnt
  draws : Nat
  found : Option (Nat × Nat × Nat)
deriving DecidableEq, Repr, Inhabited

/-- Counter values that the elements of stored entries `es` of an operand evaluate in a chunk (R294, R295). -/
def TaskRec.chunkGroups (t : TaskRec) (u : UnitRec) (isA : Bool) (k0 n : Nat) (es : List Nat) : Nat :=
  let ext := if isA then t.gM else t.gN
  let rows := if isA then t.tileRows u else t.tileCols u
  let r0 := rows.headD 0
  (es.map fun e => newGroups t.gK (32 * u.base) k0 (e * ext + r0) (e * ext + r0 + rows.length)
    (rows.flatMap fun r => (List.range n).map fun i => (e * ext + r) * t.gK + (k0 + i))).foldl (· + ·) 0

/-- The stored entries whose elements one side of the load path draws for: those that it converts, and the first plane's
for the sums of the Gauss form, which draw by its elements (R91, R294). -/
def State.drawEntries (s : State) (t : TaskRec) (u : UnitRec) (isA : Bool) : List Nat :=
  let draws := fun (c : Conv) (f : Fmt) => c.draws f (s.tab u.die f) (s.tab u.die c.fmt)
  let plain := ((t.loadConv u isA).map fun c =>
    draws c (if isA && t.pro.isSome then .fp32 else (s.operandOf t u isA).srcFmt)).getD false
  let sums := t.complex == 2 && draws (t.operandConv u isA) .fp32
  if plain ∧ (t.complex < 2 ∨ isA) then t.tileEntries u.b
  else if plain ∨ sums then [2 * u.b]
  else []

/-- A prologue runs in this attempt (R105, R168). -/
def TaskRec.prologueRuns (t : TaskRec) (u : UnitRec) : Bool := t.pro.isSome && t.shadowUse u true != 1

/-- Counter values that the load path of a chunk evaluates (R294, R295). -/
def State.chunkDraws (s : State) (t : TaskRec) (u : UnitRec) (k0 n : Nat) : Nat :=
  let of := fun isA => t.chunkGroups u isA k0 n (s.drawEntries t u isA)
  let drops := if t.prologueRuns u then (dropStreams ((t.pro.map ChainProg.insts).getD [])).length else 0
  of true + of false + drops * t.chunkGroups u true k0 n (t.tileEntries u.b)

/-- Bad codes that the prologue's argument reads count over rows of a chunk (R38). -/
def State.proBad (s : State) (t : TaskRec) (u : UnitRec) (rows : List Nat) (k0 n : Nat) : Nat :=
  if t.prologueRuns u then
    let is := (t.pro.map ChainProg.insts).getD []
    let args := s.chainArgs (s.taskArg t) t.argTable
    ((t.tileEntries u.b).flatMap fun e => rows.flatMap fun m => (List.range n).map fun i =>
      s.argBad u.die args is e m (k0 + i)).foldl (· + ·) 0
  else 0

/-- The conversions and bad codes of one side of a chunk, of the rows that a discard map keeps. -/
def OpSide.cnt (a : OpSide) : Cnt := (a.rows.foldl (fun c (o : OpRow) => c.add (o.cnt.add { bad := o.bad })) ({} : Cnt)).add a.pro.cnt

/-- One accumulator plane after a chunk, with the cell-chunks whose window dropped a bit. -/
def planeStep (pairMode : Bool) (as bs : List OpSide) (ps : List (Bool × Nat × Nat)) (acc : List Pair) : List Pair × Nat :=
  let cells := as.flatMap fun a => bs.map fun b =>
    cellChunk (ps.map fun p => (p.1, a.rows.getD p.2.1 default, b.rows.getD p.2.2 default))
  ((List.range cells.length).map fun i => accStep pairMode (acc.getD i default) (cells.getD i (.val false default, false)).1,
   (cells.filter fun c => c.2).length)

/-- Summing one chunk of a tile (R81 to R91, R115, R168), and checking it (R94, R95): without a fault every comparison of the
check agrees. -/
def State.sumChunk (s : State) (t : TaskRec) (u : UnitRec) (fs : List ArrayFault) : ChunkOut :=
  let k := t.chunkSpan u u.next
  let n := k.2 - k.1
  let rows := t.tileRows u
  let as := rows.map fun m => s.variantsA t u m k.1 n
  let bs := (t.tileCols u).map fun c => s.variantsB t u c k.1 n
  let kept := (rows.zip as).filter fun x => !s.discards t u.b x.1
  let cntA := kept.foldl (fun c x => c.add x.2.cnt) ({} : Cnt)
  let cntB := bs.foldl (fun c b => c.add b.cnt) ({} : Cnt)
  let ps := planePasses t.complex
  let outs := (List.range ps.length).map fun i => planeStep t.pairMode as bs (ps.getD i []) (u.acc.getD i [])
  { acc := outs.map Prod.fst, trunc := (outs.map Prod.snd).foldl (· + ·) 0
    cnt := (cntA.add cntB).add { bad := s.proBad t u (kept.map Prod.fst) k.1 n }
    costs := as.map fun a => { clocks := a.pro.slots / max 1 n, slots := a.pro.slots, sfu := a.pro.ft.slots }
    ft := as.foldl (fun c a => c.add a.pro.ft) {}, draws := s.chunkDraws t u k.1 n
    found := if fs.isEmpty then none else chunkFound fs ps as bs }

/-- Formats of both operands in this attempt, for the chunk's clocks (R73, R74, R88). -/
def TaskRec.attemptFmts (t : TaskRec) (u : UnitRec) : Fmt × Fmt := ((t.operandConv u true).fmt, (t.operandConv u false).fmt)

/-- The row at which a VXE met a parity error, or an uncorrectable table word, which is handled as one (R180, R187). -/
def laneError (parity ftEcc : Option Nat) : Option Nat := parity.orElse fun _ => ftEcc

/-- A chunk that the array completed: what it counts, and the sums, or the failed check (R93 to R96, R111, R404). -/
def State.endChunk (s : State) (t : TaskRec) (u : UnitRec) (env : ChunkEnv) : State :=
  let o := s.sumChunk t u env.faults
  let f := t.attemptFmts u
  let clocks := productChunkClocks f.1 f.2 t.complex
  let a := Addr.mxe u.die u.eng
  let s := ((((s.bump (a 0x20) clocks).bump (a 0x30) o.trunc).bump (a 0x48) env.corr).addLoad u.die o.cnt).addFt u.die o.ft
  let s := (s.bump (Addr.rng t.p 0x10) o.draws).vxeRows t u.again u.die env.vxe o.costs
  let s := s.chargeMxe t u.again (clocks + env.wait)
  match o.found with
  | some (kind, row, col) => (s.recordCheck t u kind row col).failTile t u
  | none =>
    s.putUnit t.tid { u with
      acc := o.acc, next := u.next + 1, sat := u.sat + o.cnt.sat
      phase := if u.next + 1 = u.last then .summed else .issued }

/-- A check that fails in an attempt which a foul has ended already counts and does no more (R436). -/
def State.lateCheck (s : State) (t : TaskRec) (u : UnitRec) (faults : List ArrayFault) : State :=
  match (s.sumChunk t u faults).found with
  | some (kind, row, col) => (s.recordCheck t u kind row col).bump (Addr.mxe u.die u.eng 0x38) 1
  | none => s

/-- CHUNK_COMPLETE (R82, R86, R94 to R96, R180, R187, R355, R404, R436): every block of the chunk has arrived. -/
def execChunkComplete (tid uid : Nat) (env : ChunkEnv) (s : State) : Host.Outcome State Fault Refusal :=
  if 16 ≤ env.vxe ∨ !(env.faults.all ArrayFault.placed) then .fault .noSuchUnit
  else
    match s.task tid with
    | none => .next s
    | some t =>
      match t.unit uid with
      | none => .next s
      | some u =>
        if u.phase = .failed ∧ u.why = 8 ∧ t.f 0 1 = 0 ∧ u.next < u.last then .next (s.lateCheck t u env.faults)
        else if u.phase ≠ .issued ∨ u.spilled ∨ t.f 0 1 ≠ 0 ∨ !(u.next < u.last) ∨ !t.chunkTurn u ∨
            !((s.chunkNeeds t u).all fun b => u.arrived.contains b) then .next s
        else
          let s := if t.prologueRuns u then s.bump (Addr.ft u.die 0x30) env.ftCorr else s
          match if t.prologueRuns u then laneError env.parity env.ftEcc else none with
          | some row => .next ((s.chargeMxe t u.again env.wait).failParity t u (s.rowVxe u.die env.vxe row) row)
          | none => .next (s.endChunk t u env)

/-- ENGINE_HANG (R426, R434): handled as a failed check, with MXE_CHK_LAST as it was; rows that the abandoned attempt will
still emit are on their way. A hang of an attention unit counts to its output engine. -/
def execEngineHang (tid uid late : Nat) (s : State) : Host.Outcome State Fault Refusal :=
  match s.task tid with
  | none => .next s
  | some t =>
    match t.unit uid with
    | none => .next s
    | some u =>
      if u.phase ≠ .issued ∨ 1 < t.f 0 1 then .next s
      else if t.f 0 1 = 1 then
        let k := s.rd (Addr.atp u.die u.eng 0) 15 8
        let s := (s.bump (Addr.ras t.p 0x30) 1).event 0x11 (unitOf 0 u.die k) t.p (s.rd 0x700000 23 16) t.seq
        let f : Flight := { die := u.die, what := 2, eng := u.eng, tag := 0, tid := tid, uid := uid, attempt := u.attempt, bytes := [] }
        .next ({ s with flights := s.flights ++ List.replicate late f }.failAttn t u (some k))
      else
        let s := (s.bump (Addr.ras t.p 0x30) 1).event 0x11 (unitOf 0 u.die u.eng) t.p (s.rd 0x700000 23 16) t.seq
        let f : Flight := { die := u.die, what := 0, eng := u.eng, tag := s.rd (Addr.mxe u.die u.eng 0) 47 32, tid := tid
                            uid := uid, attempt := u.attempt, bytes := [] }
        let s := { s with flights := s.flights ++ List.replicate late f }
        .next (s.failTile t u)

/-! Spills (R133 to R135). -/

/-- Bytes of the partial sums of one tile. -/
def TaskRec.tileBytes (t : TaskRec) : Nat := 65536 * t.tileSlots

/-- Reading the slot of a tile (R93): words corrected count; one that is uncorrectable fails the tile's check with KIND 4. -/
def State.readSlot (s : State) (t : TaskRec) (u : UnitRec) (r : SlotRead) (ok : State → State) : State :=
  let s := s.bump (Addr.mxe u.die u.eng 0x48) r.corr
  match r.bad with
  | some x => (s.recordCheck t u 4 x.1 x.2).failTile t u
  | none => ok s

/-- Writing an open tile's partial sums out, as a spill or at a halt: the exact bits (R134). The tile begins again from them if
its check fails later (R96), so their space stays taken until it drains (DESIGN CHOICE, log 124). -/
def State.spill (s : State) (t : TaskRec) (u : UnitRec) (phase : UPhase) (read : SlotRead) : State :=
  s.readSlot t u read fun s =>
    ((s.bump (Addr.seq u.die 0x18) 1).bump (Addr.seq u.die 0x30) t.tileBytes).putUnit t.tid
      { u with phase := phase, spilled := true, image := some ⟨u.next, u.acc, u.sat⟩, held := t.tileBytes, heldAt := u.die }

/-- Room for a tile's partial sums, beside the image that it has there already. -/
def State.spillRoom (s : State) (t : TaskRec) (u : UnitRec) : Bool := u.image.isSome || s.hasRoom t.p u.die t.tileBytes

/-- A further slot is needed on the unit's engine (R133): a tile of its group has no slot, and none is free. -/
def State.slotNeeded (s : State) (t : TaskRec) (u : UnitRec) : Bool :=
  decide (15 < s.slotsUsed u.die u.eng + t.tileSlots) &&
    (t.rowMates u).any fun v => (v.phase == .todo || v.spilled) && v.ct / t.group v == u.ct / t.group u

/-- ACCUM_SPILL (R133, R135): where a further slot is needed, the open tile whose next chunk lies furthest ahead, when the tile
store has room for it. -/
def execAccumSpill (tid uid : Nat) (read : SlotRead) (s : State) : Host.Outcome State Fault Refusal :=
  if !read.placed then .fault .noSuchUnit
  else
    match s.task tid with
    | none => .next s
    | some t =>
      match t.unit uid with
      | none => .next s
      | some u =>
        if u.phase = .issued ∧ !u.spilled ∧ t.f 0 1 = 0 ∧ s.slotNeeded t u ∧ s.spillRoom t u ∧
            ((t.rowMates u).all fun v => v.phase != .issued || v.spilled || keyLe (t.loopKey v) (t.loopKey u)) then
          .next (s.spill t u .issued read)
        else .next s

/-- ACCUM_RELOAD (R133). -/
def execAccumReload (tid uid : Nat) (s : State) : Host.Outcome State Fault Refusal :=
  match s.task tid with
  | none => .next s
  | some t =>
    match t.unit uid with
    | none => .next s
    | some u =>
      if u.phase = .issued ∧ u.spilled ∧ t.f 0 1 = 0 ∧ s.slotsUsed u.die u.eng + t.tileSlots ≤ 15 then
        .next (((s.bump (Addr.seq u.die 0x20) 1).bump (Addr.seq u.die 0x30) t.tileBytes).putUnit tid { u with spilled := false })
      else .next s

end Sys2Proof.Machine
end

