-- ==== Sys2Proof/Machine/Drains.lean ====
section
/-! DEFINITION. What follows the sums of a tile (R75, R86, R98 to R105, R131, R161, R166, R171 to R176, R433, R434): drains,
split-K, writes at the checking points, stores, escalation, apply passes and retirement. -/
namespace Sys2Proof.Machine
open Sys2Proof

/-! Drains. -/

/-- The factor of R86 in this attempt. -/
def State.drainScale (s : State) (t : TaskRec) (u : UnitRec) : Option F32 :=
  let side := fun isA =>
    if t.shadowUse u isA ≠ 2 ∧ (t.operandConv u isA).smode.perTensor then some (s.operandT t u isA) else none
  let a := side true
  let b := side false
  if a.isNone ∧ b.isNone then none else some (drainFactor (a.getD f32One) (b.getD f32One))

/-- The drained planes: the stored entry of each and its values, row by row (R86, R91). -/
def State.drained (s : State) (t : TaskRec) (u : UnitRec) (acc : List (List Pair)) : List (Nat × List Pair) :=
  let f := s.drainScale t u
  let pl := fun i => acc.getD i []
  let out := fun (l : List Pair) => l.map (drainAcc f)
  let comb := fun (minus : Bool) (j : Nat) => (List.range (pl 0).length).map fun i =>
    gaussPart minus ((pl 0).getD i default) ((pl j).getD i default)
  if t.complex = 0 then [(u.b, out (pl 0))]
  else if t.complex = 1 then [(2 * u.b, out (pl 0)), (2 * u.b + 1, out (pl 1))]
  else [(2 * u.b, out (comb true 2)), (2 * u.b + 1, out (comb false 1))]

/-- What one row of a plane gives at a drain or an apply pass: the row, the lanes, the stored row or the staged values,
its STO writes, its draws, and its bad codes. -/
structure RowOut where
  m : Nat
  lanes : List ChainAcc
  store : RowStore := {}
  staged : List F32 := []
  /-- Conversions of the staging. -/
  stageCnt : Cnt := {}
  stos : List (Nat × RowStore) := []
  drops : List (Nat × Nat) := []
  bad : Nat := 0
deriving DecidableEq, Repr, Inhabited

/-- The columns of the output that a run of product columns gives (R170). -/
def RowRun.sources (r : RowRun) (pairMode : Bool) (c : Conv) : List (Nat × Src) :=
  r.outs.map fun o => (o.1, outSrc pairMode c o.2)

/-- Staging v0 of one element (R171): the stage that ends the pre-part has rounded it already where its instruction writes v0;
where that writes another register, v0 takes the stage's format here (DESIGN CHOICE, log 125: R171 takes the stage to have
rounded v0). -/
def stageVal (tab : Fmt → List W32) (p : ChainProg) (v : List F32) : F32 × Cnt :=
  let x := v.getD 0 f32Zero
  let sp := stageSpec p
  if ((prePart p.insts).getLast?.map fun i => i.rs != 0 && i.rd != 0).getD false then stageRound tab sp.1 sp.2 x else (x, {})

/-- Draining one row: the epilogue, or its pre-part, and the store or the staging (R161, R166, R171). -/
def State.drainRow (s : State) (t : TaskRec) (u : UnitRec) (e m : Nat) (vals : List Pair) : RowOut :=
  let x := t.tensorD
  let c := (convOf (t.w 0x48)).getD default
  let cols := t.tileCols u
  let erow := e * t.gM + m
  match t.epi with
  | none =>
    let xs := (List.range cols.length).map fun i =>
      (cols.getD i 0, if t.pairMode && c.fmt == .fp32pair then Src.pair (vals.getD i default) else Src.f32 (vals.getD i default).hi)
    { m := m, lanes := [], store := s.storeRow t u.die x c e m erow t.outN xs }
  | some pr =>
    let args := s.chainArgs (s.taskArg t) t.argTable
    let is := if pr.defer then prePart pr.insts else pr.insts
    let q : RowPos := { die := u.die, bank := u.bank.getD 0, b := u.b, m := m, erow := erow, w := t.gN }
    let starts := vals.map fun v => chainEntry (s.tab u.die) pr t.pairMode v
    let r := s.runRow t args pr is q [] cols starts
    let stos := s.stoRows t u.die args u.b m erow (fun a => stoWidth is t.gN a) r.stos
    if pr.defer then
      let vs := r.outs.map fun o => stageVal (s.tab u.die) pr o.2
      { m := m, lanes := r.lanes, staged := vs.map Prod.fst, stageCnt := vs.foldl (fun k v => k.add v.2) {}
        stos := stos, drops := r.drops, bad := r.bad }
    else
      { m := m, lanes := r.lanes, store := s.storeRow t u.die x c e m erow t.outN (r.sources t.pairMode c)
        stos := stos, drops := r.drops, bad := r.bad }

/-- The conversions of a row that are counted: its chain, its store, its STO writes and its staging. -/
def RowOut.cnt (r : RowOut) : Cnt :=
  let a := r.lanes.foldl (fun c l => c.add l.cnt) ({} : Cnt)
  (((r.stos.foldl (fun c x => c.add x.2.cnt) a).add r.store.cnt).add r.stageCnt).add { bad := r.bad }

/-- The counter values that rows evaluate at a drain (R295). -/
def rowDraws (conv : Conv) (args : List ChainArg) (rs : List RowOut) : Nat :=
  drawCount (rs.flatMap fun r => r.store.srs.map fun e => (conv.stream, e)) +
    drawCount (rs.flatMap RowOut.drops) +
    ((List.range 8).map fun a => drawCount (rs.flatMap fun r => r.stos.flatMap fun x =>
      if x.1 == a then x.2.srs.map fun e => ((((args.getD a default).cv).map Conv.stream).getD 0, e) else [])).foldl (· + ·) 0

/-- The writes of a unit's rows on their way to the checking points: one drained or staged row, one STO write each
(R433). -/
def State.launch (s : State) (t : TaskRec) (u : UnitRec) (rows : List (List (Nat × Byte))) : State :=
  let mk := fun bs : List (Nat × Byte) =>
    ({ die := u.die, what := 0, eng := u.eng, tag := s.rd (Addr.mxe u.die u.eng 0) 47 32, tid := t.tid, uid := u.uid
       attempt := u.attempt, bytes := bs } : Flight)
  { s with flights := s.flights ++ rows.map mk }

/-- Storing rows: conversions counted but for discarded rows, the writes launched, draws, table events, STO bytes
(R62, R166, R283). The number is the tile's store-path saturations. -/
def State.putRows (s : State) (t : TaskRec) (u : UnitRec) (rs : List RowOut) (staged : Bool) : State × Nat :=
  let kept := rs.filter fun r => !s.discards t u.b r.m
  let cnt := kept.foldl (fun c r => c.add r.cnt) ({} : Cnt)
  let ft := rs.foldl (fun c r => r.lanes.foldl (fun c l => c.add l.ft) c) ({} : FtCnt)
  let conv := (convOf (t.w 0x48)).getD default
  let args := s.chainArgs (s.taskArg t) t.argTable
  let sto := (kept.map fun r => (r.stos.map fun x => x.2.bytes.length).foldl (· + ·) 0).foldl (· + ·) 0
  let s := (((s.addStore u.die cnt).addFt u.die ft).bump (Addr.rng t.p 0x10) (rowDraws conv args rs)).bump (Addr.chain u.die 0x20) sto
  let rows := kept.flatMap fun r =>
    (if staged then [[]] else [r.store.bytes]) ++ r.stos.map fun x => x.2.bytes
  (s.launch t u rows, cnt.guard)

/-- The format in which a deferred statistic stages (R171), and the columns of a tile that it stages: those after XMUL where
that stands before STAT. -/
def TaskRec.stageFmt (t : TaskRec) : Fmt :=
  ((t.epi.bind fun p => convOf (stageSpec p).1).map Conv.fmt).getD .fp32
def TaskRec.gluPre (t : TaskRec) : Bool := (t.epi.map fun p => (prePart p.insts).any fun i => i.op == 0x18).getD false
def TaskRec.stageCols (t : TaskRec) (u : UnitRec) : Nat := if t.gluPre then (t.tileCols u).length / 2 else (t.tileCols u).length

/-- Bytes of the tile store that a tile's staged values take (R174). The W staged columns of a complex product are those of both
planes (DEDUCED, log 126). -/
def TaskRec.stageBytes (t : TaskRec) (u : UnitRec) : Nat :=
  128 * ((t.tileEntries u.b).length * t.stageCols u) * t.stageFmt.width / 8

/-- Room for what a tile's drain stages; the values of a rerun take the place of the first attempt's (R174, R175). -/
def State.stageRoom (s : State) (t : TaskRec) (u : UnitRec) : Bool :=
  !t.defer || s.hasRoom t.p u.die (t.stageBytes u - (if u.heldAt == u.die then u.held else 0))

/-- Draining an output tile with its final sums (R75, R166, R171, R176): each discarded row of the tile counts once (R283). -/
def State.drainRows (s : State) (t : TaskRec) (u : UnitRec) (acc : List (List Pair)) (env : DrainEnv) : State :=
  let rows := t.tileRows u
  let n := (t.tileCols u).length
  let outs := (s.drained t u acc).flatMap fun pl => (List.range rows.length).map fun i =>
    s.drainRow t u pl.1 (rows.getD i 0) ((pl.2.drop (i * n)).take n)
  let s := (s.bump (Addr.mxe u.die u.eng 0x28) 1).bump (Addr.train u.die 0x8) (rows.filter (s.discards t u.b)).length
  let s := s.vxeRows t u.again u.die env.vxe (outs.map fun r => rowCost r.lanes)
  let p := s.putRows t u outs t.defer
  let s := p.1
  if t.defer then
    let bytes := (((outs.filter fun r => !s.discards t u.b r.m).map fun r => rowBytes t.stageFmt r.staged.length).foldl (· + ·) 0)
    (s.bump (Addr.chain u.die 0x10) bytes).putUnit t.tid { u with
      phase := .staged, acc := [], staged := outs.map RowOut.staged, sat := u.sat + p.2, image := none, spilled := false
      held := t.stageBytes u, heldAt := u.die }
  else s.putUnit t.tid { u with phase := .drained, acc := [], sat := u.sat + p.2, image := none, spilled := false, held := 0 }

/-- A drain: its clocks, a lane error (R180), a slot that cannot be read (R93), or the rows. -/
def State.drainTile (s : State) (t : TaskRec) (u : UnitRec) (acc : List (List Pair)) (env : DrainEnv) : State :=
  let s := ((s.bump (Addr.ft u.die 0x30) env.ftCorr).bump (Addr.chain u.die 0x18) env.backpress).chargeMxe t u.again env.clocks
  s.readSlot t u env.slot fun s =>
    match laneError env.parity env.ftEcc with
    | some row => s.failParity t u (s.rowVxe u.die env.vxe row) row
    | none => s.drainRows t u acc env

/-- The parts of an output tile after its first. -/
def TaskRec.parts (t : TaskRec) (u : UnitRec) : List UnitRec :=
  t.units.filter fun v => v.b == u.b && v.rb == u.rb && v.ct == u.ct && v.part != 0

/-- A VXE can take the drain's rows. -/
def State.vxeOk (s : State) (t : TaskRec) (d v : Nat) : Bool := t.epilogue == 0 || (s.activeVxes d).contains v

/-- The die that drains the unit's output tile: that of its part 0 (R131). -/
def TaskRec.drainDie (t : TaskRec) (u : UnitRec) : Nat :=
  ((t.units.find? fun v => v.b == u.b && v.rb == u.rb && v.ct == u.ct && v.part == 0).map UnitRec.die).getD u.die

/-- A part j ≥ 1 writes its partial sums to the tile store of the die that drains the row block (R131). A part that was moved
and passed retires the engine that it came from (R98). -/
def State.drainPart (s : State) (t : TaskRec) (u : UnitRec) (env : DrainEnv) : State :=
  (s.chargeMxe t u.again env.clocks).readSlot t u env.slot fun s =>
    let s := if u.moved then s.decideRetire u.die u.movedFrom else s
    s.putUnit t.tid { u with
      phase := .drained, image := none, spilled := false, held := t.tileBytes, heldAt := t.drainDie u }

/-- Room on the die that drains the row block for a part's sums. -/
def State.partRoom (s : State) (t : TaskRec) (u : UnitRec) : Bool :=
  s.hasRoom t.p (t.drainDie u) (t.tileBytes - (if u.heldAt == t.drainDie u then u.held else 0))

/-- TILE_DRAIN (R75, R131, R174): an output tile that is not split, or a part of a split one. While the tile store has no room for
what it stages or writes there, the engine holds. -/
def execTileDrain (tid uid : Nat) (env : DrainEnv) (s : State) : Host.Outcome State Fault Refusal :=
  if 16 ≤ env.vxe ∨ !env.slot.placed then .fault .noSuchUnit
  else
    match s.task tid with
    | none => .next s
    | some t =>
      match t.unit uid with
      | none => .next s
      | some u =>
        if u.phase ≠ .summed ∨ t.f 0 1 ≠ 0 ∨ !s.allArrived t u then .next s
        else if u.part ≠ 0 then
          if s.partRoom t u then .next (s.drainPart t u env) else .next s
        else if !(t.parts u).isEmpty ∨ !s.vxeOk t u.die env.vxe ∨ !s.stageRoom t u then .next s
        else .next (s.drainTile t u u.acc env)

/-- The parts of a split tile added in order (R131). -/
def addParts (pairMode : Bool) (acc : List (List Pair)) (vs : List UnitRec) : List (List Pair) :=
  vs.foldl (fun acc v => (List.range acc.length).map fun i =>
    (List.range (acc.getD i []).length).map fun k =>
      partAdd pairMode ((acc.getD i []).getD k default) ((v.acc.getD i []).getD k default)) acc

/-- SPLITK_REDUCE (R131): the parts are added in order, and the tile drains. -/
def execSplitkReduce (tid uid : Nat) (env : DrainEnv) (s : State) : Host.Outcome State Fault Refusal :=
  if 16 ≤ env.vxe ∨ !env.slot.placed then .fault .noSuchUnit
  else
    match s.task tid with
    | none => .next s
    | some t =>
      match t.unit uid with
      | none => .next s
      | some u =>
        let ps := t.parts u
        if u.phase ≠ .summed ∨ u.part ≠ 0 ∨ ps.isEmpty ∨ t.f 0 1 ≠ 0 ∨ !s.allArrived t u ∨
            !(ps.all fun v => v.phase == .drained) ∨ !s.vxeOk t u.die env.vxe ∨ !s.stageRoom t u then .next s
        else
          let parts := (List.range (ps.length + 1)).filterMap fun j => ps.find? fun v => v.part == j
          let sat := (parts.map UnitRec.sat).foldl (· + ·) u.sat
          let s := if u.rerun then s else s.bump (Addr.seq u.die 0x28) 1
          .next (s.drainTile t { u with sat := sat } (addParts t.pairMode u.acc parts) env)

/-! Writes at the checking points (R433). -/

/-- The writer's tag is invalid: its engine is not active under the tag, or its VXE or pipeline is out. -/
def State.offside (s : State) (f : Flight) : Bool :=
  if f.what = 0 then !(s.mxeActive f.die f.eng && s.rd (Addr.mxe f.die f.eng 0) 47 32 == f.tag)
  else if f.what = 1 then s.rd (Addr.vxe f.die f.eng 0) 3 0 != 0
  else s.rd (Addr.atp f.die f.eng 0) 3 0 != 0

/-- The attempt that wrote has been abandoned. -/
def State.stale (s : State) (f : Flight) : Bool :=
  match (s.task f.tid).bind fun t => t.unit f.uid with
  | some u => u.attempt != f.attempt || u.phase == .failed || u.phase == .abandoned || u.phase == .todo
  | none => true

/-- A write meets a checking point: dropped as offside or as stale, or it proceeds. -/
def State.arriveWrite (s : State) (f : Flight) : State :=
  if s.offside f then s.bump (0x700100 + 8 * f.die) 1
  else if s.stale f then s.bump (0x700140 + 8 * f.die) 1
  else s.devWrite f.die (some f.tid) f.bytes

/-- A write that proceeds has a frame for every page that it writes (R322), and no migration holds its writes (R327). -/
def State.flightFits (s : State) (f : Flight) : Bool :=
  s.offside f || s.stale f || s.canWriteAll f.die (nubList (f.bytes.map fun b => b.1 / 262144))

/-- WRITE_AT_CHECKPOINT (R322, R327, R433). -/
def execWriteAtCheckpoint (i : Nat) (s : State) : Host.Outcome State Fault Refusal :=
  match s.flights[i]? with
  | none => .next s
  | some f => if s.stopped ∨ !s.flightFits f then .next s else .next ({ s with flights := s.flights.eraseIdx i }.arriveWrite f)

/-- The unit's attempt still has writes in flight. -/
def State.inFlight (s : State) (tid : Nat) (u : UnitRec) : Bool :=
  s.flights.any fun f => f.tid == tid && f.uid == u.uid && f.attempt == u.attempt

/-! Stores, escalation and retirement. -/

/-- Ending a row block of a deferred task once all its tiles are stored (R173, R174). -/
def TaskRec.closeRow (t : TaskRec) (b rb : Nat) : TaskRec :=
  let inRow := fun (v : UnitRec) => v.b == b && v.rb == rb
  if t.units.all fun v => !inRow v || v.phase == .stored || v.phase == .skipped || v.part != 0 then
    { t with units := t.units.map fun v => if inRow v && v.phase != .skipped then
        { v with phase := .done, staged := [], held := 0, acc := [], bank := none } else v }
  else t

/-- A tile and its parts end, or wait for their row block. -/
def State.finishTile (s : State) (t : TaskRec) (u : UnitRec) : State :=
  if t.defers then
    let u := { u with phase := .stored, judged := true }
    (s.updTask t.tid fun t => (t.setUnit u).closeRow u.b u.rb).settle t.tid
  else
    let u := { u with phase := .done, judged := true, bank := none, held := 0 }
    let close := fun (t : TaskRec) => { t with units := t.units.map fun v =>
      if v.b = u.b ∧ v.rb = u.rb ∧ v.ct = u.ct ∧ v.part ≠ 0 then { v with phase := .done, acc := [], held := 0, bank := none } else v }
    (s.updTask t.tid fun t => close (t.setUnit u)).settle t.tid

/-- The tile escalates (R105): every part runs again. -/
def State.escalateTile (s : State) (t : TaskRec) (u : UnitRec) : State :=
  s.updTask t.tid fun t => { t with
    flags := orFlag t.flags 0
    units := t.units.map fun v => if v.b = u.b ∧ v.rb = u.rb ∧ v.ct = u.ct then
        { v with phase := .escalate, judged := true, escalated := true, rerun := true, acc := [], sat := 0, arrived := []
                 held := if t.defers then v.held else 0, redo := 0, again := false, fails := 0, moved := false } else v }

/-- TILE_STORE_COMPLETE (R98, R103, R105): a moved tile that passed retires the engine it came from; the saturation count
meets ESC_THRESH. -/
def execTileStoreComplete (tid uid : Nat) (s : State) : Host.Outcome State Fault Refusal :=
  match s.task tid with
  | none => .next s
  | some t =>
    match t.unit uid with
    | none => .next s
    | some u =>
      if u.phase ≠ .drained ∨ u.part ≠ 0 ∨ t.f 0 1 ≠ 0 ∨ s.inFlight tid u then .next s
      else
        let s := if u.moved then s.decideRetire u.die u.movedFrom else s
        let th := t.f 0x38 4
        if !u.judged && th != 0xFFFFFFFF && decide (th < u.sat) then
          if t.ctrl 21 18 ≠ 0 then .next (s.escalateTile t u)
          else
            let s := (s.bump (Addr.mxe u.die u.eng 0x58) 1).updTask tid fun t => { t with flags := orFlag t.flags 0 }
            .next (s.finishTile t u)
        else .next (s.finishTile t u)

/-! Apply passes (R171 to R175). -/

/-- The tiles of a row block that are not skipped, in column order, without the parts after the first. -/
def TaskRec.rowTiles (t : TaskRec) (b rb : Nat) : List UnitRec :=
  t.units.filter fun v => v.b == b && v.rb == rb && v.part == 0 && v.phase != .skipped

/-- The post-part on one row of a tile, with the row's statistic. -/
def State.applyRow (s : State) (t : TaskRec) (u : UnitRec) (pr : ChainProg) (stats : List F32) (e m : Nat) (xs : List F32) : RowOut :=
  let c := (convOf (t.w 0x48)).getD default
  let w := if t.gluPre then t.gN / 2 else t.gN
  let c0 := if t.gluPre then u.ct * 64 else u.ct * 128
  let cols := (List.range xs.length).map fun i => c0 + i
  let args := s.chainArgs (s.taskArg t) t.argTable
  let is := postPart pr.insts
  let erow := e * t.gM + m
  let q : RowPos := { die := u.die, bank := u.bank.getD 0, b := u.b, m := m, erow := erow, w := w }
  let r := s.runRow t args pr is q stats cols (xs.map fun x => (postEntry x, {}))
  { m := m, lanes := r.lanes, store := s.storeRow t u.die t.tensorD c e m erow t.outN (r.sources t.pairMode c)
    stos := s.stoRows t u.die args u.b m erow (fun a => stoWidth is w a) r.stos, drops := r.drops, bad := r.bad }

/-- The apply pass of a row block over the staged values of its tiles (R171, R207). Where the XMUL of a gating chain stands after
STAT, the statistic covers every staged column, partners among them (DESIGN CHOICE, log 127: R172 speaks of output columns, which
that chain does not have yet). -/
def State.applyRows (s : State) (t : TaskRec) (us : List UnitRec) (pr : ChainProg) (env : DrainEnv) : State :=
  let u0 := us.headD { uid := 0 }
  let es := if t.complex = 0 then [u0.b] else [2 * u0.b, 2 * u0.b + 1]
  let rows := t.tileRows u0
  let fv := s.ftView u0.die (u0.bank.getD 0)
  -- the statistic of each row of each plane, over the row's staged values in column order
  let stat := fun i => rowStat fv (statKind pr.insts) (us.flatMap fun u => u.staged.getD i []) pr.eps
  let stats := (List.range (es.length * rows.length)).map stat
  let s := stats.foldl (fun (s : State) x => ((s.bump (Addr.ft u0.die 0x38) x.2.2.clamp).bump (Addr.ft u0.die 0x40)
    x.2.2.nonfinite).addFt u0.die x.2.2.ft) s
  let outs := us.map fun u => (u, (List.range (es.length * rows.length)).map fun i =>
    let x := stats.getD i default
    s.applyRow t u pr [x.1, x.2.1, f32Zero, f32Zero] (es.getD (i / max 1 rows.length) 0) (rows.getD (i % max 1 rows.length) 0)
      (u.staged.getD i []))
  -- one VXE runs the pass: two slots for each staged element, and the post-part
  let cost := fun (x : UnitRec × List RowOut) => (List.range x.2.length).foldl (fun (c : RowCost) i =>
    let r := rowCost (x.2.getD i default).lanes
    let n := (x.1.staged.getD i []).length
    { clocks := c.clocks + r.clocks + 2 * ceilDiv n 64, slots := c.slots + r.slots + 2 * n, sfu := c.sfu + r.sfu }) {}
  let total := outs.foldl (fun (c : RowCost) x =>
    let y := cost x
    { clocks := c.clocks + y.clocks, slots := c.slots + y.slots, sfu := c.sfu + y.sfu }) {}
  let sfu := (stats.map fun x => x.2.2.ft.slots).foldl (· + ·) total.sfu
  let s := s.vxeRows t u0.again u0.die env.vxe [{ total with sfu := sfu }]
  outs.foldl (fun (s : State) x =>
    let p := s.putRows t x.1 x.2 false
    p.1.putUnit t.tid { x.1 with phase := .drained, sat := x.1.sat + p.2 }) s

/-- An error of the apply pass discards the staged values of the element's tile, which runs again (R180). -/
def State.failApply (s : State) (t : TaskRec) (us : List UnitRec) (env : DrainEnv) (row : Nat) : State :=
  match us.find? fun u => u.ct == env.tile with
  | some u => s.failParity t u env.vxe row
  | none => s

/-- One apply pass, first or repeated. -/
def State.apply (s : State) (t : TaskRec) (us : List UnitRec) (env : DrainEnv) : State :=
  match t.epi, us with
  | some pr, u :: _ =>
    let s := ((s.bump (Addr.ft u.die 0x30) env.ftCorr).bump (Addr.chain u.die 0x18) env.backpress).chargeMxe t u.again env.clocks
    match laneError env.parity env.ftEcc with
    | some row => s.failApply t us env row
    | none => s.applyRows t us pr env
  | _, _ => s

/-- An error that an apply pass met lies in one of its tiles. -/
def placesTile (us : List UnitRec) (env : DrainEnv) : Bool :=
  (laneError env.parity env.ftEcc).isNone || us.any fun u => u.ct == env.tile

/-- APPLY_PASS (R171): when the row block's last column tile is staged. -/
def execApplyPass (tid b rb : Nat) (env : DrainEnv) (s : State) : Host.Outcome State Fault Refusal :=
  if 16 ≤ env.vxe then .fault .noSuchUnit
  else
    match s.task tid with
    | none => .next s
    | some t =>
      let us := t.rowTiles b rb
      if t.f 0 1 ≠ 0 ∨ us.isEmpty ∨ !placesTile us env ∨ !(us.all fun u => u.phase == .staged && !u.judged && !s.inFlight tid u) ∨
          !(us.all fun u => (s.activeVxes u.die).contains env.vxe) then .next s
      else
        let ok := (laneError env.parity env.ftEcc).isNone
        let s := if ok then s.bump (Addr.chain (us.headD { uid := 0 }).die 0x8) 1 else s
        .next (s.apply t us env)

/-- APPLY_REPEAT (R175): when the reruns of a row block's escalated tiles are staged over the first values. -/
def execApplyRepeat (tid b rb : Nat) (env : DrainEnv) (s : State) : Host.Outcome State Fault Refusal :=
  if 16 ≤ env.vxe then .fault .noSuchUnit
  else
    match s.task tid with
    | none => .next s
    | some t =>
      let us := t.rowTiles b rb
      if t.f 0 1 ≠ 0 ∨ us.isEmpty ∨ !placesTile us env ∨ !(us.any fun u => u.phase == .staged && u.judged) ∨
          !(us.all fun u => u.judged && (u.phase == .staged || u.phase == .stored) && !s.inFlight tid u) ∨
          !(us.all fun u => (s.activeVxes u.die).contains env.vxe) then .next s
      else
        let ok := (laneError env.parity env.ftEcc).isNone
        let s := if ok then s.bump (Addr.chain (us.headD { uid := 0 }).die 0x28) 1 else s
        .next (s.apply t us env)

/-! Retirement (R100 to R102, R434). -/

/-- The attention pipelines that an engine serves lose it: `r` takes the substitute `sub` in its place, or leaves service
(R101). -/
def State.replaceInPair (s : State) (d k r : Nat) (sub : Option Nat) : State :=
  let a := Addr.atp d r 0
  let j := sub.getD 0xFF
  let s := if s.rd a 23 16 = k then s.setFld a 23 16 j else s
  let s := if s.rd a 15 8 = k then s.setFld a 15 8 j else s
  if sub.isSome then s else s.setFld a 3 0 1

/-- A product tile of a retired engine: what it had open is abandoned (R100), and its failures there count no more (R96). A halted
tile's sums lie in the tile store, from which it resumes on another engine. -/
def UnitRec.offEngine (u : UnitRec) (d k : Nat) : UnitRec :=
  if u.die = d ∧ u.eng = k ∧ (u.phase = .issued ∨ u.phase = .summed) then
    { u.discarded with redo := 0, fails := if u.moved then u.fails else 0, why := 9 }
  else u

/-- The write belongs to an attempt on an engine whose store has begun. -/
def State.begun (s : State) (d k : Nat) (f : Flight) : Bool :=
  f.die == d && f.what == 0 && f.eng == k &&
    (((s.task f.tid).bind fun t => t.unit f.uid).map fun u => u.attempt == f.attempt && u.phase == .drained).getD false

/-- Abandoning what an engine runs: attempts whose store has begun complete their writes first (R422). -/
def State.abandonEngine (s : State) (d k : Nat) : State :=
  let done := s.flights.filter (s.begun d k)
  let s := { s with flights := s.flights.filter fun f => !s.begun d k f }
  let s := done.foldl State.arriveWrite s
  { s with tasks := s.tasks.map fun (t : TaskRec) =>
      if t.f 0 1 = 0 then { t with units := t.units.map fun u => u.offEngine d k }
      else if t.f 0 1 = 1 then
        { t with units := t.units.map fun u => if u.die = d ∧ (u.phase = .issued ∨ u.phase = .summed) ∧
            (s.rd (Addr.atp d u.eng 0) 23 16 = k ∨ s.rd (Addr.atp d u.eng 0) 15 8 = k) then
          { u.discarded with redo := 0, fails := if u.moved then u.fails else 0, why := 9 } else u }
      else t }

/-- MXE_RETIRE (R100): an engine that firmware has decided to retire, once the stores that have begun there can complete. -/
def execMxeRetire (d k gen : Nat) (s : State) : Host.Outcome State Fault Refusal :=
  if 8 ≤ d ∨ 17 ≤ k then .fault .noSuchUnit
  else
    let e := s.engRec d 0 k
    if !e.due ∨ !s.mxeActive d k ∨ !((s.flights.filter (s.begun d k)).all s.flightFits) then .next s
    else
      let s := s.abandonEngine d k
      let a := Addr.mxe d k 0
      let pair := s.rd a 15 8
      let s := s.setReg a (setBits (setBits (setBits (s.reg a) 47 32 0) 15 8 0xFF) 3 0 2)
      let s := (s.setEngRec { e with due := false, retired := true }).mapAdd 0 d k
      let b := Addr.mxe d 16 0
      let sub := s.rd b 3 0 = 1
      -- on the X grade MXE 16 joins a pair only where it is free and active
      let join := sub || (pair != 0xFF && k != 16 && s.mxeActive d 16 && s.rd b 15 8 == 0xFF)
      let s := if sub then s.setReg b (setBits (setBits (s.reg b) 47 32 gen) 3 0 0) else s
      let s := if join && pair != 0xFF then s.setFld b 15 8 pair else s
      let s := if pair < 8 then s.replaceInPair d k pair (if join then some 16 else none) else s
      .next (s.event 0x13 (unitOf 0 d k) ((s.dieOwner d).getD 0xFF) (if sub then gen else 0) (if join then 16 else 0xFF)).endPipeless

end Sys2Proof.Machine
end

