-- ==== Sys2Proof/Machine/Tasks.lean ====
section
/-! DEFINITION. Slices, halts, real-time windows, shares, re-execution and pre-emption of tasks (R34, R35, R119 to R130,
R402, R403, R414, R423, R424). -/
namespace Sys2Proof.Machine
open Sys2Proof

/-! Slices. -/

/-- The quantities of R130 at the task's first slice, with the extent L in place of M or K where it limits one; p is 1
where R129 does not split. -/
def State.planOf (s : State) (t : TaskRec) (L : Nat) : Plan :=
  let ds := s.taskDies t
  let e := (ds.map fun d => (s.activeMxes d).length).foldl (· + ·) 0
  let m := t.effM L
  let rbs := t.gBatch * ceilDiv m 128
  let kc := ceilDiv (t.effK L) 32
  let p := min (e / max 1 rbs) (kc / 16)
  let split := t.ctrl 12 12 = 0 ∧ t.ctrl 13 13 = 0 ∧ t.gBatch * m < e * 128 ∧ 0 < rbs ∧ 2 ≤ p
  { rbs := rbs, kc := kc, e := e, p := if split then p else 1 }

/-- The dies of the parts j ≥ 1: the engines that the row blocks within L leave over, die by die. -/
def State.spareDies (s : State) (t : TaskRec) (L : Nat) : List Nat :=
  let own := fun d => ((t.units.filter fun u => u.die == d && u.part == 0 && !t.beyond u L).map fun u =>
    u.b * t.rowBlocks + u.rb).eraseDups.length
  (s.taskDies t).flatMap fun d => List.replicate ((s.activeMxes d).length - own d) d

/-- Dividing every tile into the parts of R130: part j ≥ 1 of the i-th row block takes the next engine left over. -/
def State.splitUnits (s : State) (t : TaskRec) (pl : Plan) (L : Nat) : List UnitRec :=
  let spare := s.spareDies t L
  let rbs := ceilDiv (t.effM L) 128
  t.units.flatMap fun u => (List.range pl.p).map fun j =>
    { u with
      uid := u.uid * pl.p + j, part := j
      first := j * pl.kc / pl.p, last := (j + 1) * pl.kc / pl.p
      die := if j = 0 then u.die else spare.getD ((u.b * rbs + u.rb) * (pl.p - 1) + (j - 1)) u.die }

/-- The tiles of a die that its slice skips: those beyond L (R120), and those whose rows a reuse scope keeps (R261). -/
def State.skipUnits (s : State) (t : TaskRec) (d L : Nat) : State :=
  let untouched := fun (u : UnitRec) => u.die == d && u.phase == .todo
  let kept := fun (u : UnitRec) => t.f 6 1 != 0 && s.reused t.p (t.f 6 1) (u.b * t.rowBlocks + u.rb)
  let us := t.units.filter untouched
  let long := (us.filter fun u => u.part == 0 && t.beyond u L).length
  let same := (us.filter fun u => u.part == 0 && !t.beyond u L && kept u).length
  let s := (s.bump (Addr.seq d 0x10) long).bump (Addr.reuse t.p 0x30) same
  let skip := fun (u : UnitRec) => if untouched u && (t.beyond u L || kept u) then { u with phase := .skipped } else u
  (s.updTask t.tid fun t => { t with units := t.units.map skip }).settle t.tid

/-- The effective extent that the length word of a product or of an attention task gives (R119, R220): without one 2^32,
above every extent of a product, or S. -/
def State.lengthOf (s : State) (t : TaskRec) : Nat :=
  let ax := t.ctrl 15 14
  if t.f 0 1 = 1 then (if t.ctrl 11 11 = 1 then min (s.devNat (t.f 0xB0 8) 4) (t.f 0x24 4) else t.f 0x24 4)
  else if ax = 0 then pow2 32
  else min (s.devNat (t.f 0xB0 8) 4) (if ax = 1 then t.gM else if ax = 2 then t.gN else t.gK)

/-- A slice that the sequencer expects to take `expect` clocks ends before the next tick (R34). -/
def State.sliceFits (s : State) (clocks expect : Nat) : Bool := clocks + expect ≤ s.rd 0x100000 14 0 * 2500

/-- The task's slice begins on a die with the extent that its length word gives (R34, R119, R129, R130). -/
def State.beginSlice (s : State) (t : TaskRec) (d : Nat) : State :=
  let L := s.lengthOf t
  let x : SliceRec := { die := d, len := L, frame := (s.reg 0x100008).toNat }
  let begin_ := fun (t : TaskRec) => { t with slices := t.slices ++ [x], halts := t.halts.filter fun h => h.1 != d }
  if t.f 0 1 = 1 then s.updTask t.tid begin_
  else
    let pl := t.plan.getD (s.planOf t L)
    let split := 2 ≤ pl.p ∧ t.units.all fun u => u.part == 0
    let units := if split then s.splitUnits t pl L else t.units
    let s := s.updTask t.tid fun t => { begin_ t with plan := some pl, units := units }
    match s.task t.tid with
    | some t => s.skipUnits t d L
    | none => s

/-- SLICE_START (R34, R119, R122, R129, R130, R429): `clocks` after the last tick. A length word in a lost block is met as any
lost input is. -/
def execSliceStart (tid d clocks expect : Nat) (fault : Option ReadFault) (s : State) : Host.Outcome State Fault Refusal :=
  if 8 ≤ d then .fault .noSuchUnit
  else
    match s.task tid with
    | none => .next s
    | some t =>
      if t.phase ≠ .running ∨ (t.sliceOn d).isSome ∨ !(s.taskDies t).contains d ∨ !s.serving t.p ∨ 1 < t.f 0 1 ∨
          !s.sliceFits clocks expect then .next s
      else
        let none_ := if t.f 0 1 = 1 then t.ctrl 11 11 = 0 else t.ctrl 15 14 = 0
        let r := if none_ then (s, 0) else s.readRange t.p (unitOf 0 d 0x40) true fault (t.f 0xB0 8) 4
        if r.2 = 0x22 then .next (r.1.lostInput t (t.f 0xB0 8 / 4096))
        else if r.2 ≠ 0 then .next (r.1.endTask tid r.2)
        else .next (r.1.beginSlice t d)

/-- Stopping an issued unit: an open product tile is written out as for a spill (R34, R35, R134), an attention unit keeps its
state. -/
def State.haltUnit (s : State) (t : TaskRec) (u : UnitRec) (read : SlotRead) : State :=
  if t.f 0 1 = 0 && !u.spilled then s.spill t u .halted read else s.putUnit t.tid { u with phase := .halted }

/-- Bytes of the tile store that halting a unit takes. -/
def TaskRec.haltBytes (t : TaskRec) (u : UnitRec) : Nat := if t.f 0 1 = 0 && !u.spilled && u.image.isNone then t.tileBytes else 0

/-- A unit stands at a tile boundary: its engine turns to another tile there. An attention unit is at one at the end of every key
block (DEDUCED, log 128). -/
def TaskRec.atBoundary (t : TaskRec) (u : UnitRec) : Bool := t.f 0 1 != 0 || u.next == u.start || (u.next - u.first) % t.panel u == 0

/-- The units that are issued on a die. -/
def TaskRec.issuedOn (t : TaskRec) (d : Nat) : List UnitRec := t.units.filter fun u => u.die == d && u.phase == .issued

/-- SLICE_HALT (R34, R135): a slice still running at a tick halts at its tile boundary, once the tile store has room for its partial
sums. -/
def execSliceHalt (tid d : Nat) (reads : List (Nat × SlotRead)) (s : State) : Host.Outcome State Fault Refusal :=
  if 8 ≤ d ∨ !(reads.all fun r => r.2.placed) then .fault .noSuchUnit
  else
    match s.task tid with
    | none => .next s
    | some t =>
      let us := t.issuedOn d
      if t.phase ≠ .running ∨ !(t.slices.any fun x => x.die == d && decide (x.frame < (s.reg 0x100008).toNat)) ∨
          !(us.all t.atBoundary) ∨ !s.hasRoom t.p d ((us.map t.haltBytes).foldl (· + ·) 0) then .next s
      else
        let s := us.foldl (fun (s : State) u =>
          s.haltUnit t u (((reads.find? fun r => r.1 == u.uid).map Prod.snd).getD {})) (s.bump (Addr.sch t.p 0xC0) 1)
        .next (s.updTask tid fun t => { t with slices := t.slices.filter fun x => x.die != d })

/-! Real-time windows (R35, R401, R402). -/

/-- SCH_SLOT[i] is valid. -/
def State.slotValid (s : State) (i : Nat) : Bool := s.ready && s.rd (0x100100 + 8 * i) 11 11 == 1

/-- The partition that owns slot i. -/
def State.slotPart (s : State) (i : Nat) : Nat := s.rd (0x100100 + 8 * i) 10 8

/-- Raising a halt on the dies of a slot for every ready or running task that `sel` names. -/
def State.raiseHalts (s : State) (i : Nat) (sel : TaskRec → Bool) : State :=
  { s with tasks := s.tasks.map fun (t : TaskRec) =>
      if (t.phase = .ready ∨ t.phase = .running) ∧ sel t then
        { t with halts := t.halts ++ (((s.taskDies t).filter fun d => s.slotHas i d && t.unhalted d).map fun d => (d, false)) }
      else t }

/-- RT_SLOT_HALT_RAISE (R35): 2,048 clocks before the offset of a slot, a halt on the slot's dies. -/
def execRtSlotHaltRaise (slot : Nat) (s : State) : Host.Outcome State Fault Refusal :=
  if 64 ≤ slot then .fault .noSuchUnit
  else if s.slotValid slot then .next (s.raiseHalts slot fun t => t.slot != slot + 1)
  else .next s

/-- UNIT_HALT_AT_BOUNDARY (R35, R134, R135): for a halt of a slot or of the granted share (R587) the end of a chunk or of a key block,
for that of a SAVE (R411) or of a power trip (R588) the tile boundary, once the tile store has room. -/
def execUnitHaltAtBoundary (tid uid : Nat) (read : SlotRead) (s : State) : Host.Outcome State Fault Refusal :=
  if !read.placed then .fault .noSuchUnit
  else
    match s.task tid with
    | none => .next s
    | some t =>
      match t.unit uid with
      | none => .next s
      | some u =>
        let now := (s.powerHold && t.slot == 0) || t.halts.any fun x => x.1 == u.die && !x.2
        let trip := s.tripped && t.slot == 0
        if (t.unhalted u.die && !now && !trip) ∨ u.phase ≠ .issued ∨ !s.hasRoom t.p u.die (t.haltBytes u) ∨ !(now || t.atBoundary u) then .next s
        else .next (s.haltUnit t u read)

/-- RT_SLOT_BEGIN (R402): the window opens, and halts on its dies end; from now on R402 says which work issues there. -/
def execRtSlotBegin (slot : Nat) (s : State) : Host.Outcome State Fault Refusal :=
  if 64 ≤ slot then .fault .noSuchUnit
  else if s.slotValid slot && !s.slotsOn.contains slot then
    let s := { s with
      slotsOn := slot :: s.slotsOn
      tasks := s.tasks.map fun (t : TaskRec) => { t with halts := t.halts.filter fun x => !s.slotHas slot x.1 } }
    .next s
  else .next s

/-- RT_WINDOW_END_HALT (R402): the bound tasks that are unfinished halt, each counting SCH_RT_OVERRUN, and the window
closes. -/
def execRtWindowEndHalt (slot : Nat) (s : State) : Host.Outcome State Fault Refusal :=
  if 64 ≤ slot then .fault .noSuchUnit
  else if s.slotsOn.contains slot then
    let n := (s.tasks.filter fun t => t.slot == slot + 1 && t.phase == .running).length
    let s := (s.raiseHalts slot fun t => t.slot == slot + 1).bump (Addr.sch (s.slotPart slot) 0xF8) n
    .next { s with slotsOn := s.slotsOn.filter fun i => i != slot }
  else .next s

/-! Shares (R403). -/

/-- The denominator of virtual times: every weight from 1 to 255 divides it. -/
def vtUnit : Nat := ((List.range 255).map (· + 1)).foldl Nat.lcm 1

/-- A tenant's weight; 0 counts as 1 for tasks admitted before the write (R403). -/
def State.weightOf (s : State) (p t : Nat) : Nat := max 1 (s.rd (Addr.weight p t) (8 * (t % 4) + 7) (8 * (t % 4)))

/-- VIRTUAL_TIME_UPDATE (R403). -/
def execVirtualTimeUpdate (p : Nat) (s : State) : Host.Outcome State Fault Refusal :=
  if 8 ≤ p then .fault .noSuchUnit
  else
    .next { s with tenants := s.tenants.map fun (x : TenantRec) =>
      if x.p = p then { x with vtime := x.vtime + x.charge * (vtUnit / s.weightOf p x.t), charge := 0 } else x }

/-- A task that is ready or running. -/
def TaskRec.live (t : TaskRec) : Bool := t.phase == .ready || t.phase == .running

/-- A tenant that becomes ready below the others' virtual times is raised to the lowest of them (R403). -/
def State.raiseTenant (s : State) (p tn : Nat) : State :=
  if s.tasks.any fun t => t.p == p && t.tenant == tn && t.live then s
  else
    let others := (((s.tasks.filter fun t => t.p == p && t.live).map TaskRec.tenant).eraseDups).map fun k => (s.tenant p k).vtime
    match others with
    | [] => s
    | v :: vs =>
      let x := s.tenant p tn
      s.setTenant { x with vtime := max x.vtime (vs.foldl min v) }

/-- The absolute deadline of a task's graph, none coming last (R403). -/
def State.deadlineOf (s : State) (t : TaskRec) : Option Nat := (s.graph t.gid).bind GraphRec.deadline

/-- Task a issues before task b, where b stands later in the order of submission (R403). -/
def State.issuesFirst (s : State) (a b : TaskRec) : Bool :=
  let va := (s.tenant a.p a.tenant).vtime
  let vb := (s.tenant b.p b.tenant).vtime
  if a.tenant ≠ b.tenant then va < vb || (va == vb && a.tenant < b.tenant)
  else
    match s.deadlineOf a, s.deadlineOf b with
    | some x, some y => x ≤ y
    | some _, none => true
    | none, some _ => false
    | none, none => true

/-- The first of a list of tasks in the order of R403. -/
def State.firstTask (s : State) : List TaskRec → Option TaskRec
  | [] => none
  | t :: ts =>
    match s.firstTask ts with
    | none => some t
    | some b => some (if s.issuesFirst t b then t else b)

/-! Re-execution and pre-emption. -/

/-- The kinds that are never re-executed: callbacks, MAP, UNMAP and HINT (R424). -/
def TaskRec.oneShot (t : TaskRec) : Bool := t.f 0 1 == 6 || (t.f 0 1 == 3 && 6 ≤ t.f 1 1 && t.f 1 1 ≤ 8)

/-- Re-executing a task (R423): units whose store has begun stay, and with them their parts; every other one starts again, counts and
bindings of its attempts forgotten. A task without units starts again from its kind's first step. -/
def State.reexecTask (s : State) (t : TaskRec) : State :=
  let stored := fun (u v : UnitRec) => v.part == 0 && v.b == u.b && v.rb == u.rb && v.ct == u.ct && (v.phase == .drained || v.phase == .stored)
  let begun := fun (u : UnitRec) => t.units.any (stored u) || u.phase == .done || u.phase == .skipped || u.phase == .todo
  let s := s.bump (Addr.ras t.p 0x28) 1
  s.updTask t.tid fun t => { t with
    retries := t.retries + 1
    units := t.units.map fun u => if begun u then u else
      { u.discarded with fails := 0, parity := 0, moved := false, redo := 0, bank := none, rerun := u.rerun } }

/-- PREEMPT_TASK (R414): firmware pre-empts only under R240, whose tasks are attention tasks. -/
def execPreemptTask (tid : Nat) (s : State) : Host.Outcome State Fault Refusal :=
  match s.task tid with
  | none => .next s
  | some t => if t.f 0 1 = 1 ∧ (t.phase = .running ∨ t.phase = .stalled) then .next (s.preempt t) else .next s

end Sys2Proof.Machine
end

