-- ==== Sys2Proof/Machine/Vector.lean ====
section
/-! DEFINITION. Vector programs and CONVERT (R118, R120, R149 to R165, R170, R388, R389), and what every task that runs
in one step shares: its header (R386, R387), its checks of input blocks (R355) and its outcome. -/
namespace Sys2Proof.Machine
open Sys2Proof

/-! Shared by the tasks that run in one step. -/

/-- The kind and the operation of a task (R387). -/
def TaskRec.isKind (t : TaskRec) (k op : Nat) : Bool := t.f 0 1 == k && t.f 1 1 == op

/-- Bytes lo to hi − 1 of a descriptor are 0. -/
def TaskRec.zeros (t : TaskRec) (lo hi : Nat) : Bool := ((t.desc.drop lo).take (hi - lo)).all fun b => b == 0#8

/-- The addresses in a list are multiples of 64. -/
def TaskRec.aligned (t : TaskRec) (offs : List Nat) : Bool := offs.all fun o => t.f o 8 % 64 == 0

/-- The value lies from 1 to `hi`. -/
def inExt (v hi : Nat) : Bool := 1 ≤ v && v ≤ hi

/-- The blocks of a list of ranges. -/
def rngBlocks (rs : List Rng) : List Nat := nubList (rs.flatMap fun r => r.rows.flatMap fun x => blocksOf x.1 x.2)

/-- The pages that ranges lie in. -/
def rngPages (rs : List Rng) : List Nat := nubList ((rngBlocks rs).map fun b => b / 64)

/-- Reading the input blocks of a task on a die before its step (R24, R355, R427, R429): a lost block is met by R429, the task waits
while a page lies where it cannot be read, a block whose bytes and CRC disagree ends it with ST_FOUL_RETRY_EXHAUSTED, and else
`ok` goes on. A length word comes through the narrow path (R356). Pages read are touched. -/
def State.readInputs (s : State) (t : TaskRec) (die unitId : Nat) (blks : List Nat) (ok : State → State) : State :=
  match blks.find? fun b => s.lost b with
  | some b => s.lostInput t b
  | none =>
    if blks.any fun b => !s.readable (b / 64) then s
    else
      let word := if t.isKind 2 0 && bit (t.f 0x2C 4) 0 then blocksOf (t.f 0x80 8) 4 else []
      let r := blks.foldl (fun (x : State × Nat) b => if x.2 = 0 then x.1.readBlock t.p b unitId (word.contains b) none else x) (s, 0)
      if r.2 ≠ 0 then r.1.endTask t.tid r.2
      else ok (blks.foldl (fun (s : State) b => s.blockRead die b) r.1)

/-- Running a ready task of a kind in one step: a rejected descriptor ends it with ST_INVALID_DESC, it waits while a page that it
writes has no frame or is held (R322, R327), and else its inputs are read and `run` gives the effect and the status. -/
def State.runTask (s : State) (t : TaskRec) (ok : Bool) (unitId : Nat) (ins : List Nat) (outs : List Rng)
    (run : State → State × Nat) : State :=
  let die := (s.taskDies t).headD 0
  if !ok then s.endTask t.tid 0x10
  else if !s.canWriteAll die (rngPages outs) then s
  else s.readInputs t die unitId ins fun s =>
    let q := run s
    q.1.endTask t.tid q.2

/-- The task may run now: it is ready, its partition is served, its window is open on all its dies, and for a kind that runs on
compute dies no halt stands there (R35) and MIN_EPOCH is reached (R204). -/
def State.mayRun (s : State) (t : TaskRec) : Bool :=
  t.phase == .ready && s.serving t.p && (s.taskDies t).all fun d =>
    s.windowOk t d && (decide (3 < t.f 0 1) || (t.unhalted d && !s.epochAhead t d))

/-! Vector programs (R388). -/

def TaskRec.vOuter (t : TaskRec) : Nat := t.f 0x20 4
def TaskRec.vInner (t : TaskRec) : Nat := t.f 0x24 4
def TaskRec.vBatch (t : TaskRec) : Nat := t.f 0x28 4
def TaskRec.lenEn (t : TaskRec) : Bool := bit (t.f 0x2C 4) 0

/-- The input of a vector program. -/
def TaskRec.vecIn (t : TaskRec) : Tensor :=
  let c := (convOf (t.w 0x60)).getD default
  { base := t.f 0x40 8, fmt := c.fmt, smode := c.smode, t := t.w 0x68, scale := t.f 0x50 8, stride := t.f 0x70 4
    bstride := 256 * t.f 0x78 4, nb := t.vBatch, rows := t.vOuter, cols := t.vInner }

/-- The output of a vector program, half as wide under XMUL (R170). -/
def TaskRec.vecOut (t : TaskRec) : Tensor :=
  let c := (convOf (t.w 0x64)).getD default
  { base := t.f 0x48 8, fmt := c.fmt, smode := c.smode, t := t.w 0x6C, scale := t.f 0x58 8, stride := t.f 0x74 4
    bstride := 256 * t.f 0x7C 4, nb := t.vBatch, rows := t.vOuter, cols := if t.glu then t.vInner / 2 else t.vInner }

/-- The argument table of a vector program. -/
def State.vecArgs (s : State) (t : TaskRec) : List ChainArg := s.chainArgs (s.taskArg t) (t.f 0x38 8)

/-- The inner extent at which a vector program takes argument i: the product's before XMUL, half of it after, 0 where no
instruction names it (R164, R170). -/
def TaskRec.vecArgCols (t : TaskRec) (i : Nat) : Nat :=
  let is := (t.epi.map ChainProg.insts).getD []
  let before := is.takeWhile fun x => x.op != 0x18
  let rest := is.dropWhile fun x => x.op != 0x18
  if (before ++ rest.take 1).any fun x => x.names i then t.vInner
  else if (rest.drop 1).any fun x => x.names i then t.vInner / 2
  else 0

/-- The bytes of the arguments that instructions name: outputs, or those that are read. -/
def State.vecArgRngs (s : State) (t : TaskRec) (out : Bool) : List (List Rng) :=
  (List.range 8).map fun i =>
    let a := (s.vecArgs t).getD i default
    if (a.kind == .elemOut) != out || t.vecArgCols i == 0 then [] else argRngs a t.vBatch t.vOuter (t.vecArgCols i)

/-- The bytes of every argument that is no ELEM_OUT, named or not, for the overlaps of R165 (log 119). -/
def State.vecTable (s : State) (t : TaskRec) : List (List Rng) :=
  (List.range 8).map fun i =>
    let a := (s.vecArgs t).getD i default
    if a.kind == .elemOut then [] else argRngs a t.vBatch t.vOuter (if t.vecArgCols i = 0 then t.vInner else t.vecArgCols i)

/-- What a vector program reads. -/
def State.vecReads (s : State) (t : TaskRec) : List Rng :=
  t.vecIn.rngs ++ (s.vecArgRngs t false).flatten ++ s.rngProgram t.epi (t.f 0x30 8) ++
    (if t.f 0x38 8 = 0 then [] else [{ base := t.f 0x38 8, len := 256 }]) ++
    (if t.lenEn then [{ base := t.f 0x80 8, len := 4 }] else [])

/-- What it writes. -/
def State.vecWrites (s : State) (t : TaskRec) : List Rng :=
  (if t.f 0x48 8 = 0 then [] else t.vecOut.rngs) ++ (s.vecArgRngs t true).flatten

/-- The descriptor keeps R388, the checks of R145 in the sense they have here, and R162 to R165, R170, R260, R294. -/
def State.vecOk (s : State) (t : TaskRec) : Bool :=
  let x := t.vecIn
  let y := t.vecOut
  let hasOut := t.f 0x48 8 != 0
  let ins := x.rngs
  let outs := s.vecArgRngs t true
  let d := if hasOut then y.rngs else []
  let rows := t.vBatch * t.vOuter
  inExt t.vOuter 16777216 && inExt t.vInner 16777216 && inExt t.vBatch 65536 && t.f 0x2C 4 ≤ 1 && t.zeros 0x88 0x100 &&
    t.aligned [0x30, 0x38, 0x40, 0x48, 0x50, 0x58] && t.f 0x70 4 % 64 == 0 && t.f 0x74 4 % 64 == 0 &&
    (convOf (t.w 0x60)).isSome && ((convOf (t.w 0x64)).map fun c => c.fmt != .int16).getD false &&
    x.strideOk && (!hasOut || y.strideOk) && (!t.lenEn || t.f 0x80 8 % 4 == 0) &&
    t.epi.isSome && chainOk 2 (s.vecArgs t) (t.epi.getD default) && (t.f 0x38 8 == 0 || (s.vecArgs t).all ChainArg.ok) &&
    (!t.glu || t.vInner % 128 == 0) &&
    indexOk (isSr (t.w 0x64)) (rows * y.cols) && progIndexOk t.epi (s.vecArgs t) rows t.vInner &&
    s.slotMatches t.p (t.f 6 1) t.vBatch t.vOuter && !rngsMeet d ins &&
    ((List.range 8).all fun i =>
      let a := outs.getD i []
      !rngsMeet a (ins ++ d) && ((List.range 8).all fun j =>
        j == i || !(rngsMeet a ((s.vecTable t).getD j []) || rngsMeet a (outs.getD j []))))

/-- The outer extent in force: the length word's, when LEN_EN is set (R119, R388). -/
def State.vecLen (s : State) (t : TaskRec) : Nat := if t.lenEn then min (s.devNat (t.f 0x80 8) 4) t.vOuter else t.vOuter

/-- A tile of a vector program: its number, batch entry, block of outer rows, column tile, and the die that R123 gives it. -/
structure VecTile where
  n : Nat
  b : Nat
  rb : Nat
  ct : Nat
  die : Nat
deriving DecidableEq, Repr, Inhabited

def TaskRec.vecRbs (t : TaskRec) : Nat := ceilDiv t.vOuter 128
def TaskRec.vecCts (t : TaskRec) : Nat := ceilDiv t.vInner 128

/-- Every tile, in order. -/
def State.vecTiles (s : State) (t : TaskRec) : List VecTile :=
  let ds := s.taskDies t
  (List.range (t.vBatch * t.vecRbs)).flatMap fun x => (List.range t.vecCts).map fun ct =>
    { n := x * t.vecCts + ct, b := x / t.vecRbs, rb := x % t.vecRbs, ct := ct, die := ds.getD (shareOf (t.vBatch * t.vecRbs) ds.length x) 0 }

/-- A tile lies wholly at or beyond the length (R120), or a reuse scope keeps its rows (R261). -/
def VecTile.beyond (x : VecTile) (L : Nat) : Bool := decide (L ≤ x.rb * 128)
def State.vecReused (s : State) (t : TaskRec) (x : VecTile) : Bool :=
  t.f 6 1 != 0 && s.reused t.p (t.f 6 1) (x.b * t.vecRbs + x.rb)

/-- The tiles that run. -/
def State.vecLive (s : State) (t : TaskRec) : List VecTile :=
  (s.vecTiles t).filter fun x => !x.beyond (s.vecLen t) && !s.vecReused t x

/-- The rows and the columns of a tile that are not masked. -/
def VecTile.rows (x : VecTile) (L : Nat) : List Nat :=
  (List.range 128).filterMap fun i => if x.rb * 128 + i < L then some (x.rb * 128 + i) else none
def VecTile.cols (x : VecTile) (n : Nat) : List Nat :=
  (List.range 128).filterMap fun i => if x.ct * 128 + i < n then some (x.ct * 128 + i) else none

/-- The runs that a tile reads: its input, its scales, and the arguments that the program names (R164, R597). -/
def State.vecRuns (s : State) (t : TaskRec) (x : VecTile) : List (Nat × Nat) :=
  let rows := x.rows (s.vecLen t)
  let c0 := x.ct * 128
  let c1 := min (c0 + 128) t.vInner
  let is := (t.epi.map ChainProg.insts).getD []
  let before := is.takeWhile fun i => i.op != 0x18
  let rest := is.dropWhile fun i => i.op != 0x18
  (rows.flatMap fun r => t.vecIn.spanRuns x.b r c0 c1) ++
    s.instRuns t (t.f 0x38 8) (before ++ rest.take 1) x.b rows [(c0, c1)] ++
    s.instRuns t (t.f 0x38 8) (rest.drop 1) x.b rows [(c0 / 2, c1 / 2)]

/-- The blocks that a vector program fetches and checks: those of the tiles that run, and the length word's (R285, R597). -/
def State.vecNeeds (s : State) (t : TaskRec) : List Nat :=
  nubList ((if t.lenEn then blocksOf (t.f 0x80 8) 4 else []) ++ (s.vecLive t).flatMap fun x => runBlocks (s.vecRuns t x))

/-- The bank that a tile binds (R203): the one that it keeps from a failed attempt, or the active one. -/
def State.vecBank (s : State) (t : TaskRec) (x : VecTile) : Nat :=
  ((t.vfails.find? fun f => f.tile == x.n).map VecFail.bank).getD (s.ftActive x.die)

/-- One tile of a vector program: up to 128 outer rows by 128 inner elements of one batch entry. -/
def State.vecTile (s : State) (t : TaskRec) (pr : ChainProg) (vxe : Nat) (tile : VecTile) : State :=
  let die := tile.die
  let b := tile.b
  let cols := tile.cols t.vInner
  let c0 := tile.ct * 128
  let x := t.vecIn
  let y := t.vecOut
  let c := (convOf (t.w 0x64)).getD default
  let args := s.vecArgs t
  let hasOut := t.f 0x48 8 != 0
  let bad := fun r => (cols.map fun k => (s.elemF32 die x b r k).2).foldl (· + ·)
    ((List.range cols.length).filter fun i => x.smode.blocked && (c0 + i) % x.smode.block == 0 &&
      scaleNaN x.smode (s.scaleAt x b r (c0 + i))).length
  let outs := (tile.rows (s.vecLen t)).map fun r =>
    let erow := b * t.vOuter + r
    let q : RowPos := { die := die, bank := s.vecBank t tile, b := b, m := r, erow := erow, w := t.vInner }
    let starts := cols.map fun k => ((chainEntry (s.tab die) pr false ⟨(s.elemF32 die x b r k).1, f32Zero⟩).1, ({} : Cnt))
    let z := s.runRow t args pr pr.insts q [] cols starts
    ({ m := r, lanes := z.lanes
       store := if hasOut then s.storeRow t die y c b r erow y.cols (z.sources false c) else {}
       stos := s.stoRows t die args b r erow (fun a => stoWidth pr.insts t.vInner a) z.stos
       drops := z.drops, bad := z.bad + bad r } : RowOut)
  let cnt := outs.foldl (fun k r => k.add r.cnt) ({} : Cnt)
  let ft := outs.foldl (fun k r => r.lanes.foldl (fun k l => k.add l.ft) k) ({} : FtCnt)
  let sto := (outs.map fun r => (r.stos.map fun z => z.2.bytes.length).foldl (· + ·) 0).foldl (· + ·) 0
  let s := (((s.addStore die cnt).addFt die ft).bump (Addr.rng t.p 0x10) (rowDraws c args outs)).bump (Addr.chain die 0x20) sto
  let s := s.vxeRows t (t.vfails.any fun f => f.tile == tile.n) die vxe (outs.map fun r => rowCost r.lanes)
  s.devWrite die (some t.tid) (outs.flatMap fun r => r.store.bytes ++ r.stos.flatMap fun z => z.2.bytes)

/-- Every tile of a vector program: run, or skipped beyond the length (R120) or as reused (R261), with what its dies' tile DMA
moves. -/
def State.runVec (s : State) (t : TaskRec) (vxe : Nat) : State :=
  let L := s.vecLen t
  let live := s.vecLive t
  let s := (s.taskDies t).foldl (fun (s : State) d =>
    s.bump (Addr.seq d 0x30) (s.dmaAll ((live.filter fun x => x.die == d).map (s.vecRuns t)))) s
  match t.epi with
  | none => s
  | some pr => (s.vecTiles t).foldl (fun (s : State) x =>
      if x.beyond L then s.bump (Addr.seq x.die 0x10) 1
      else if s.vecReused t x then s.bump (Addr.reuse t.p 0x30) 1
      else s.vecTile t pr vxe x) s

/-- Tiles of a vector program that MIN_EPOCH holds on their dies, counted once (R204). -/
def State.holdVec (s : State) (t : TaskRec) : State :=
  if t.mark ≠ 0 then s
  else
    let n := fun d => ((s.vecTiles t).filter fun x => x.die == d).length
    (((s.taskDies t).filter fun d => s.epochAhead t d).foldl (fun (s : State) d => s.bump (Addr.ft d 0x48) (n d)) s).updTask
      t.tid fun t => { t with mark := 1 }

/-- A lane parity error, or an uncorrectable table word, in a tile of a vector program (R180, R187, R203): the tile runs again once,
in the bank that it bound; a second error of one tile ends the attempt of the task (R97). -/
def State.vecParity (s : State) (t : TaskRec) (x : VecTile) (v row : Nat) : State :=
  let u : UnitRec := { uid := 0, die := x.die }
  let s' := s.failParity t u (s.rowVxe x.die v row) row
  if !(t.vfails.any fun f => f.tile == x.n) then
    s'.updTask t.tid fun y => { y with vfails := y.vfails ++ [{ tile := x.n, die := x.die, bank := s.vecBank t x, errs := 1 }] }
  else if t.retries < s.taskRetries then (s'.reexecTask t).updTask t.tid fun t => { t with vfails := [] }
  else s'.endTask t.tid 0x21

/-- The tile that met an error among those that run. -/
def State.vecErr (s : State) (t : TaskRec) (env : DrainEnv) : Option (VecTile × Nat) :=
  (laneError env.parity env.ftEcc).bind fun row => ((s.vecLive t).find? fun x => x.n == env.tile).map fun x => (x, row)

/-- A vector program that may run: its error, or its tiles. -/
def State.stepVec (s : State) (t : TaskRec) (env : DrainEnv) : State :=
  let die := (s.taskDies t).headD 0
  s.runTask t true (unitOf 0 die 0x45) (s.vecNeeds t) (s.vecWrites t) fun s =>
    (((s.bump (Addr.ft die 0x30) env.ftCorr).bump (Addr.chain die 0x18) env.backpress).runVec t env.vxe, 0)

/-- VECTOR_PROGRAM (R388). -/
def execVectorProgram (tid : Nat) (env : DrainEnv) (s : State) : Host.Outcome State Fault Refusal :=
  if 16 ≤ env.vxe then .fault .noSuchUnit
  else
    match s.task tid with
    | none => .next s
    | some t =>
      let ds := s.taskDies t
      if !t.isKind 2 0 ∨ !(t.phase == .ready && s.serving t.p) then .next s
      else if !s.vecOk t then .next (s.endTask tid 0x10)
      else if ds.any fun d => s.epochAhead t d then .next (s.holdVec t)
      else if !s.mayRun t ∨ !(ds.all fun d => (s.activeVxes d).contains env.vxe) then .next s
      else
        match s.vecErr t env with
        | some x => .next (s.vecParity t x.1 env.vxe x.2)
        | none => .next (s.stepVec t env)

/-! CONVERT (R389). -/

def TaskRec.cvTrans (t : TaskRec) : Bool := bit (t.f 0x2C 4) 0

/-- The source of a CONVERT. -/
def TaskRec.cvSrc (t : TaskRec) : Tensor :=
  let c := (convOf (t.w 0x30)).getD default
  { base := t.f 0x40 8, fmt := c.fmt, smode := c.smode, t := t.w 0x38, scale := t.f 0x50 8, stride := t.f 0x60 4
    bstride := 256 * t.f 0x68 4, nb := t.f 0x28 4, rows := t.f 0x20 4, cols := t.f 0x24 4 }

/-- Its output: COLS rows of ROWS elements under TRANS. -/
def TaskRec.cvDst (t : TaskRec) : Tensor :=
  let c := (convOf (t.w 0x34)).getD default
  { base := t.f 0x48 8, fmt := c.fmt, smode := c.smode, t := t.w 0x3C, scale := t.f 0x58 8, stride := t.f 0x64 4
    bstride := 256 * t.f 0x6C 4, nb := t.f 0x28 4
    rows := if t.cvTrans then t.f 0x24 4 else t.f 0x20 4, cols := if t.cvTrans then t.f 0x20 4 else t.f 0x24 4 }

def TaskRec.cvReads (t : TaskRec) : List Rng := t.cvSrc.rngs
def TaskRec.cvWrites (t : TaskRec) : List Rng := t.cvDst.rngs

/-- The descriptor keeps R389, R42, R43, R54 and R294 for its tensors, and names no reuse slot (R260). -/
def TaskRec.cvOk (t : TaskRec) : Bool :=
  let x := t.cvSrc
  let y := t.cvDst
  inExt (t.f 0x20 4) 16777216 && inExt (t.f 0x24 4) 16777216 && inExt (t.f 0x28 4) 65536 && t.f 0x2C 4 ≤ 1 &&
    t.zeros 0x70 0x80 && t.f 6 1 == 0 && x.strideOk && y.strideOk && (convOf (t.w 0x30)).isSome &&
    ((convOf (t.w 0x34)).map fun c => c.fmt != .fp32pair && c.fmt != .int16).getD false &&
    indexOk (isSr (t.w 0x34)) (y.nb * y.rows * y.cols) && !rngsMeet [y.rng] (x.rngs ++ y.rngs.drop 1)

/-- The operation copies bytes (R389). -/
def TaskRec.cvCopies (t : TaskRec) : Bool :=
  t.f 0x30 4 == t.f 0x34 4 && !t.cvTrans && ((convOf (t.w 0x30)).map fun c => c.smode == .none).getD false

/-- The unit of issue of an output element: its 4 KiB block of the destination (R421). -/
def TaskRec.cvUnit (t : TaskRec) (b r c : Nat) : Nat :=
  let y := t.cvDst
  (y.rowAddr b r + c * y.fmt.width / 8) / 4096

/-- Counter values that a CONVERT evaluates: each unit evaluates a value once (R295, R421). -/
def State.cvDraws (s : State) (t : TaskRec) (die : Nat) : Nat :=
  let x := t.cvSrc
  let y := t.cvDst
  let c := (convOf (t.w 0x34)).getD default
  let n := y.nb * y.rows * y.cols
  let unit := fun e => t.cvUnit (e / y.cols / y.rows) (e / y.cols % y.rows) (e % y.cols)
  if c.draws x.srcFmt (s.tab die x.srcFmt) (s.tab die c.fmt) then
    ((List.range (ceilDiv n 4)).map fun g =>
      (((List.range (min 4 (n - 4 * g))).map fun i => unit (4 * g + i)).eraseDups).length).foldl (· + ·) 0
  else 0

/-- The NaN block scales that the units of some output rows read, once for each block (R44, R421). -/
def State.cvNans (s : State) (t : TaskRec) (rows : List Nat) : Nat :=
  let x := t.cvSrc
  let y := t.cvDst
  if x.smode.blocked then
    ((rows.flatMap fun i => (List.range y.cols).filterMap fun k =>
      let b := i / y.rows
      let r := i % y.rows
      let at_ := if t.cvTrans then (k, r) else (r, k)
      if scaleNaN x.smode (s.scaleAt x b at_.1 at_.2) then some (t.cvUnit b r k, x.scaleAddr b at_.1 at_.2) else none).eraseDups).length
  else 0

/-- One output row of a CONVERT. -/
def State.cvRow (s : State) (t : TaskRec) (die b r : Nat) : State :=
  let x := t.cvSrc
  let y := t.cvDst
  let c := (convOf (t.w 0x34)).getD default
  let at_ := fun k => if t.cvTrans then s.elemSrc die x b k r else s.elemSrc die x b r k
  let xs := (List.range y.cols).map at_
  let erow := b * y.rows + r
  let o := convRow c y.t (s.tab die c.fmt) (s.tab die x.fmt) (fun i => s.srDraw t c.stream 1 (erow * y.cols + i)) (xs.map Prod.fst)
  let codes := s.putCodes y b r ((List.range y.cols).map fun i => (i, o.1.getD i 0))
  let scales := if c.smode.blocked then
      (List.range o.2.1.length).map fun j => (y.scaleAddr b r (j * c.smode.block), BitVec.ofNat 8 (o.2.1.getD j 0))
    else []
  let s := s.addStore die (o.2.2.add { bad := (xs.map Prod.snd).foldl (· + ·) 0 })
  s.devWrite die (some t.tid) (codes ++ scales)

/-- Copying one row's bytes. -/
def State.cvCopyRow (s : State) (t : TaskRec) (die b r : Nat) : State :=
  let x := t.cvSrc
  s.devWriteRun die (some t.tid) (t.cvDst.rowAddr b r) (s.devBytes (x.rowAddr b r) x.rowLen)

/-- The reads of some output rows of a CONVERT: each one's source row, or under TRANS the source rows' parts that a run of output
rows of one batch entry takes (R389). -/
def TaskRec.cvRuns (t : TaskRec) (rows : List Nat) : List (List (Nat × Nat)) :=
  let x := t.cvSrc
  let y := t.cvDst
  if t.cvTrans then
    (List.range y.nb).map fun b =>
      let mine := (rows.filter fun i => i / y.rows == b).map fun i => i % y.rows
      let c0 := mine.headD 0
      (List.range x.rows).flatMap fun k => x.spanRuns b k c0 (c0 + mine.length)
  else rows.map fun i => x.spanRuns (i / y.rows) (i % y.rows) 0 x.cols

/-- A CONVERT: its output rows, shared among its dies as R123 shares row blocks, with what their tile DMA moves. -/
def State.runConvert (s : State) (t : TaskRec) : State :=
  let y := t.cvDst
  let ds := s.taskDies t
  let dieOf := fun i => ds.getD (shareOf (y.nb * y.rows) ds.length i) 0
  let rows := List.range (y.nb * y.rows)
  let mine := fun d => rows.filter fun i => dieOf i == d
  let s := ds.foldl (fun (s : State) d =>
    let n := s.dmaAll (t.cvRuns (mine d))
    (s.bump (Addr.seq d 0x30) n).bump (Addr.seq d 0x38) (if t.cvTrans then n else 0)) s
  let s := if t.cvCopies then s
    else (ds.foldl (fun (s : State) d => s.addStore d { bad := s.cvNans t (mine d) }) s).bump (Addr.rng t.p 0x10) (s.cvDraws t (ds.headD 0))
  rows.foldl (fun (s : State) i =>
    if t.cvCopies then s.cvCopyRow t (dieOf i) (i / y.rows) (i % y.rows) else s.cvRow t (dieOf i) (i / y.rows) (i % y.rows)) s

/-- CONVERT (R389). -/
def execConvert (tid : Nat) (s : State) : Host.Outcome State Fault Refusal :=
  match s.task tid with
  | none => .next s
  | some t =>
    if !t.isKind 3 0 ∨ !s.mayRun t then .next s
    else .next (s.runTask t t.cvOk (unitOf 0 ((s.taskDies t).headD 0) 0x41) (rngBlocks t.cvReads) t.cvWrites fun s => (s.runConvert t, 0))

end Sys2Proof.Machine
end

