-- ==== Sys2Proof/Machine/Loads.lean ====
section
/-! DEFINITION. Table loads, seed loads, random generation, reuse gates and finite checks (R49 to R52, R199 to R202,
R254 to R260, R279 to R281, R292, R296 to R300, R390). -/
namespace Sys2Proof.Machine
open Sys2Proof

/-! Codebooks (R49 to R51, R390). -/

/-- The parts of a significand after its trailing zero bits are removed: at most 15 (R49 b). -/
def sigSmall (m : Nat) : Bool := (cbNorm 11 m 0).1 ≤ 15

/-- A codebook table keeps R49. -/
def codebookOk (tab : List W32) : Bool :=
  let es := (cbEntries tab).map CbEntry.mag
  let nz := es.filter fun e => e.1 != 0
  (tab.all fun w => !cifInvalid w && (w.toNat >>> 23) % 4 == 0) && (es.all fun e => sigSmall e.1) &&
    nz.all fun a => nz.all fun b => magLe a (b.1, b.2 + 16)

/-- The 64-byte descriptors of R390: the fields that the operation does not use are 0, and no reuse slot is named (R260). -/
def TaskRec.loadDescOk (t : TaskRec) (len sel : Bool) : Bool :=
  t.f 6 1 == 0 && (len || t.f 0x28 4 == 0) && (sel || t.f 0x2C 4 == 0) && t.zeros 0x30 0x40

/-- The words of a table in memory. -/
def State.memWords (s : State) (a n : Nat) : List W32 := (List.range n).map fun i => BitVec.ofNat 32 (s.devNat (a + 4 * i) 4)

/-- What a codebook load reads. -/
def TaskRec.cbReads (t : TaskRec) : List Rng := [{ base := t.f 0x20 8, len := 64 }]

/-- Writing a table into every compute die of a partition. -/
def State.putCodebook (s : State) (p k : Nat) (tab : List W32) : State :=
  (s.dies p).foldl (fun (s : State) d =>
    { s with maps := { s.maps with cbk := Sparse.setList 0 s.maps.cbk ((d * 14 + k) * 16) tab } }) s

/-- CODEBOOK_LOAD (R50, R51). -/
def execCodebookLoad (tid : Nat) (s : State) : Host.Outcome State Fault Refusal :=
  match s.task tid with
  | none => .next s
  | some t =>
    if !t.isKind 3 2 ∨ !s.mayRun t then .next s
    else
      let sel := t.f 0x2C 4
      .next (s.runTask t (t.loadDescOk false true && 0x12 ≤ sel && sel ≤ 0x1F) (unitOf 0 ((s.taskDies t).headD 0) 0x41)
        (rngBlocks t.cbReads) [] fun s =>
          let tab := s.memWords (t.f 0x20 8) 16
          if codebookOk tab then (s.putCodebook t.p (sel - 0x12) tab, 0) else (s, 0x10))

/-! Function tables (R199 to R202). -/

/-- The bytes of a load's image. -/
def TaskRec.ftReads (t : TaskRec) : List Rng := [{ base := t.f 0x20 8, len := t.f 0x28 4 }]

/-- The image of a function-table load: its words in memory, the descriptors that it carries in order, and its segment
range. -/
structure FtImage where
  mask : Nat
  first : Nat
  count : Nat
  descs : List Nat
  segAt : Nat
deriving DecidableEq, Repr, Inhabited

/-- Reading the header of an image (R199). -/
def State.ftImage (s : State) (a : Nat) : FtImage :=
  let mask := s.devNat a 8
  let ds := (List.range 64).filter fun j => bit mask j
  { mask := mask, first := s.devNat (a + 8) 2, count := s.devNat (a + 10) 2, descs := ds, segAt := a + 64 + 128 * ds.length }

/-- Word w of descriptor j in the image. -/
def State.ftImageWord (s : State) (a : Nat) (m : FtImage) (j w : Nat) : W32 :=
  BitVec.ofNat 32 (s.devNat (a + 64 + 128 * (m.descs.findIdx fun x => x == j) + 4 * w) 4)

/-- The bank that the load would give. -/
def State.ftAfter (s : State) (die a : Nat) (m : FtImage) : FtView :=
  let v := s.ftView die (s.ftActive die)
  { word := fun f w => if m.descs.contains f then s.ftImageWord a m f w else v.word f w
    coef := fun i c => if m.first ≤ i ∧ i < m.first + m.count then BitVec.ofNat 32 (s.devNat (m.segAt + 16 * (i - m.first) + 4 * c) 4)
      else v.coef i c }

/-- The image keeps R200. -/
def State.ftImageOk (s : State) (t : TaskRec) : Bool :=
  let a := t.f 0x20 8
  let m := s.ftImage a
  let die := (s.dies t.p).headD 0
  let v := s.ftAfter die a m
  let d := fun f => fnDesc (v.word f)
  let kind0 := fun f => f < 64 && (d f).valid && !(d f).micro && kind0Ok (d f)
  let act := s.ftView die (s.ftActive die)
  let busy := fun f =>
    let x := fnDesc (act.word f)
    x.valid && !x.micro && x.segBase < m.first + m.count && m.first < x.segBase + x.segCount && m.count != 0
  t.f 0x28 4 == 64 + 128 * m.descs.length + 16 * m.count && s.devNat (a + 12) 4 == 0 &&
    ((List.range 48).all fun i => s.devByte (a + 16 + i) == 0#8) && m.count ≤ 16384 &&
    !([0, 1, 4, 5].any fun f => bit m.mask f) && m.first + m.count ≤ 16384 && !([0, 1, 4, 5].any busy) &&
    ((List.range m.count).all fun i => [0, 1, 2].all fun c => f32Finite (v.coef (m.first + i) c)) &&
    ((List.range m.count).all fun i => v.coef (m.first + i) 3 == 0#32) &&
    (m.descs.all fun f => descOk kind0 (v.word f)) &&
    ((List.range 64).all fun f => !(d f).valid || !(d f).micro || microOk kind0 (d f).uops)

/-- A load task of the partition is under way (R202). -/
def State.ftBusy (s : State) (p : Nat) : Bool := s.tasks.any fun t => t.p == p && t.isKind 3 3 && t.phase == .running

/-- FT_STATUS of every VXE and attention pipeline of a die. -/
def State.setFtStatus (s : State) (d hi lo v : Nat) : State :=
  let s := (List.range 16).foldl (fun (s : State) k => s.setFld (Addr.vxe d k 0x100) hi lo v) s
  (List.range 8).foldl (fun (s : State) k => s.setFld (Addr.atp d k 0x100) hi lo v) s

/-- FT_LOAD (R200): the whole image is read and checked before any bank is written. -/
def execFtLoad (tid : Nat) (s : State) : Host.Outcome State Fault Refusal :=
  match s.task tid with
  | none => .next s
  | some t =>
    if !t.isKind 3 3 ∨ !s.mayRun t ∨ s.ftBusy t.p then .next s
    else if !t.loadDescOk true false then .next (s.endTask tid 0x10)
    else
      let die := (s.taskDies t).headD 0
      .next (s.readInputs t die (unitOf 0 die 0x41) (rngBlocks t.ftReads) fun s =>
        if s.ftImageOk t then s.updTask tid fun t => { t with phase := .running, mark := 1 } else s.endTask tid 0x10)

/-- Some tile of the partition's dies is bound to the inactive bank of its die (R201): a unit of a product or of attention, or a
tile of a vector program that runs again in the bank of its first attempt (R203). -/
def State.inactiveBound (s : State) (p : Nat) : Bool :=
  s.tasks.any fun t => t.p == p &&
    ((t.units.any fun u => u.bank == some (1 - s.ftActive u.die)) ||
      t.vfails.any fun f => f.bank == 1 - s.ftActive f.die)

/-- Copying the active bank of a die into its inactive one, and writing the image over it (R201). -/
def State.writeBank (s : State) (d a : Nat) (m : FtImage) : State :=
  let act := s.ftActive d
  let src := (d * 2 + act) * 0x20000
  let dst := (d * 2 + (1 - act)) * 0x20000
  let own := (s.maps.ft.filter fun e => src ≤ e.1 && e.1 < src + 0x20000).map fun e => (e.1 - src + dst, e.2)
  let img : List (Nat × BitVec 33) :=
    (m.descs.flatMap fun f => (List.range 32).map fun w => (dst + f * 32 + w, (s.ftImageWord a m f w).setWidth 33 ||| 0x100000000#33)) ++
    ((List.range m.count).flatMap fun i => (List.range 4).map fun c =>
      (dst + 0x1000 + (m.first + i) * 4 + c, BitVec.ofNat 33 (s.devNat (m.segAt + 16 * i + 4 * c) 4) ||| 0x100000000#33))
  let ft := Sparse.erase (fun k => dst ≤ k && k < dst + 0x20000) s.maps.ft
  { s with maps := { s.maps with ft := Sparse.setAll 0 (Sparse.setAll 0 ft own) img } }

/-- FT_BANK_WRITE (R201 steps 1 and 2). -/
def execFtBankWrite (tid : Nat) (s : State) : Host.Outcome State Fault Refusal :=
  match s.task tid with
  | none => .next s
  | some t =>
    if !t.isKind 3 3 ∨ t.phase ≠ .running ∨ t.mark ≠ 1 ∨ s.inactiveBound t.p then .next s
    else
      let a := t.f 0x20 8
      let m := s.ftImage a
      let s := (s.dies t.p).foldl (fun (s : State) d => (s.writeBank d a m).setFtStatus d 1 1 1) s
      .next (s.updTask tid fun t => { t with mark := 2 })

/-- The epoch after `e`: 1 follows 0xFFFFFFFF (R201). -/
def nextEpoch (e : Nat) : Nat := if e = 0xFFFFFFFF then 1 else e + 1

/-- FT_BANK_SWAP (R201 steps 3 and 4). -/
def execFtBankSwap (tid : Nat) (s : State) : Host.Outcome State Fault Refusal :=
  match s.task tid with
  | none => .next s
  | some t =>
    if !t.isKind 3 3 ∨ t.phase ≠ .running ∨ t.mark ≠ 2 then .next s
    else
      let swap := fun (s : State) d =>
        let e := nextEpoch (s.rd (Addr.ft d 8) 31 0)
        let s := ((s.setFtStatus d 0 0 (1 - s.ftActive d)).setFtStatus d 1 1 0).setFtStatus d 63 32 e
        (s.setFld (Addr.ft d 8) 31 0 e).bump (Addr.ft d 0x10) 1
      .next (((s.dies t.p).foldl swap s).endTask tid 0)

/-! Seeds (R291, R292). -/

def TaskRec.seedReads (t : TaskRec) : List Rng := [{ base := t.f 0x20 8, len := 136 }]

/-- SEED_LOAD (R292). -/
def execSeedLoad (tid : Nat) (s : State) : Host.Outcome State Fault Refusal :=
  match s.task tid with
  | none => .next s
  | some t =>
    if !t.isKind 3 4 ∨ !s.mayRun t then .next s
    else
      .next (s.runTask t (t.loadDescOk false false) (unitOf 0 ((s.taskDies t).headD 0) 0x41) (rngBlocks t.seedReads) [] fun s =>
        let a := t.f 0x20 8
        let mask := s.devNat a 2
        if s.devNat (a + 2) 6 ≠ 0 then (s, 0x10)
        else
          let ss := (List.range 16).filter fun i => bit mask i
          let s := { s with maps := { s.maps with
            seeds := Sparse.setAll 0 s.maps.seeds (ss.map fun i => (t.p * 16 + i, BitVec.ofNat 64 (s.devNat (a + 8 + 8 * i) 8))) } }
          let r := Addr.rng t.p 0x8
          (((s.setFld r 15 0 ((s.rd r 15 0) ||| mask)).bump (Addr.rng t.p 0x20) 1), 0))

/-! Generation (R296 to R300). -/

def TaskRec.rfDist (t : TaskRec) : Nat := fld (t.f 0x28 4) 5 4
def TaskRec.rfStream (t : TaskRec) : Nat := t.f 0x28 4 % 16

/-- The output of a generation task: one run of ELEMS elements. -/
def TaskRec.rfOut (t : TaskRec) : Tensor :=
  let c := (convOf (t.w 0x2C)).getD default
  { base := t.f 0x40 8, fmt := c.fmt, smode := c.smode, t := t.w 0x38, scale := t.f 0x48 8, stride := 0, bstride := 0
    nb := 1, rows := 1, cols := t.f 0x20 8 }

def TaskRec.rfWrites (t : TaskRec) : List Rng := t.rfOut.rngs

/-- The descriptor keeps R300 and names no reuse slot (R260). -/
def TaskRec.rfOk (t : TaskRec) : Bool :=
  let n := t.f 0x20 8
  let cv := convOf (t.w 0x2C)
  t.f 6 1 == 0 && inExt n (pow2 48) && t.f 0x28 4 < 64 && t.f 0x3C 4 == 0 && t.zeros 0x50 0x100 && t.aligned [0x40] &&
    (match cv with
     | some c => if t.rfDist = 0 then c.fmt == .fp32 && c.smode == .none else c.fmt != .fp32pair && c.fmt != .int16 && c.smode != .two
     | none => false)

/-- Slots 10 and 11 of the generator's library at u2 of a turn (R297). -/
def State.turns (s : State) (slot : Nat) (u : Dy) : F32 :=
  let v := libView (s.reg 0x900088).toNat
  let d := fnDesc (v.word slot)
  tableAt v d (dyFloor (dyAdd u (if d.phase then ⟨1, -2⟩ else ⟨0, 0⟩))).2

/-- LOG of the generator's library at u1 = (2 × (x0 >> 8) + 1) × 2^-25, which is exact and reaches the reduction of R191 as it is:
it needs up to 25 bits, and no limit of LOG settles a value inside (0, 1). -/
def logExact (v : FtView) (x0 : W32) : F32 :=
  let d := fnDesc (v.word 3)
  let b := binade (2 * (x0.toNat / 256) + 1) (-25)
  xvFma (.fin (decide (b.2 < 0)) b.2.natAbs 0) (f32Val d.rc) (f32Val (tableAt v d b.1))

/-- The Box–Muller deviate of an even or an odd element (R297). -/
def State.boxMuller (s : State) (x0 x1 : W32) (odd : Bool) : F32 :=
  let v := libView (s.reg 0x900088).toNat
  let u2 : Dy := ⟨(x1.toNat / 256 : Nat), -24⟩
  let rho := (evalFn v 6 (fmul 0xC0000000#32 (logExact v x0))).1
  fmul rho (s.turns (if odd then 10 else 11) u2)

/-- The table method on a word (R298). -/
def State.tableNormal (s : State) (w : W32) : F32 :=
  let l := 2 * (w.toNat % pow2 31) + 1
  let k := Nat.log2 l
  let f := (l * 128 / pow2 k) % 128
  let seg := 128 * (31 - k) + f
  let t := if k ≤ 7 then f32Zero else rne32 false (l % pow2 (k - 7)) (pow2 (k - 7)) 0
  let fw := (s.reg 0x900088).toNat
  let c := Config.normalCoef fw seg
  let m := fma (fma (c 2) t (c 1)) t (c 0)
  if w.msb then fneg m else m

/-- z of R296 to R298 for element e. -/
def State.deviate (s : State) (t : TaskRec) (e : Nat) : F32 :=
  let key := s.streamKeyOf t.p t.rfStream
  let w := drawWord key (0x20 + t.rfDist) (t.f 0xC 4) (t.f 0x10 4) e
  if t.rfDist = 0 then w
  else if t.rfDist = 1 then rne32 false (w.toNat / 256) 1 (-24)
  else if t.rfDist = 2 then
    let q := kcg128 key (drawCounter 0x22 (e / 2) (t.f 0xC 4) (t.f 0x10 4))
    s.boxMuller q.x0 q.x1 (e % 2 = 1)
  else s.tableNormal w

/-- The counter values that a generation task evaluates for groups of `k` elements: once in each 4 KiB block of the destination
that holds an element of the group (R295, R421). -/
def TaskRec.rfDraws (t : TaskRec) (k : Nat) : Nat :=
  let x := t.rfOut
  let unit := fun e => (x.base + e * x.fmt.width / 8) / 4096
  ((List.range (ceilDiv x.cols k)).map fun g => unit (min (k * g + k - 1) (x.cols - 1)) - unit (k * g) + 1).foldl (· + ·) 0

/-- Generating and storing every element. -/
def State.runFill (s : State) (t : TaskRec) : State :=
  let die := (s.taskDies t).headD 0
  let x := t.rfOut
  let c := (convOf (t.w 0x2C)).getD default
  let n := x.cols
  let draws := t.rfDraws (if t.rfDist = 2 then 2 else 4) + (if c.draws .fp32 [] [] then t.rfDraws 4 else 0)
  let s := (s.bump (Addr.rng t.p 0x10) draws).bump (Addr.rng t.p 0x18) (if 2 ≤ t.rfDist then n else 0)
  if t.rfDist = 0 then
    s.devWrite die (some t.tid) (s.putCodes x 0 0 ((List.range n).map fun e => (e, (s.deviate t e).toNat)))
  else
    let o := s.storeRow t die x c 0 0 0 n ((List.range n).map fun e => (e, Src.f32 (fma (s.deviate t e) (t.w 0x34) (t.w 0x30))))
    (s.addStore die o.cnt).devWrite die (some t.tid) o.bytes

/-- RNG_FILL (R300). -/
def execRngFill (tid : Nat) (s : State) : Host.Outcome State Fault Refusal :=
  match s.task tid with
  | none => .next s
  | some t =>
    if !t.isKind 3 5 ∨ !s.mayRun t then .next s
    else .next (s.runTask t t.rfOk (unitOf 0 ((s.taskDies t).headD 0) 0x41) [] t.rfWrites fun s => (s.runFill t, 0))

/-! Reuse gates (R254 to R259). -/

def TaskRec.rgBatch (t : TaskRec) : Nat := t.f 0x20 4
def TaskRec.rgM (t : TaskRec) : Nat := t.f 0x24 4
def TaskRec.rgBlocks (t : TaskRec) : Nat := ceilDiv t.rgM 128
def TaskRec.rgSlot (t : TaskRec) : Nat := fld (t.f 0x30 4) 23 16

/-- X, or its cache at other addresses. -/
def TaskRec.rgTensor (t : TaskRec) (addr scale : Nat) : Tensor :=
  let c := (convOf (t.w 0x3C)).getD default
  { base := t.f addr 8, fmt := c.fmt, smode := c.smode, t := t.w 0x40, scale := t.f scale 8, stride := t.f 0x58 4
    bstride := 256 * t.f 0x5C 4, nb := t.rgBatch, rows := t.rgM, cols := t.f 0x28 4 }

/-- The conditioning rows, or their cache, at a pitch of whole 256 bytes. -/
def TaskRec.rgCond (t : TaskRec) (addr : Nat) : Tensor :=
  let c := (convOf (t.w 0x44)).getD default
  let pitch := roundUp (rowBytes c.fmt (t.f 0x2C 4)) 256
  { base := t.f addr 8, fmt := c.fmt, smode := c.smode, t := f32One, scale := 0, stride := pitch, bstride := pitch
    nb := t.rgBatch, rows := 1, cols := t.f 0x2C 4 }

def TaskRec.hasCond (t : TaskRec) : Bool := t.f 0x70 8 != 0

/-- What a gate reads. -/
def TaskRec.rgReads (t : TaskRec) : List Rng :=
  (t.rgTensor 0x48 0x60).rngs ++ (t.rgTensor 0x50 0x68).rngs ++ (if t.hasCond then (t.rgCond 0x70).rngs ++ (t.rgCond 0x78).rngs else []) ++
    [{ base := t.f 0x80 8, len := t.rgBatch * t.rgBlocks }]

/-- What it writes: the caches, the age array and the copy of the map. -/
def TaskRec.rgWrites (t : TaskRec) : List (List Rng) :=
  [(t.rgTensor 0x50 0x68).rngs, if t.hasCond then (t.rgCond 0x78).rngs else [], [{ base := t.f 0x80 8, len := t.rgBatch * t.rgBlocks }],
   if t.f 0x88 8 = 0 then [] else [{ base := t.f 0x88 8, len := ceilDiv (t.rgBatch * t.rgBlocks) 8 }]]

/-- τ is +0 or positive and finite. -/
def tauOk (w : W32) : Bool := f32Finite w && !f32Neg w

/-- The lists of ranges share no byte pairwise. -/
def apartAll : List (List Rng) → Bool
  | [] => true
  | x :: xs => (xs.all fun y => !rngsMeet x y) && apartAll xs

/-- The descriptor keeps R254, R255 and R259. -/
def TaskRec.rgOk (t : TaskRec) : Bool :=
  let x := t.rgTensor 0x48 0x60
  let ins := x.rngs ++ (if t.hasCond then (t.rgCond 0x70).rngs else [])
  let cond := match convOf (t.w 0x44) with
    | some c => c.smode == .none
    | none => false
  inExt t.rgBatch 65536 && inExt t.rgM 1048576 && inExt (t.f 0x28 4) 65536 && (!t.hasCond || inExt (t.f 0x2C 4) 65536) &&
    t.rgBatch * t.rgBlocks ≤ 8192 && t.rgSlot != 0 && t.rgSlot == t.f 6 1 && fld (t.f 0x30 4) 31 24 == 0 && fld (t.f 0x30 4) 15 9 == 0 &&
    tauOk (t.w 0x34) && tauOk (t.w 0x38) && ((convOf (t.w 0x3C)).map fun c => c.smode != .two).getD false && cond &&
    t.zeros 0x90 0x100 && t.aligned [0x48, 0x50, 0x60, 0x68, 0x70, 0x78, 0x80, 0x88] && t.f 0x58 4 % 64 == 0 &&
    apartAll (ins :: t.rgWrites)

/-- |x − c| is at most τ, exactly; and whether an infinity or a NaN puts the pair beyond it (R256). -/
def withinTau (tau x c : F32) : Bool × Bool :=
  match f32Val x, f32Val c with
  | .fin a m e, .fin b n f =>
    let d := dyAdd (dyOf a m e) (let y := dyOf b n f; ⟨-y.m, y.e⟩)
    (!dyLt (f32Dy tau) ⟨(d.m.natAbs : Int), d.e⟩, false)
  | .inf a, .inf b => (a == b, a != b)
  | _, _ => (false, true)

/-- What a comparison of a block finds: within τ, an element that is infinite or NaN and puts it beyond (R256), and the bad codes
that its reads meet (R38, R44). -/
structure GateCmp where
  within : Bool
  nonfinite : Bool := false
  bad : Nat := 0
deriving DecidableEq, Repr, Inhabited

/-- Comparing rows r0 to r1 of entry b of a tensor with its cache (R256). -/
def State.compareRows (s : State) (die : Nat) (tau : F32) (x y : Tensor) (b r0 r1 : Nat) : GateCmp :=
  let rows := (List.range (r1 - r0)).map (r0 + ·)
  if f32IsZero tau then
    { within := rows.all fun r => s.devBytes (x.rowAddr b r) x.rowLen == s.devBytes (y.rowAddr b r) y.rowLen &&
        s.devBytes (x.scaleAddr b r 0) x.scaleRow == s.devBytes (y.scaleAddr b r 0) y.scaleRow }
  else
    let es := rows.flatMap fun r => (List.range x.cols).map fun c => (s.elemF32 die x b r c, s.elemF32 die y b r c)
    let rs := es.map fun e => withinTau tau e.1.1 e.2.1
    { within := rs.all Prod.fst, nonfinite := rs.any Prod.snd
      bad := (es.map fun e => e.1.2 + e.2.2).foldl (· + ·) 0 +
        (rows.map fun r => s.nanScales x b r x.cols + s.nanScales y b r y.cols).foldl (· + ·) 0 }

/-- The counts of a comparison on its die and its partition, and its lane slots (R266). -/
def State.countCmp (s : State) (t : TaskRec) (die vxe : Nat) (cost : RowCost) (c : GateCmp) : State :=
  ((s.bump (Addr.reuse t.p 0x28) (if c.nonfinite then 1 else 0)).addStore die { bad := c.bad }).vxeRows t false die vxe [cost]

/-- The runs of rows r0 to r1 of an entry. -/
def Tensor.rowRuns (x : Tensor) (b r0 r1 : Nat) : List (Nat × Nat) :=
  ((List.range (r1 - r0)).map (r0 + ·)).flatMap fun r => x.spanRuns b r 0 x.cols

/-- Copying rows and their scale bytes into the cache by the die's tile DMA (R146, R266). -/
def State.copyRows (s : State) (t : TaskRec) (die : Nat) (x y : Tensor) (b r0 r1 : Nat) : State :=
  let s := s.bump (Addr.seq die 0x30) (s.dmaAll [x.rowRuns b r0 r1])
  ((List.range (r1 - r0)).map (r0 + ·)).foldl (fun (s : State) r =>
    let s := s.devWriteRun die (some t.tid) (y.rowAddr b r) (s.devBytes (x.rowAddr b r) x.rowLen)
    if x.smode.blocked then s.devWriteRun die (some t.tid) (y.scaleAddr b r 0) (s.devBytes (x.scaleAddr b r 0) x.scaleRow) else s) s

/-- Bit J of a slot's map (R257). -/
def State.setReused (s : State) (p slot J : Nat) (v : Bool) : State :=
  let k := (p * 256 + slot) * 128 + J / 64
  let w := Sparse.get 0 s.maps.reuse k
  let m := 1#64 <<< (J % 64)
  { s with maps := { s.maps with reuse := Sparse.set 0 s.maps.reuse k (if v then w ||| m else w &&& ~~~ m) } }

/-- The lane slots of a comparison: two for each element under a positive τ, one under +0 (R266). -/
def gateCost (tau : F32) (n : Nat) : RowCost :=
  let k := if f32IsZero tau then 1 else 2
  { clocks := ceilDiv (k * n) 64, slots := k * n, sfu := 0 }

/-- One block of a gate (R257). -/
def State.gateBlock (s : State) (t : TaskRec) (vxe : Nat) (all : Bool) (b j : Nat) : State :=
  let p := t.p
  let J := b * t.rgBlocks + j
  let ds := s.taskDies t
  let die := ds.getD (shareOf (t.rgBatch * t.rgBlocks) ds.length J) 0
  let x := t.rgTensor 0x48 0x60
  let y := t.rgTensor 0x50 0x68
  let r0 := 128 * j
  let r1 := min (128 * j + 128) t.rgM
  let age := (s.devByte (t.f 0x80 8 + J)).toNat
  let mx := fld (t.f 0x30 4) 8 1
  let forced := !all && mx != 0 && decide (mx ≤ age)
  let c : GateCmp := if all || forced then { within := false } else s.compareRows die (t.w 0x34) x y b r0 r1
  let s := s.bump (Addr.reuse p 0x10) 1
  let s := if forced then s.bump (Addr.reuse p 0x20) 1 else s
  let s := if all || forced then s else s.countCmp t die vxe (gateCost (t.w 0x34) ((r1 - r0) * x.cols)) c
  let s := s.setReused p t.rgSlot J c.within
  if c.within then (s.bump (Addr.reuse p 0x18) 1).devWriteRun die (some t.tid) (t.f 0x80 8 + J) [BitVec.ofNat 8 (min (age + 1) 255)]
  else (s.devWriteRun die (some t.tid) (t.f 0x80 8 + J) [0#8]).copyRows t die x y b r0 r1

/-- A gate (R257). -/
def State.runGate (s : State) (t : TaskRec) (vxe : Nat) : State :=
  let p := t.p
  let slot := t.rgSlot
  let valid := s.reuseSlots.any fun x => x.p == p && x.slot == slot
  let die := (s.taskDies t).headD 0
  let x := t.rgCond 0x70
  let y := t.rgCond 0x78
  let s := (List.range t.rgBatch).foldl (fun (s : State) b =>
    let all := bit (t.f 0x30 4) 0 || !valid
    let cmp := t.hasCond && !all
    let c : GateCmp := if cmp then s.compareRows die (t.w 0x38) x y b 0 1 else { within := true }
    let s := if cmp then s.countCmp t die vxe (gateCost (t.w 0x38) x.cols) c else s
    let all := all || !c.within
    let s := (List.range t.rgBlocks).foldl (fun (s : State) j => s.gateBlock t vxe all b j) s
    if all && t.hasCond then s.copyRows t die x y b 0 1 else s) s
  let n := t.rgBatch * t.rgBlocks
  let s := if t.f 0x88 8 = 0 then s
    else
      let byte := fun i => BitVec.ofNat 8 (((List.range 8).filter fun k => 8 * i + k < n && s.reused p slot (8 * i + k)).foldl (fun a k => a + pow2 k) 0)
      s.devWriteRun die (some t.tid) (t.f 0x88 8) ((List.range (ceilDiv n 8)).map byte)
  let s := s.bump (Addr.reuse p 0x8) 1
  { s with reuseSlots := { p := p, slot := slot, batch := t.rgBatch, m := t.rgM } :: s.reuseSlots.filter fun x => !(x.p == p && x.slot == slot) }

/-- REUSE_GATE (R257). -/
def execReuseGate (tid vxe : Nat) (s : State) : Host.Outcome State Fault Refusal :=
  if 16 ≤ vxe then .fault .noSuchUnit
  else
    match s.task tid with
    | none => .next s
    | some t =>
      if !t.isKind 2 1 ∨ !s.mayRun t ∨ !((s.taskDies t).all fun d => (s.activeVxes d).contains vxe) then .next s
      else .next (s.runTask t t.rgOk (unitOf 0 ((s.taskDies t).headD 0) 0x45) (rngBlocks t.rgReads) t.rgWrites.flatten fun s => (s.runGate t vxe, 0))

/-! Finite checks (R279 to R281). -/

/-- The tensors of a check: address, elements, and format. -/
def TaskRec.fcTensors (t : TaskRec) : List (Nat × Nat × W32) :=
  (List.range (t.f 0x20 4)).map fun i => (t.f (0x40 + 24 * i) 8, t.f (0x48 + 24 * i) 8, t.w (0x50 + 24 * i))

/-- The bytes of one tensor. -/
def fcRng (x : Nat × Nat × W32) : Rng := { base := x.1, len := rowBytes ((convOf x.2.2).getD default).fmt x.2.1 }

def TaskRec.fcReads (t : TaskRec) : List Rng :=
  t.fcTensors.map fcRng ++ (if bit (t.f 0x24 4) 0 then [] else [{ base := t.f 0x30 8, len := 4 }])

def TaskRec.fcWrites (t : TaskRec) : List (List Rng) :=
  [[{ base := t.f 0x30 8, len := 4 }], if t.f 0x38 8 = 0 then [] else [{ base := t.f 0x38 8, len := 4 }]]

/-- The descriptor keeps R279 and R281, and names no reuse slot (R260). -/
def TaskRec.fcOk (t : TaskRec) : Bool :=
  t.f 6 1 == 0 && inExt (t.f 0x20 4) 8 && t.f 0x24 4 ≤ 1 && t.f 0x2C 4 == 0 && t.f 0x30 8 % 4 == 0 && t.f 0x38 8 % 4 == 0 &&
    (t.fcTensors.all fun x => x.1 % 64 == 0 && inExt x.2.1 (pow2 40) && (x.2.2 == 2#32 || x.2.2 == 3#32 || x.2.2 == 0#32)) &&
    ((List.range (t.f 0x20 4)).all fun i => t.f (0x54 + 24 * i) 4 == 0) && t.zeros (0x40 + 24 * t.f 0x20 4) 0x100 &&
    apartAll (t.fcTensors.map fcRng :: t.fcWrites)

/-- Non-finite elements of a tensor. -/
def State.nonFinite (s : State) (x : Nat × Nat × W32) : Nat :=
  let f := ((convOf x.2.2).getD default).fmt
  ((List.range x.2.1).filter fun i =>
    match (decodeElem f [] (elemCode f (fun k => s.devByte (x.1 + k)) i)).1 with
    | .fin _ _ _ => false
    | _ => true).length

/-- A check (R280). -/
def State.runCheck (s : State) (t : TaskRec) (vxe : Nat) : State :=
  let die := (s.taskDies t).headD 0
  let n := (t.fcTensors.map fun x => x.2.1).foldl (· + ·) 0
  let nf := (t.fcTensors.map s.nonFinite).foldl (· + ·) 0
  let prev := if bit (t.f 0x24 4) 0 then t.f 0x28 4 else s.devNat (t.f 0x30 8) 4
  let pass := if nf ≠ 0 then 0 else prev
  let s := (s.bump (Addr.train die 0x10) n).bump (Addr.train die 0x18) nf
  let s := s.vxeRows t false die vxe [{ clocks := ceilDiv n 64, slots := n, sfu := 0 }]
  let s := s.devWriteRun die (some t.tid) (t.f 0x30 8) (leBytes 4 pass)
  if t.f 0x38 8 = 0 then s else s.devWriteRun die (some t.tid) (t.f 0x38 8) (leBytes 4 (if pass = 0 then t.f 0x28 4 else 0))

/-- FINITE_CHECK (R280). -/
def execFiniteCheck (tid vxe : Nat) (s : State) : Host.Outcome State Fault Refusal :=
  if 16 ≤ vxe then .fault .noSuchUnit
  else
    match s.task tid with
    | none => .next s
    | some t =>
      if !t.isKind 2 2 ∨ !s.mayRun t ∨ !(s.activeVxes ((s.taskDies t).headD 0)).contains vxe then .next s
      else .next (s.runTask t t.fcOk (unitOf 0 ((s.taskDies t).headD 0) 0x45) (rngBlocks t.fcReads) t.fcWrites.flatten fun s => (s.runCheck t vxe, 0))

end Sys2Proof.Machine
end

