-- ==== Sys2Proof/Machine/Attention.lean ====
section
/-! DEFINITION. Attention (R214 to R228, R242): the descriptor, its checks, masks, the online softmax of a key block, and the
end of a unit. -/
namespace Sys2Proof.Machine
open Sys2Proof

/-! Tensors of R226 and R227. -/

/-- A tensor of R226: `rows` rows per batch entry, one entry after the other. -/
def TaskRec.aTensor (t : TaskRec) (cv tt addr scale stride rows cols : Nat) : Tensor :=
  let c := (convOf (t.w cv)).getD default
  { base := t.f addr 8, fmt := c.fmt, smode := c.smode, t := t.w tt, scale := if scale = 0 then 0 else t.f scale 8
    stride := t.f stride 4, bstride := rows * t.f stride 4, nb := t.aBatch, rows := rows, cols := cols }

def TaskRec.aQ (t : TaskRec) : Tensor := t.aTensor 0x40 0x54 0x70 0x90 0xC8 t.aM (t.aHq * t.aD)
def TaskRec.aK (t : TaskRec) : Tensor := t.aTensor 0x44 0x58 0x78 0x98 0xD0 t.aS (t.aHkv * t.aD)
def TaskRec.aV (t : TaskRec) : Tensor := t.aTensor 0x48 0x5C 0x80 0 0xD4 t.aS (t.aHkv * t.aDV)
def TaskRec.aO (t : TaskRec) : Tensor := t.aTensor 0x50 0x60 0x88 0 0xCC t.aM (t.aHq * t.aDV)

/-! Rows of the pipeline's operands. -/

/-- A row of an operand of the pipeline: a tensor, the entry and row in it, and the first column. -/
structure AtRow where
  x : Tensor
  e : Nat
  r : Nat
  c0 : Nat
deriving DecidableEq, Repr

/-- Key row j, or value row j, of a key-value head. -/
def State.keyRow (s : State) (t : TaskRec) (b g j : Nat) (val : Bool) : AtRow :=
  if t.aOp = 0 then
    ⟨if val then t.aV else t.aK, b, j, g * (if val then t.aDV else t.aD)⟩
  else
    let p := s.kvPool t
    let c := (convOf (if val then p.convV else p.convK)).getD default
    ⟨{ base := s.kvRow p (t.recAt b) g j val, fmt := c.fmt, smode := c.smode, t := if val then p.tV else p.tK, scale := 0
       stride := 0, bstride := 0, nb := 1, rows := 1, cols := if val then t.aDV else t.aD }, 0, 0, 0⟩

/-- `n` elements of an operand row from element k0. -/
def State.atOperand (s : State) (die : Nat) (a : AtRow) (k0 n : Nat) : OpRow :=
  s.storedRow a.x false a.e a.r (a.c0 + k0) ((List.range n).map fun i => s.loadAt die a.x false a.e a.r (a.c0 + k0 + i))

/-! Masks (R219 to R222). -/

/-- The key extent of a unit: the slice's for OP 0, the record's LEN after any append else. -/
def State.atLen (s : State) (t : TaskRec) (u : UnitRec) : Nat :=
  if t.aOp = 0 then u.len else s.recLen (t.recAt u.b) + t.aNew

/-- The key rows that a unit's key blocks divide: S for OP 0, whatever the length word says, the record's LEN else. -/
def State.atKeys (s : State) (t : TaskRec) (u : UnitRec) : Nat := if t.aOp = 0 then t.aS else s.atLen t u

/-- The absolute position of query row i. -/
def State.qpos (s : State) (t : TaskRec) (b i : Nat) : Int :=
  if t.aOp = 0 then ((t.f 0x64 4 + i : Nat) : Int)
  else if t.aOp = 1 then ((s.recLen (t.recAt b) + i : Nat) : Int) - (t.aM : Int)
  else ((s.recLen (t.recAt b) + i : Nat) : Int)

/-- The address of bitmap row i. -/
def TaskRec.bmRow (t : TaskRec) (b i : Nat) : Nat :=
  t.f 0xA0 8 + b * t.f 0xDC 4 * 256 + (if t.ctrl 9 9 = 1 then 0 else i) * t.f 0xD8 4

/-- Position (i, j) is kept. -/
def State.kept (s : State) (t : TaskRec) (u : UnitRec) (L i j : Nat) : Bool :=
  let q := s.qpos t u.b i
  decide (j < L) && (t.ctrl 6 6 == 0 || decide ((j : Int) ≤ q)) && (t.ctrl 7 7 == 0 || decide (q - (j : Int) < (t.f 0x68 4 : Int))) &&
    (t.ctrl 8 8 == 0 || (s.devByte (t.bmRow u.b i + j / 8)).getLsbD (j % 8))

/-- The rows (i, h) of a unit, i outer and h inner within its head group. -/
def TaskRec.atRows (t : TaskRec) (u : UnitRec) : List (Nat × Nat) :=
  (List.range 128).filterMap fun x =>
    let n := u.rb * 128 + x
    if n < t.aM * t.aG then some (n / t.aG, u.ct * t.aG + n % t.aG) else none

/-- No position of the unit in key block j is kept. -/
def State.blockSkipped (s : State) (t : TaskRec) (u : UnitRec) (j : Nat) : Bool :=
  let L := s.atLen t u
  (nubList ((t.atRows u).map Prod.fst)).all fun i => (List.range 128).all fun c => !s.kept t u L i (128 * j + c)

/-! The descriptor's checks (R226 to R229, R219, R221). -/

/-- An operand format of rate classes 1 to 5, in the scale modes that a bound allows. -/
def atOperandOk (w : W32) (blocked : Bool) : Bool :=
  match convOf w with
  | some c => c.fmt != .fp32 && c.fmt != .fp32pair && c.fmt != .int16 && c.smode != .two && (blocked || c.smode != .e8m0)
  | none => false

/-- CONV_P. -/
def convPOk (w : W32) : Bool :=
  match convOf w with
  | some c => (c.fmt == .bf16 || c.fmt == .fp16 || c.fmt == .e4m3 || c.fmt == .e5m2) && c.smode == .none && c.rnd != .sr
  | none => false

/-- A key or value format of a pool. -/
def convKvOk (w : W32) : Bool :=
  match convOf w with
  | some c => (c.fmt == .bf16 || c.fmt == .fp16 || c.fmt == .e4m3 || c.fmt == .e5m2 || c.fmt == .int8) &&
      (c.smode == .none || c.smode == .tensor)
  | none => false

def pitchOk (n : Nat) : Bool := n == 32 || n == 64 || n == 128 || n == 256 || n == 512

/-- The pool header keeps R229, for rows of D and DV elements. -/
def State.poolOk (s : State) (x : KvPool) (d dv : Nat) : Bool :=
  let bytes := fun (w : W32) n => rowBytes ((convOf w).getD default).fmt n
  inExt x.pages 16777216 && pitchOk x.pitchK && pitchOk x.pitchV && convKvOk x.convK && convKvOk x.convV &&
    bytes x.convK d ≤ x.pitchK && bytes x.convV dv ≤ x.pitchV && s.devNat (x.addr + 0x34) 12 == 0

/-- A record keeps R231. -/
def State.recOk (s : State) (r : Nat) : Bool :=
  s.recLen r ≤ 1048576 && s.devNat (r + 4) 4 ≤ 1 && s.devNat (r + 0x14) 4 == 0 && s.devNat (r + 0x20) 32 == 0

/-- The rows that an append copies: keys or values of every head. -/
def State.newTensor (s : State) (t : TaskRec) (val : Bool) : Tensor :=
  let p := s.kvPool t
  let c := (convOf (if val then p.convV else p.convK)).getD default
  { base := t.f (if val then 0xC0 else 0xB8) 8, fmt := c.fmt, smode := c.smode, t := f32One, scale := 0
    stride := t.f (if val then 0xD4 else 0xD0) 4, bstride := t.aM * t.f (if val then 0xD4 else 0xD0) 4, nb := t.aBatch, rows := t.aM
    cols := t.aHkv * (if val then t.aDV else t.aD) }

/-- The structures of a pool and of the task's records (R311). -/
def State.poolRngs (s : State) (t : TaskRec) : List Rng :=
  let p := s.kvPool t
  let recs := (List.range t.aBatch).map t.recAt
  [{ base := p.addr, len := 64 }, { base := p.kBase, len := 16384 * p.pages }, { base := p.vBase, len := 16384 * p.pages },
   { base := p.state, len := 16 * p.pages }, { base := t.f 0x80 8, len := 64 * t.aBatch }] ++
    recs.map fun r => ({ base := s.devNat (r + 8) 8, len := 4 * s.recCap r * max 1 t.aHkv } : Rng)

/-- What an attention task reads. -/
def State.atReads (s : State) (t : TaskRec) : List Rng :=
  let bm : List Rng := if t.ctrl 8 8 = 0 then [] else
    [{ base := t.f 0xA0 8, nb := t.aBatch, bstride := 256 * t.f 0xDC 4, n := if t.ctrl 9 9 = 1 then 1 else t.aM, stride := t.f 0xD8 4
       len := ceilDiv (if t.aOp = 0 then t.aS else 1048576) 8 }]
  let len : List Rng := if t.ctrl 11 11 = 1 then [{ base := t.f 0xB0 8, len := 4 }] else []
  if t.aOp = 0 then t.aQ.rngs ++ t.aK.rngs ++ t.aV.rngs ++ bm ++ len
  else if t.aOp = 3 then s.poolRngs t
  else t.aQ.rngs ++ s.poolRngs t ++ bm ++ (if t.aOp = 2 then (s.newTensor t false).rngs ++ (s.newTensor t true).rngs else [])

/-- What it writes: O and the STAT records. -/
def TaskRec.atWrites (t : TaskRec) : List Rng :=
  if t.aOp = 3 then []
  else t.aO.rngs ++ (if t.ctrl 10 10 = 1 then [{ base := t.f 0xA8 8, len := 8 * t.aBatch * t.aM * t.aHq }] else [])

/-- The descriptor keeps R221, R226 to R231 and R260. -/
def State.atOk (s : State) (t : TaskRec) : Bool :=
  let p := s.kvPool t
  let recs := (List.range t.aBatch).map t.recAt
  let base := t.f 1 1 == 0 && inExt t.aBatch 65536 && t.ctrl 63 12 == 0 && t.ctrl 5 2 == 0 && t.zeros 0xE0 0x100 &&
    (t.f 6 1 == 0 || (t.aOp == 0 && s.slotMatches t.p (t.f 6 1) t.aBatch t.aM))
  if t.aOp = 3 then
    base && t.f 0x30 8 == 3 && t.zeros 0x20 0x30 && t.zeros 0x3C 0x78 && t.zeros 0x88 0x100 && t.aligned [0x78, 0x80] &&
      s.poolOk p 1 1 && recs.all s.recOk
  else
    let op0 := t.aOp == 0
    let ins := s.atReads t
    base && inExt t.aM 1048576 && (if op0 then inExt t.aS 1048576 else t.aS == 0) && inExt t.aD 256 && t.aD % 32 == 0 &&
      inExt t.aDV 256 && inExt t.aHq 256 && t.aG != 0 && t.aHq % t.aG == 0 && (op0 || t.ctrl 11 11 == 0) &&
      atOperandOk (t.w 0x40) true && convPOk (t.w 0x4C) &&
      (if op0 then atOperandOk (t.w 0x44) true && atOperandOk (t.w 0x48) false else t.w 0x44 == 0#32 && t.w 0x48 == 0#32) &&
      ((convOf (t.w 0x50)).map fun c => (c.smode == .none || c.smode == .tensor) && c.fmt != .int16).getD false &&
      (t.ctrl 7 7 == 0 || inExt (t.f 0x68 4) 1048576) && (t.aOp != 2 || t.aNew == t.aM) &&
      t.aligned [0x70, 0x78, 0x80, 0x88, 0x90, 0x98, 0xA0, 0xA8, 0xB0, 0xB8, 0xC0] && ([0xD0, 0xD4, 0xD8].all fun o => t.f o 4 % 64 == 0) &&
      t.aQ.strideOk && t.aO.strideOk && (!op0 || (t.aK.strideOk && t.aV.strideOk)) &&
      (t.aOp != 2 || ((s.newTensor t false).strideOk && (s.newTensor t true).strideOk)) &&
      (t.ctrl 8 8 == 0 || roundUp (ceilDiv (if op0 then t.aS else 1048576) 8) 64 ≤ t.f 0xD8 4) &&
      (op0 || (s.poolOk p t.aD t.aDV && recs.all s.recOk)) &&
      indexOk (isSr (t.w 0x50)) (t.aBatch * t.aM * (t.aHq * t.aDV)) && !rngsMeet t.atWrites ins

/-- The records of an ATTEND_PAGED hold its query rows (R219). It is looked at when the task takes effect, after every earlier task
on the records (R232). -/
def State.pagedOk (s : State) (t : TaskRec) : Bool :=
  (List.range t.aBatch).all fun b => decide (t.aM ≤ s.recLen (t.recAt b))

/-! Units (R215, R224). -/

/-- The units of a task: batch entries, within them key-value heads, within them query blocks; dealt to the dies as R123
deals row blocks. A die without a pipeline in service passes its units to the others. -/
def State.atUnits (s : State) (t : TaskRec) : List UnitRec :=
  let ds := s.taskDies t
  let up := ds.filter s.diePipes
  let qb := ceilDiv (t.aM * t.aG) 128
  let n := t.aBatch * t.aHkv * qb
  (List.range n).map fun x =>
    let d := ds.getD (shareOf n ds.length x) 0
    { uid := x, b := x / (t.aHkv * qb), ct := x / qb % t.aHkv, rb := x % qb
      die := if up.contains d then d else up.getD (x % max 1 up.length) d }

/-- Query row i of a batch entry lies in a block that the task's reuse scope keeps (R257, R261). -/
def State.atReused (s : State) (t : TaskRec) (b i : Nat) : Bool :=
  t.f 6 1 != 0 && s.reused t.p (t.f 6 1) (b * ceilDiv t.aM 128 + i / 128)

/-- The task starts its units, those skipped whose query rows a reuse scope keeps all (R261). -/
def State.startAttn (s : State) (t : TaskRec) : State :=
  if (s.taskDies t).any s.diePipes then
    let us := (s.atUnits t).map fun u =>
      if (t.atRows u).all fun ih => s.atReused t u.b ih.1 then { u with phase := .skipped } else u
    ((s.bump (Addr.reuse t.p 0x30) (us.filter fun u => u.phase == .skipped).length).updTask t.tid fun t =>
      { t with phase := .running, units := us }).settle t.tid
  else s.endTask t.tid 0x21

/-- ATTEND (R215, R224). -/
def execAttend (tid : Nat) (s : State) : Host.Outcome State Fault Refusal :=
  match s.task tid with
  | none => .next s
  | some t =>
    if t.phase ≠ .ready ∨ t.f 0 1 ≠ 1 ∨ t.aOp ≠ 0 then .next s
    else if s.atOk t then .next (s.startAttn t)
    else .next (s.endTask tid 0x10)

/-! What a unit reads (R221, R233, R355). -/

/-- The runs of a unit's query rows. -/
def TaskRec.atRunsQ (t : TaskRec) (u : UnitRec) : List (Nat × Nat) :=
  (t.atRows u).flatMap fun ih => t.aQ.spanRuns u.b ih.1 (ih.2 * t.aD) (ih.2 * t.aD + t.aD)

/-- The runs of the keys and values of key block j below the length. -/
def State.atRunsKv (s : State) (t : TaskRec) (u : UnitRec) (j : Nat) : List (Nat × Nat) :=
  let L := s.atLen t u
  ((List.range 128).filterMap fun c => if 128 * j + c < L then some (128 * j + c) else none).flatMap fun k =>
    [false, true].flatMap fun val =>
      let a := s.keyRow t u.b u.ct k val
      a.x.spanRuns a.e a.r a.c0 (a.c0 + if val then t.aDV else t.aD)

/-- The runs of the bitmap of key block j, 16 bytes of each of its rows. -/
def State.atRunsBm (s : State) (t : TaskRec) (u : UnitRec) (j : Nat) : List (Nat × Nat) :=
  let bytes := ceilDiv (if t.aOp = 0 then t.aS else 1048576) 8
  if t.ctrl 8 8 = 0 ∨ s.atLen t u ≤ 128 * j then []
  else (nubList ((t.atRows u).map Prod.fst)).map fun i => (t.bmRow u.b i + 16 * j, min 16 (bytes - 16 * j))

/-- The blocks that the next key block takes: its bitmap, by which the sequencer decides (R222), and where it is not skipped
the query rows, the keys and the values. -/
def State.keyNeeds (s : State) (t : TaskRec) (u : UnitRec) : List Nat :=
  runBlocks (s.atRunsBm t u u.next ++
    (if s.blockSkipped t u u.next then [] else t.atRunsQ u ++ s.atRunsKv t u u.next))

/-- The runs of the keys and values of an attempt: those of the key blocks that are not skipped. -/
def State.atRunsKeys (s : State) (t : TaskRec) (u : UnitRec) : List (Nat × Nat) :=
  ((List.range (ceilDiv (s.atKeys t u) 128)).filter fun j => !s.blockSkipped t u j).flatMap (s.atRunsKv t u)

/-- The runs that an attempt of an attention unit reads. -/
def State.atRuns (s : State) (t : TaskRec) (u : UnitRec) : List (Nat × Nat) :=
  t.atRunsQ u ++ (List.range (ceilDiv (s.atKeys t u) 128)).flatMap (s.atRunsBm t u) ++ s.atRunsKeys t u

/-- The blocks that they lie in, which must have passed their checks before the unit's store. -/
def State.atNeeded (s : State) (t : TaskRec) (u : UnitRec) : List Nat := runBlocks (s.atRuns t u)

/-- The blocks of an attempt that have not arrived. -/
def State.atAwaited (s : State) (t : TaskRec) (u : UnitRec) : List Nat := (s.atNeeded t u).filter fun b => !u.arrived.contains b

/-- The bytes that the gathered rows of a unit take in the tile store (R233). -/
def State.stagingBytes (s : State) (t : TaskRec) (u : UnitRec) : Nat :=
  if t.aOp = 0 then 0
  else 256 * ((s.keyRow t u.b u.ct 0 false).x.rowLen + (s.keyRow t u.b u.ct 0 true).x.rowLen)

/-- The pipeline of a die on which a unit may start: in service, both of its engines free, and by R242 the same one again
or another one. -/
def State.pipeFor (s : State) (u : UnitRec) (d r : Nat) : Bool :=
  let a := s.rd (Addr.atp d r 0) 23 16
  let b := s.rd (Addr.atp d r 0) 15 8
  let idle := fun k => s.mxeActive d k && s.slotsUsed d k == 0
  s.pipeUp d r && idle a && idle b && (!(u.redo == 1 && s.pipeUp u.die u.eng) || (d == u.die && r == u.eng)) &&
    (u.redo != 2 || r != u.movedFrom)

/-- The extent that a unit's slice on a die gives it (R119, R220). -/
def State.atExtent (s : State) (t : TaskRec) (u : UnitRec) (d : Nat) : Nat :=
  if t.aOp = 0 then (t.sliceOn d).getD 0 else s.recLen (t.recAt u.b) + t.aNew

/-- The unit as its next issue on a die makes or resumes it. -/
def State.atArmed (s : State) (t : TaskRec) (u : UnitRec) (d : Nat) : UnitRec :=
  if u.phase = .halted ∧ u.die = d then u else { u with die := d, len := s.atExtent t u d, arrived := [] }

/-- A unit may go to a die: its own, or while that has no pipeline in service any other one of the task (R224). -/
def State.dieTakes (s : State) (t : TaskRec) (u : UnitRec) (d : Nat) : Bool :=
  u.die == d || (!s.diePipes u.die && (s.taskDies t).contains d)

/-- A unit may be issued or resumed on pipeline r of die d now: a halted one on its own pipeline while that is in service, every page
that it still reads can be read (R24) or a block is lost, and the tile store has room for its gathered rows (R233). -/
def State.attnFits (s : State) (t : TaskRec) (u : UnitRec) (d r : Nat) : Bool :=
  let x := s.atArmed t u d
  let bs := s.atAwaited t x
  t.f 0 1 == 1 && t.phase == .running && s.serving t.p && (t.sliceOn d).isSome && t.unhalted d && s.windowOk t d &&
    (u.phase == .todo || u.phase == .failed || u.phase == .halted) && s.dieTakes t u d && s.pipeFor u d r &&
    (u.phase != .halted || (u.die == d && u.eng == r) || !s.pipeUp u.die u.eng) &&
    ((bs.any fun b => s.lost b) || bs.all fun b => s.readable (b / 64)) &&
    s.hasRoom t.p d (s.stagingBytes t u - (if u.heldAt == d then u.held else 0))

/-- Starting an attempt of a unit from its first key block (R203, R215): two engines are charged the 128 clocks of its start
(R223). -/
def State.startUnit (s : State) (t : TaskRec) (u : UnitRec) (r : Nat) : State :=
  let n := (t.atRows u).length
  let last := ceilDiv (s.atKeys t u) 128
  let s := (s.bump (Addr.atp u.die r 0x10) 128).chargeMxe t u.again 256
  s.putUnit t.tid { u with
    eng := r, attempt := u.attempt + 1, phase := if last = 0 then .summed else .issued, next := 0, first := 0, last := last
    sat := 0, redo := 0, epochHeld := false, bank := if u.bank.isSome then u.bank else some (s.ftActive u.die)
    held := s.stagingBytes t u, heldAt := u.die, why := 0
    acc := [List.replicate n ⟨f32Inf true, f32Zero⟩, List.replicate n ⟨f32Zero, f32Zero⟩, List.replicate (n * t.aDV) ⟨f32Zero, f32Zero⟩] }

/-- Giving an attention unit its first or next attempt on a pipeline, or resuming it after a halt (R34, R204, R215, R332, R429). A
halted unit that goes to another die begins again there. -/
def State.issueAttn (s : State) (t : TaskRec) (u : UnitRec) (d r : Nat) : State :=
  if !s.attnFits t u d r then s
  else
    let x := s.atArmed t u d
    match (s.atAwaited t x).find? fun b => s.lost b with
    | some b => s.lostInput t b
    | none =>
      if u.phase = .halted ∧ u.die = d then s.putUnit t.tid { u with phase := .issued, eng := r }
      else if s.epochAhead t d then s.holdEpoch t { u with die := d }
      else s.startUnit t (if u.phase = .halted then { x with again := true } else x) r

/-! Key blocks (R215, R216, R223). -/

/-- The state of one query row: the running maximum, the denominator and the output accumulators. -/
structure AtState where
  m : F32
  l : Pair
  o : List F32
deriving DecidableEq, Repr, Inhabited

/-- What the softmax of one row of a key block gives: the new state before the output product, the probabilities, and what
it counts. -/
structure AtStep where
  st : AtState
  p : List F32
  rescaled : Bool
  ft : FtCnt
  cnt : Cnt
deriving DecidableEq, Repr, Inhabited

/-- The online softmax of one row (R215, R216): `xs` are the scaled scores, −infinity where masked. -/
def atSoftmax (v : FtView) (tab : Fmt → List W32) (convP : W32) (st : AtState) (xs : List F32) : AtStep :=
  let mb := xs.foldl fmax (f32Inf true)
  let mn := fmax st.m mb
  let rise := flt st.m mn && st.m != f32Inf true
  let a := if rise then evalFn v 1 (fsub st.m mn) else (f32One, {})
  let l := if rise then
      let q := fastTwoSum (fmul st.l.hi a.1) (fmul st.l.lo a.1)
      (⟨q.1, q.2⟩ : Pair)
    else st.l
  let o := if rise then st.o.map fun x => fmul x a.1 else st.o
  let one := fun (x : F32) =>
    if x == f32Inf true then (f32Zero, ({} : FtCnt), ({} : Cnt))
    else
      let e := evalFn v 1 (fsub x mn)
      let r := stageRound tab convP f32One e.1
      (r.1, e.2, r.2)
  let ps := xs.map one
  { st := { m := mn, l := ps.foldl (fun l p => pairAdd l ⟨p.1, f32Zero⟩) l, o := o }
    p := ps.map fun p => p.1, rescaled := rise
    ft := ps.foldl (fun c p => c.add p.2.1) a.2, cnt := ps.foldl (fun c p => c.add p.2.2) {} }

/-- One drained score (R215, R86): the chunks of D, then the drain factor, with the cell-chunks whose window dropped a
bit. -/
def atScore (factor : Option F32) (q k : List OpRow) : F32 × Nat :=
  let cs := (List.range q.length).map fun i => cellChunk [(false, q.getD i default, k.getD i default)]
  ((drainAcc factor (cs.foldl (fun a c => accStep false a c.1) ⟨f32Zero, f32Zero⟩)).hi, (cs.filter fun c => c.2).length)

/-- The per-tensor factor of one or two operands (R86). -/
def atFactor (a b : Option F32) : Option F32 :=
  if a.isNone ∧ b.isNone then none else some (drainFactor (a.getD f32One) (b.getD f32One))

def tensorScale (x : Tensor) : Option F32 := if x.smode.perTensor then some x.t else none

/-- The state of a unit's rows. -/
def UnitRec.atStates (u : UnitRec) (n dv : Nat) : List AtState :=
  (List.range n).map fun i =>
    { m := ((u.acc.getD 0 []).getD i default).hi, l := (u.acc.getD 1 []).getD i default
      o := (((u.acc.getD 2 []).drop (i * dv)).take dv).map Pair.hi }

/-- What one key block gives. -/
structure AtBlock where
  states : List AtState
  truncS : Nat
  truncO : Nat
  rescales : Nat
  ft : FtCnt
  store : Cnt
  bad : Nat
  /-- The first chunk of the operands of the score engine and of the output engine, which the array checks cover (R242). -/
  scores : List OpSide × List OpSide
  outs : List OpSide × List OpSide
deriving DecidableEq, Repr, Inhabited

/-- Processing key block j of a unit (R215). Keys at or beyond the length read as +0 in the output product. -/
def State.keyBlock (s : State) (t : TaskRec) (u : UnitRec) (j : Nat) : AtBlock :=
  let rows := t.atRows u
  let L := s.atLen t u
  let keys := (List.range 128).map fun c => 128 * j + c
  let live := keys.filter fun k => decide (k < L)
  let dch := t.aD / 32
  let qRow := fun (ih : Nat × Nat) => (⟨t.aQ, u.b, ih.1, ih.2 * t.aD⟩ : AtRow)
  let ops := fun (a : AtRow) => (List.range dch).map fun c => s.atOperand u.die a (32 * c) 32
  let qs := rows.map fun ih => ops (qRow ih)
  let ks := live.map fun k => ops (s.keyRow t u.b u.ct k false)
  let vRow := fun k => s.keyRow t u.b u.ct k true
  let vx := (vRow (live.headD 0)).x
  let factor := atFactor (tensorScale t.aQ) (tensorScale (s.keyRow t u.b u.ct (live.headD 0) false).x)
  let scores := qs.map fun q => ks.map fun k => atScore factor q k
  let ninf := f32Inf true
  let xs := (List.range rows.length).map fun r => (List.range 128).map fun c =>
    if s.kept t u L (rows.getD r (0, 0)).1 (128 * j + c) then fmul ((scores.getD r []).getD c (f32Zero, 0)).1 (t.w 0x3C) else ninf
  let fv := s.ftView u.die (u.bank.getD 0)
  let st := u.atStates rows.length t.aDV
  let steps := (List.range rows.length).map fun r => atSoftmax fv (s.tab u.die) (t.w 0x4C) (st.getD r default) (xs.getD r [])
  let pf := ((convOf (t.w 0x4C)).getD default).fmt
  let zero : Xv := .fin false 0 0
  let vs := live.map fun k => s.atOperand u.die (vRow k) 0 t.aDV
  let vCol := fun (c k : Nat) => (⟨vx.fmt, vx.smode, (List.range 32).map fun i => ((vs[32 * c + i]?).map fun o => o.vals.getD k zero).getD zero,
    oneXv, oneXv, {}, 0⟩ : OpRow)
  let cols := (List.range t.aDV).map fun k => (List.range 4).map fun c => vCol c k
  let pRow := fun (x : AtStep) (c : Nat) => (⟨pf, .none, ((x.p.drop (32 * c)).take 32).map f32Val, oneXv, oneXv, {}, 0⟩ : OpRow)
  let side := fun (l : List (List OpRow)) => l.map fun cs => ({ rows := cs.take 1 } : OpSide)
  let outRow := fun (x : AtStep) =>
    let ps := (List.range 4).map (pRow x)
    (List.range t.aDV).map fun k =>
      let cs := (List.range 4).map fun c => cellChunk [(false, ps.getD c default, (cols.getD k []).getD c default)]
      ((cs.foldl (fun (a : Pair) c => accStep false a c.1) ⟨x.st.o.getD k f32Zero, f32Zero⟩).hi, (cs.filter fun c => c.2).length)
  let outs := steps.map outRow
  let sumBad := fun (l : List OpRow) => (l.map OpRow.bad).foldl (· + ·) 0
  { states := (List.range rows.length).map fun r =>
      { (steps.getD r default).st with o := (outs.getD r []).map Prod.fst }
    truncS := (scores.map fun l => (l.map Prod.snd).foldl (· + ·) 0).foldl (· + ·) 0
    truncO := (outs.map fun l => (l.map Prod.snd).foldl (· + ·) 0).foldl (· + ·) 0
    rescales := (steps.filter fun x => x.rescaled).length
    ft := steps.foldl (fun c x => c.add x.ft) {}, store := steps.foldl (fun c x => c.add x.cnt) {}
    bad := ((qs ++ ks).map sumBad).foldl (· + ·) (sumBad vs)
    scores := (side qs, side ks)
    outs := (steps.map fun x => { rows := [pRow x 0] }, side cols) }

/-- The formats of Q or K, and of V (R223). -/
def State.atFmt (s : State) (t : TaskRec) (val : Bool) : Fmt := (s.keyRow t 0 0 0 val).x.fmt

/-- C1 and C2 of R223. -/
def State.atClocks (s : State) (t : TaskRec) : Nat × Nat :=
  let pf := ((convOf (t.w 0x4C)).getD default).fmt
  (t.aD / 32 * productChunkClocks t.aQ.fmt (s.atFmt t false) 0, 4 * productChunkClocks pf (s.atFmt t true) 0 * ceilDiv t.aDV 128)

/-- What an attempt of a unit met ends it (R187, R242), `planes` being the passes that the array checks compare and `scores` and
`outs` their operands; faults that change no residue show nowhere. An uncorrectable table word is handled as an RSU parity error. -/
def State.atFault (s : State) (t : TaskRec) (u : UnitRec) (planes : List (List (Bool × Nat × Nat)))
    (scores outs : List OpSide × List OpSide) (fault : Option UnitFault) : Option State :=
  let rsu := fun row => some ((s.event 0x12 (unitOf 0 u.die (0x30 + u.eng)) t.p row t.seq).failAttn t u none)
  match fault with
  | none => none
  | some (.parity row) => rsu row
  | some (.table row) => rsu row
  | some (.arrayCheck out fs) =>
    let x := if out then outs else scores
    match chunkFound fs planes x.1 x.2 with
    | none => none
    | some (kind, row, col) =>
      let a := s.reg (Addr.atp u.die u.eng 0)
      let k := if out then getBits a 15 8 else getBits a 23 16
      some ((s.recordCheck t { u with eng := k } kind row col).failAttn t u (some k))

/-- Words that a step of a unit read corrected (R93, R187). -/
def State.rsuCorr (s : State) (u : UnitRec) (env : RsuEnv) : State :=
  let a := Addr.atp u.die u.eng 0
  ((s.bump (Addr.mxe u.die (s.rd a 23 16) 0x48) env.corrS).bump (Addr.mxe u.die (s.rd a 15 8) 0x48) env.corrO).bump
    (Addr.ft u.die 0x30) env.ftCorr

/-- The page-list entries of the keys of a block, whose pages the task reads. -/
def State.keyEntries (s : State) (t : TaskRec) (u : UnitRec) (j : Nat) : List Nat :=
  if t.aOp = 0 then []
  else
    let n := max 1 (s.kvPool t).tpp
    nubList (((List.range 128).filterMap fun c => if 128 * j + c < s.atLen t u then some ((128 * j + c) / n) else none).map fun e =>
      s.entryAt (t.recAt u.b) u.ct e)

/-- The unit after its next key block. -/
def UnitRec.nextBlock (u : UnitRec) : UnitRec :=
  { u with next := u.next + 1, phase := if u.next + 1 = u.last then .summed else .issued }

/-- A key block that the pipeline processes: what it counts, and the unit's new state, or its failure. -/
def State.doKeyBlock (s : State) (t : TaskRec) (u : UnitRec) (wait : Nat) (env : RsuEnv) : State :=
  let a := Addr.atp u.die u.eng
  let o := s.keyBlock t u u.next
  let es := s.keyEntries t u u.next
  let c := s.atClocks t
  let busy := max c.1 (max 128 c.2)
  let ks := s.rd (a 0) 23 16
  let ko := s.rd (a 0) 15 8
  let s := (((s.bump (Addr.mxe u.die ks 0x20) c.1).bump (Addr.mxe u.die ks 0x30) o.truncS).bump (Addr.mxe u.die ko 0x20) c.2).bump
    (Addr.mxe u.die ko 0x30) o.truncO
  let s := ((((s.addLoad u.die { bad := o.bad }).addStore u.die o.store).addFt u.die o.ft).bump (a 0x30) o.rescales).rsuCorr u env
  let s := ((s.bump (a 0x20) 1).bump (a 0x10) (busy + wait)).chargeMxe t u.again (2 * (busy + wait))
  let s := s.updTask t.tid fun t => { t with kvUsed := nubList (t.kvUsed ++ es) }
  match s.atFault t u [[(false, 0, 0)]] o.scores o.outs env.fault with
  | some s' => s'
  | none =>
    let row := fun (f : AtState → Pair) => o.states.map f
    s.putUnit t.tid { u.nextBlock with
      acc := [row fun x => ⟨x.m, f32Zero⟩, row fun x => x.l, o.states.flatMap fun x => x.o.map fun v => ⟨v, f32Zero⟩] }

/-- ATTENTION_KEY_BLOCK (R187, R215, R222, R242, R355, R404): the unit's next key block, whose blocks have arrived, skipped where no
position of it is kept. -/
def execAttentionKeyBlock (tid uid wait : Nat) (env : RsuEnv) (s : State) : Host.Outcome State Fault Refusal :=
  if !env.placed then .fault .noSuchUnit
  else
    match s.task tid with
    | none => .next s
    | some t =>
      match t.unit uid with
      | none => .next s
      | some u =>
        if u.phase ≠ .issued ∨ t.f 0 1 ≠ 1 ∨ !(u.next < u.last) ∨ !((s.keyNeeds t u).all fun b => u.arrived.contains b) then .next s
        else if s.blockSkipped t u u.next then .next ((s.bump (Addr.atp u.die u.eng 0x28) 1).putUnit tid u.nextBlock)
        else .next (s.doKeyBlock t u wait env)

/-! The end of a unit (R217). -/

/-- What a row writes: its outputs, its STAT record, and whether it is empty or non-finite. -/
structure AtFinal where
  o : List F32
  m : F32
  l : F32
  empty : Bool
  nonfinite : Bool
  ft : FtCnt
deriving DecidableEq, Repr, Inhabited

/-- Normalising one row. -/
def atNormalise (v : FtView) (factor : Option F32) (x : AtState) : AtFinal :=
  let nan := f32IsNaN x.l.hi || x.o.any f32IsNaN
  if f32Finite x.m && !nan then
    let r := evalFn v 4 x.l.hi
    { o := x.o.map fun a => fmul (drainAcc factor ⟨a, f32Zero⟩).hi r.1, m := x.m, l := x.l.hi, empty := false, nonfinite := false, ft := r.2 }
  else if x.m == f32Inf true then
    { o := x.o.map fun _ => f32Zero, m := f32Inf true, l := f32Zero, empty := true, nonfinite := false, ft := {} }
  else { o := x.o.map fun _ => f32NaN, m := f32NaN, l := f32NaN, empty := false, nonfinite := true, ft := {} }

/-- The pages that a unit stores to. -/
def State.atPages (s : State) (t : TaskRec) (u : UnitRec) : List Nat :=
  let rows := (t.atRows u).filter fun ih => !s.atReused t u.b ih.1
  nubList ((runBlocks (rows.flatMap fun ih => t.aO.spanRuns u.b ih.1 (ih.2 * t.aDV) (ih.2 * t.aDV + t.aDV) ++
    (if t.ctrl 10 10 = 0 then [] else [(t.f 0xA8 8 + 8 * ((u.b * t.aM + ih.1) * t.aHq + ih.2), 8)]))).map fun b => b / 64)

/-- Storing the rows of a unit, but for those that a reuse scope keeps, which count as computed rows (R217, R261). -/
def State.atStore (s : State) (t : TaskRec) (u : UnitRec) (rows : List (Nat × Nat)) (fs : List AtFinal) : State :=
  let c := (convOf (t.w 0x50)).getD default
  let x := t.aO
  let one := fun (q : State × Cnt × List Nat) (r : Nat) =>
    let ih := rows.getD r (0, 0)
    let f := fs.getD r default
    let z := q.1.storeRow t u.die x c u.b ih.1 (u.b * t.aM + ih.1) x.cols
      ((List.range f.o.length).map fun k => (ih.2 * t.aDV + k, Src.f32 (f.o.getD k f32Zero)))
    let keep := s.atReused t u.b ih.1
    let s := if keep then q.1 else q.1.devWrite u.die (some t.tid) z.bytes
    let s := if t.ctrl 10 10 = 0 || keep then s else
      s.devWriteRun u.die (some t.tid) (t.f 0xA8 8 + 8 * ((u.b * t.aM + ih.1) * t.aHq + ih.2)) (leBytes 4 f.m.toNat ++ leBytes 4 f.l.toNat)
    (s, q.2.1.add z.cnt, q.2.2 ++ z.srs)
  let r := (List.range rows.length).foldl one (s, {}, [])
  (r.1.addStore u.die r.2.1).bump (Addr.rng t.p 0x10) (drawCount (r.2.2.map fun e => (c.stream, e)))

/-- An append writes the new LEN of every record as an output of the task (R234). -/
def State.atLens (s : State) (t : TaskRec) : State :=
  if t.aOp = 2 then
    (List.range t.aBatch).foldl (fun (s : State) b =>
      let r := t.recAt b
      s.devWriteRun ((s.taskDies t).headD 0) (some t.tid) r (leBytes 4 (s.recLen r + t.aNew))) s
  else s

/-- The task ends when its last unit does. -/
def State.atSettle (s : State) (tid : Nat) : State :=
  match s.task tid with
  | none => s
  | some t =>
    if t.phase = .running ∧ t.units.all (fun u => u.phase == .done || u.phase == .skipped) then (s.atLens t).settle tid else s

/-- The final drain of a unit: what it counts, and its stores, or its failure. -/
def State.finishUnit (s : State) (t : TaskRec) (u : UnitRec) (env : RsuEnv) : State :=
  let a := Addr.atp u.die u.eng
  let clocks := 128 * ceilDiv t.aDV 128
  let s := ((s.bump (a 0x10) clocks).chargeMxe t u.again (2 * clocks)).rsuCorr u env
  match s.atFault t u [] ([], []) ([], []) env.fault with
  | some s' => s'
  | none =>
    let rows := t.atRows u
    let fv := s.ftView u.die (u.bank.getD 0)
    let factor := atFactor none (tensorScale (s.keyRow t u.b u.ct 0 true).x)
    let fs := (u.atStates rows.length t.aDV).map (atNormalise fv factor)
    let s := (((s.bump (a 0x18) 1).bump (a 0x38) (fs.filter AtFinal.empty).length).bump (a 0x40) (fs.filter AtFinal.nonfinite).length).addFt
      u.die (fs.foldl (fun c f => c.add f.ft) {})
    let s := match (if u.moved then u.badEng else none) with
      | some k => s.decideRetire u.die k
      | none => s
    let s := s.atStore t u rows fs
    (s.putUnit t.tid { u with phase := .done, acc := [], bank := none, held := 0 }).atSettle t.tid

/-- ATTENTION_UNIT_FINAL (R187, R217, R223, R242, R322, R355): every block of the attempt has arrived, and every page that it stores
to has a frame or can take one. -/
def execAttentionUnitFinal (tid uid : Nat) (env : RsuEnv) (s : State) : Host.Outcome State Fault Refusal :=
  if !env.placed then .fault .noSuchUnit
  else
    match s.task tid with
    | none => .next s
    | some t =>
      match t.unit uid with
      | none => .next s
      | some u =>
        if u.phase ≠ .summed ∨ t.f 0 1 ≠ 1 ∨ !((s.atAwaited t u).isEmpty) ∨ !s.canWriteAll u.die (s.atPages t u) then .next s
        else .next (s.finishUnit t u env)

end Sys2Proof.Machine
end

