-- ==== Sys2Proof/Machine/Kv.lean ====
section
/-! DEFINITION. The key-value cache (R229 to R241): paged attention, allocation, eviction, release, the deadlock break and
recompute, and the arrival of operand blocks at their consumer (R355, R427, R429). -/
namespace Sys2Proof.Machine
open Sys2Proof

/-! Pages (R235 to R237). -/

/-- How old a page is (R237). -/
def State.pageAge (s : State) (x : KvPool) (p : Nat) : Nat :=
  ((s.reg 0x100008).toNat + pow2 32 - s.lastUse x p) % pow2 32

/-- The oldest unpinned page of a pool (R236, R237). -/
def State.oldestPage (s : State) (x : KvPool) : Option Nat :=
  let ps := (List.range x.pages).filter fun p => s.pageOwnerOf x p != 0 && !s.kvPinned (s.pageOwnerOf x p)
  ps.foldl (fun (best : Option Nat) p =>
    match best with
    | none => some p
    | some q => if s.pageAge x q < s.pageAge x p then some p else best) none

/-- Giving a page to an entry of a record. -/
def State.givePage (s : State) (x : KvPool) (page entry r : Nat) (present : Bool) : State :=
  let s := s.fwWrite (x.state + 16 * page) 8 entry
  let s := s.fwWrite entry 4 (page + if present then pow2 31 else 0)
  { s with kvRecs := { entry := entry, record := r, pool := x.addr } :: s.kvRecs.filter fun y => y.entry != entry }

/-- Securing one entry by R236; none when no page can be had. -/
def State.secure (s : State) (p : Nat) (x : KvPool) (entry r : Nat) (present : Bool) : Option State :=
  let free := s.devNat (x.addr + 0x30) 4
  let first := if 0 < free then (List.range x.pages).find? fun q => s.pageOwnerOf x q == 0 else none
  match first with
  | some q => some (((s.fwWrite (x.addr + 0x30) 4 (free - 1)).bump (Addr.kv p 0x8) 1).givePage x q entry r present)
  | none =>
    match s.oldestPage x with
    | some q => some (((s.dropEntry (s.pageOwnerOf x q)).bump (Addr.kv p 0x10) 1).givePage x q entry r present)
    | none => none

/-- Freeing a page (R235). -/
def State.freePage (s : State) (p : Nat) (x : KvPool) (page : Nat) : State :=
  ((s.dropEntry (s.pageOwnerOf x page)).unownPage p x page).bump (Addr.kv p 0x20) 1

/-- The task's turn to take pages of its pool: no task that the graph engine issued before it waits for one (R232). -/
def State.kvTurn (s : State) (t : TaskRec) : Bool :=
  (s.kvWait.takeWhile fun k => k != t.tid).all fun k =>
    s.tasks.all fun y => y.tid != k || y.phase != .stalled || y.f 0x78 8 != t.f 0x78 8

/-- The task stalls for a page of its pool (R236), `mark` 1 at its admission (R238). -/
def State.kvStall (s : State) (t : TaskRec) (mark : Nat) : State :=
  let s := s.updTask t.tid fun t => { t with phase := .stalled, mark := mark }
  { s with kvWait := if s.kvWait.contains t.tid then s.kvWait else s.kvWait ++ [t.tid] }

/-- The task no longer waits for a page. -/
def State.kvServed (s : State) (t : TaskRec) (phase : TPhase) : State :=
  let s := s.updTask t.tid fun t => { t with phase := phase, mark := 0 }
  { s with kvWait := s.kvWait.filter fun k => k != t.tid }

/-! Appends (R234, R241). -/

/-- The entries that an append must hold: (record, entry address), in the order of R236. -/
def State.appendEntries (s : State) (t : TaskRec) : List (Nat × Nat) :=
  let n := max 1 (s.kvPool t).tpp
  (List.range t.aBatch).flatMap fun b =>
    let r := t.recAt b
    let lo := s.recLen r / n
    let hi := (s.recLen r + t.aNew - 1) / n
    (List.range t.aHkv).flatMap fun g => (List.range (hi + 1 - lo)).map fun i => (r, s.entryAt r g (lo + i))

/-- Securing entries in order: the state reached, and whether every one is held. -/
def State.secureAll (s : State) (p : Nat) (x : KvPool) : List (Nat × Nat) → State × Bool
  | [] => (s, true)
  | (r, e) :: es =>
    if s.present e then s.secureAll p x es
    else
      match s.secure p x e r true with
      | some s' => s'.secureAll p x es
      | none => (s, false)

/-- Copying the new rows of every record and head into their pages, unchanged (R234). -/
def State.copyNew (s : State) (t : TaskRec) : State :=
  let x := s.kvPool t
  let die := (s.taskDies t).headD 0
  let es := (s.appendEntries t).map Prod.snd
  let s := s.updTask t.tid fun t => { t with kvUsed := nubList (t.kvUsed ++ es) }
  (List.range t.aBatch).foldl (fun (s : State) b =>
    (List.range t.aHkv).foldl (fun (s : State) g =>
      (List.range t.aNew).foldl (fun (s : State) i =>
        [false, true].foldl (fun (s : State) val =>
          let y := s.newTensor t val
          let w := y.fmt.width / 8 * (if val then t.aDV else t.aD)
          s.devWriteRun die (some t.tid) (s.kvRow x (t.recAt b) g (s.recLen (t.recAt b) + i) val) (s.devBytes (y.rowAddr b i + g * w) w)) s)
        s) s) s

/-- The memory pages in which an append writes its rows. -/
def State.appendPages (s : State) (t : TaskRec) : List Nat :=
  let x := s.kvPool t
  nubList ((s.appendEntries t).flatMap fun e =>
    let p := s.entryPage e.2
    [(x.kBase + p * 16384) / 262144, (x.kBase + p * 16384 + 16383) / 262144, (x.vBase + p * 16384) / 262144,
      (x.vBase + p * 16384 + 16383) / 262144])

/-- The memory pages of a pool's header and page states and of the records and page lists of a task, which firmware writes (R229 to
R231). -/
def State.kvBooks (s : State) (t : TaskRec) : List Nat :=
  let rs := s.poolRngs t
  rngPages (rs.take 1 ++ rs.drop 3)

/-- Appending in the task's turn: the entries are secured, or the task stalls; the rows are copied, and the units start (R232, R234,
R236). -/
def State.append (s : State) (t : TaskRec) : State :=
  let q := if s.kvTurn t then s.secureAll t.p (s.kvPool t) (s.appendEntries t) else (s, (s.appendEntries t).all fun e => s.present e.2)
  if !s.canWriteAll noDie (s.kvBooks t) then s
  else if !q.2 then q.1.kvStall t 0
  else
    let s := q.1.kvServed t .ready
    let die := (s.taskDies t).headD 0
    if !s.canWriteAll die (s.appendPages t) then s
    else s.readInputs t die (unitOf 0 die 0x41) (rngBlocks ((s.newTensor t false).rngs ++ (s.newTensor t true).rngs)) fun s =>
      (s.copyNew t).startAttn t

/-- Re-executing a task: an append copies its rows again (R234). -/
def State.reexecute (s : State) (t : TaskRec) : State :=
  let s := s.reexecTask t
  if t.f 0 1 = 1 ∧ t.aOp = 2 ∧ t.phase = .running then s.copyNew t else s

/-- TASK_REEXECUTE (R234, R423, R424): a task with an abandoned unit, at most TASK_RETRIES times. -/
def execTaskReexecute (tid : Nat) (s : State) : Host.Outcome State Fault Refusal :=
  match s.task tid with
  | none => .next s
  | some t =>
    if t.phase = .running ∧ !t.oneShot ∧ t.retries < s.taskRetries ∧ t.units.any fun u => u.phase == .abandoned then
      .next (s.reexecute t)
    else .next s

/-- ATTEND_PAGED (R219, R233). -/
def execAttendPaged (tid : Nat) (s : State) : Host.Outcome State Fault Refusal :=
  match s.task tid with
  | none => .next s
  | some t =>
    if t.phase ≠ .ready ∨ t.f 0 1 ≠ 1 ∨ t.aOp ≠ 1 then .next s
    else if s.atOk t && s.pagedOk t then .next (s.startAttn t)
    else .next (s.endTask tid 0x10)

/-- APPEND_ATTEND (R234, R241): every record is checked before any is changed. -/
def execAppendAttend (tid : Nat) (s : State) : Host.Outcome State Fault Refusal :=
  match s.task tid with
  | none => .next s
  | some t =>
    if t.phase ≠ .ready ∨ t.f 0 1 ≠ 1 ∨ t.aOp ≠ 2 then .next s
    else if !s.atOk t then .next (s.endTask tid 0x10)
    else if (List.range t.aBatch).any fun b => decide (1048576 < s.recLen (t.recAt b) + t.aNew) then
      .next ((s.bump (Addr.kv t.p 0x30) 1).endTask tid 0x11)
    else .next (s.append t)

/-- KV_ALLOC_RETRY (R236). A task that waits at its admission is admitted again (R238). -/
def execKvAllocRetry (tid : Nat) (s : State) : Host.Outcome State Fault Refusal :=
  match s.task tid with
  | none => .next s
  | some t =>
    if t.phase ≠ .stalled then .next s
    else if t.mark = 1 then .next (s.updTask tid fun t => { t with phase := .fresh, mark := 0 })
    else .next (s.append t)

/-- KV_RELEASE (R235): the pages of the pool that the named records hold PRESENT, in page order. -/
def execKvRelease (tid : Nat) (s : State) : Host.Outcome State Fault Refusal :=
  match s.task tid with
  | none => .next s
  | some t =>
    if t.phase ≠ .ready ∨ t.f 0 1 ≠ 1 ∨ t.aOp ≠ 3 then .next s
    else if !s.atOk t then .next (s.endTask tid 0x10)
    else if !s.canWriteAll noDie (s.kvBooks t) then .next s
    else
      let x := s.kvPool t
      let recs := (List.range t.aBatch).map t.recAt
      let mine := (List.range x.pages).filter fun p =>
        let e := s.pageOwnerOf x p
        e != 0 && s.present e && (s.kvRecs.any fun y => y.entry == e && recs.contains y.record)
      let s := mine.foldl (fun (s : State) p => s.freePage t.p x p) s
      let s := recs.foldl (fun (s : State) r => s.fwWrite r 4 0) s
      .next (s.endTask tid 0)

/-- The condition of R240 holds in this frame: some task of the partition is stalled, none is ready or running, and no page
has been freed. -/
def State.kvLocked (s : State) (p : Nat) : Bool :=
  (s.tasks.any fun t => t.p == p && t.phase == .stalled) && !(s.tasks.any fun t => t.p == p && t.live) && !s.kvFreed.contains p

/-- Frames for which the condition has held. -/
def State.kvFrames (s : State) (p : Nat) : Nat := ((s.kvStuck.find? fun x => x.1 == p).map Prod.snd).getD 0

/-- KV_DEADLOCK_BREAK (R240): the last submitted stalled task is pre-empted, its pins are released, and it is admitted
again. -/
def execKvDeadlockBreak (p : Nat) (s : State) : Host.Outcome State Fault Refusal :=
  if 8 ≤ p then .fault .noSuchUnit
  else
    match (s.tasks.filter fun t => t.p == p && t.phase == .stalled).getLast? with
    | none => .next s
    | some t =>
      if s.kvFrames p < 64 then .next s
      else
        let s := ((s.preempt t).bump (Addr.kv p 0x28) 1).updTask t.tid fun t => { t with phase := .fresh }
        .next { s with kvStuck := s.kvStuck.filter fun x => x.1 != p }

/-! Recompute (R238), the checks of R239, and LAST_USE (R234). -/

/-- The entries below LEN whose page is gone: (record, head, entry). -/
def State.missing (s : State) (t : TaskRec) : List (Nat × Nat × Nat) :=
  let n := max 1 (s.kvPool t).tpp
  (List.range t.aBatch).flatMap fun b =>
    let r := t.recAt b
    (List.range t.aHkv).flatMap fun g => (List.range (ceilDiv (s.recLen r) n)).filterMap fun e =>
      if s.present (s.entryAt r g e) then none else some (r, g, e)

/-- The task needs more pages than the pool has, or than a record's list has entries (R239). A RELEASE names no heads, so that only
the second applies to it. -/
def State.tooMany (s : State) (t : TaskRec) : Bool :=
  let n := max 1 (s.kvPool t).tpp
  let need := fun b => ceilDiv (s.recLen (t.recAt b) + t.aNew) n
  let bs := List.range t.aBatch
  decide ((s.kvPool t).pages < (bs.map fun b => t.aHkv * need b).foldl (· + ·) 0) || bs.any fun b => decide (s.recCap (t.recAt b) < need b)

/-- The parameter block of a recompute graph. -/
def State.recomputeBlock (s : State) (t : TaskRec) (x : Nat × Nat × Nat) (page : Nat) : List Byte :=
  let p := s.kvPool t
  let first := x.2.2 * p.tpp
  leBytes 8 x.1 ++ leBytes 4 first ++ leBytes 4 (min p.tpp (s.recLen x.1 - first)) ++ leBytes 4 x.2.1 ++ leBytes 4 0 ++
    leBytes 8 (p.kBase + page * 16384) ++ leBytes 8 (p.vBase + page * 16384) ++ leBytes 24 0

/-- LAST_USE of the pages that entries hold is the frame of the tick before (R230, R234). -/
def State.usePages (s : State) (es : List KvHold) : State :=
  es.foldl (fun (s : State) h =>
    s.fwWrite ((s.poolAt h.pool).state + 16 * s.entryPage h.entry + 8) 4 ((s.reg 0x100008).toNat % pow2 32)) s

/-- The pages that a task has read or written take the frame of its completion as LAST_USE, whatever its status (R230, R234); a page
that has been dropped since is passed over. -/
def State.useKvPages (s : State) (t : TaskRec) : State :=
  s.usePages (s.kvRecs.filter fun h => t.kvUsed.contains h.entry && s.present h.entry)

/-! Blocks that a unit reads, and lost ones (R355, R429). -/

/-- The blocks that a unit's attempt reads. -/
def State.unitNeeds (s : State) (t : TaskRec) (u : UnitRec) : List Nat := if t.f 0 1 = 1 then s.atNeeded t u else s.needed t u

end Sys2Proof.Machine
end

