-- ==== Sys2Proof/Machine/Memory.lean ====
section
/-! DEFINITION. Memory tiers (R273 to R277, R309 to R341): the residency operations, migration, narrowing, the host pool,
uncorrectable errors and BAR2. Eviction and promotion stand in Machine/Admit.lean, with the ranges that tasks name. -/
namespace Sys2Proof.Machine
open Sys2Proof

/-! Uncorrectable errors (R332, R333). -/

/-- The frame of a page goes out of service once the page has left it. -/
def State.sicken (s : State) (page : Nat) : State :=
  let e := s.rt page
  let f : FrameRec := { page := page, p := rtPart e, tier := rtTier e, die := rtDie e, frame := rtFrame e }
  if (rtState e = 2 ∨ rtState e = 3) ∧ !(s.sick.any fun x => x.tier == f.tier && x.frame == f.frame && x.p == f.p) then
    { s with sick := s.sick ++ [f] }
  else s

/-- A block cannot be read (R332): it is served from the source frame of a migration that still holds it unmodified, else
it is marked lost. -/
def State.loseBlock (s : State) (blk : Nat) : State :=
  if s.frames.any fun f => f.page == blk / 64 && f.copy && !f.dirty.contains blk then s else s.markLost blk

/-- A read of a block meets an uncorrectable error (R332, R333). -/
def State.uncorrectable (s : State) (blk : Nat) : State := (s.sicken (blk / 64)).loseBlock blk

/-- A frame goes out of service (R333); a frame of HBM is replaced from the spare ones while they last. -/
def State.retireFrame (s : State) (f : FrameRec) : State :=
  let s := (if f.p < 8 then s.bump (Addr.memp f.p 0x98) 1 else s).event 0x24 (unitOf 4 0 0x21) f.p f.frame f.tier
  let s := if f.tier = 2 then s.mapAdd 3 0 f.frame else if f.tier = 1 then s.mapAdd 4 f.die f.frame else s
  if f.tier = 2 then
    let s := s.setFld 0x200018 47 24 (s.rd 0x200018 47 24 + 1)
    if 0 < s.hbmSpare then { s with hbmSpare := s.hbmSpare - 1 } else { s with badFrames := s.badFrames ++ [f] }
  else { s with badFrames := s.badFrames ++ [f] }

/-- A frame returns to its pool (R319, R327), or goes out of service (R333). -/
def State.returnFrame (s : State) (f : FrameRec) : State :=
  let same := fun (x : FrameRec) => x.tier == f.tier && x.frame == f.frame && x.p == f.p && x.die == f.die
  if s.sick.any same then { s with sick := s.sick.filter fun x => !same x }.retireFrame f else s

/-! Migration (R327 to R330). -/

/-- The page lies in a frame that is to go out of service (R333). -/
def State.inSick (s : State) (page : Nat) : Bool :=
  let e := s.rt page
  s.sick.any fun f => f.tier == rtTier e && f.frame == rtFrame e && f.p == rtPart e

/-- The page lies in host at an index that a shrink has taken away (R326). -/
def State.inShrunk (s : State) (page : Nat) : Bool :=
  let e := s.rt page
  rtTier e == 3 && !s.inPool (rtPart e) 3 (rtFrame e)

/-- The place that a migration towards a tier takes (R273, R322): a kept page the share that R273 gives it, an HBM page the host when
HBM is full; none when no frame is free there. -/
def State.movePlace (s : State) (page tier die : Nat) : Option (Nat × Nat) :=
  let e := s.rt page
  let p := rtPart e
  if rtKeep e then (if s.inSick page && tier == 1 then (if 0 < s.keptFree p (rtDie e) then some (1, rtDie e) else none)
    else (s.keepDie p (s.lastDie page)).map fun d => (1, d))
  else if tier = 1 then (if rtPin e ∨ rtPlace e = 3 ∨ !(s.dies p).contains die ∨ s.freeFrames p 1 die = 0 then none else some (1, die))
  else if tier = 2 ∧ rtPlace e ≠ 3 ∧ 0 < s.freeFrames p 2 0 then some (2, 0)
  else if 0 < s.freeFrames p 3 0 then some (3, 0)
  else none

/-- A RESIDENT page takes a frame in a tier and its entry reads MIGRATING (step 1 of R327). -/
def State.takeMig (s : State) (page tier die : Nat) (evict : Bool) : State :=
  let e := s.rt page
  let m : MigRec := { page := page, tier := tier, die := if tier = 1 then die else 0, frame := s.newFrame (rtPart e) tier die
                      evict := evict, todo := (List.range 64).map fun i => page * 64 + i }
  let s := (s.setRt page (setBits (setBits e 52 50 3) 47 46 tier)).spend
  { s with migs := s.migs ++ [m] }

/-- The place is the one where the page lies, and firmware has no reason to take it out of its frame. -/
def State.stays (s : State) (page tier die : Nat) : Bool :=
  let e := s.rt page
  rtTier e == tier && (tier != 1 || rtDie e == die) && !s.inSick page && !s.inShrunk page

/-- Starting a migration of a RESIDENT page to a place that its attributes allow and that has a free frame (R274, R322, R327). -/
def State.startMig (s : State) (page tier die : Nat) (evict : Bool) : State :=
  if rtState (s.rt page) ≠ 2 then s
  else
    match s.movePlace page tier die with
    | some x => if x.1 = tier ∧ (tier ≠ 1 ∨ x.2 = die) ∧ !s.stays page tier die then s.takeMig page tier die evict else s
    | none => s

/-- The readers of a page that KEEP or a restore takes into the tile store wait for the migration (R274, R412). -/
def State.holdReaders (s : State) (m : MoveRec) : State :=
  if m.tier = 1 then
    { s with migs := s.migs.map fun (x : MigRec) => if x.page = m.page ∧ x.tier = 1 then { x with called := true } else x }
  else s

/-- A migration called for by a residency operation or a restore starts now, or when a frame is free for it. -/
def State.callMove (s : State) (m : MoveRec) : State :=
  let s := { s with moves := s.moves.filter fun x => x.page != m.page }
  if rtState (s.rt m.page) = 3 then { s with moves := s.moves ++ [m] }
  else if rtState (s.rt m.page) ≠ 2 then s
  else
    match s.movePlace m.page m.tier m.die with
    | none => { s with moves := s.moves ++ [m] }
    | some x => (s.startMig m.page x.1 x.2 false).holdReaders m

/-- The migrations that wait are tried again. -/
def State.retryMoves (s : State) : State := s.moves.foldl State.callMove s

/-- Firmware has a reason to move a page to a tier (R322, R324, R326, R333): the frame is to go out of service, the host pool shrinks, the
page waits for the move, or it lies outside the tier that its attributes name. -/
def State.moveDue (s : State) (page tier die : Nat) : Bool :=
  let e := s.rt page
  if s.inSick page then tier == rtTier e && (tier != 1 || die == rtDie e)
  else if s.inShrunk page then tier != 1
  else if s.moves.any fun m => m.page == page then tier == 1 || !rtKeep e
  else if rtKeep e then false
  else (tier == 2 && rtTier e == 3 && rtPlace e != 3) || (tier != 1 && rtTier e == 1 && (rtPin e || rtPlace e == 2)) ||
    (tier == 3 && rtPlace e == 3)

/-- MIGRATION_START (R327). -/
def execMigrationStart (page tier die : Nat) (s : State) : Host.Outcome State Fault Refusal :=
  if 4194304 ≤ page ∨ 8 ≤ die ∨ tier = 0 ∨ 4 ≤ tier then .fault .noSuchUnit
  else if s.stopped ∨ !s.moveDue page tier die then .next s
  else
    let t := s.startMig page tier die false
    .next (if rtState (t.rt page) = 3 then
        (t.moves.filter fun m => m.page == page).foldl State.holdReaders { t with moves := t.moves.filter fun m => m.page != page }
      else t)

/-- The blocks of a page. -/
def pageBlocks (page : Nat) : List Nat := (List.range 64).map fun i => page * 64 + i

/-- One block of a migration is copied (R329, R334): the bytes that move are those of its stored form, and a block of a COMPRESS page
passes the compressor on its way into HBM, into host or out of host. -/
def State.copyBlock (s : State) (m : MigRec) (blk : Nat) : State × MigRec × Nat :=
  let e := s.rt m.page
  if rtComp e && (m.tier != 1 || rtTier e == 3) then
    let n := 1 + Config.sectors s.free % 128
    let p := rtPart e
    let bytes := if n < 128 then 32 * n else 4096
    (((s.bump (Addr.memp p 0x70) 4096).bump (Addr.memp p 0x78) bytes).spend,
      { m with secs := (blk, n) :: m.secs.filter fun x => x.1 != blk }, bytes)
  else (s, m, s.storedBytes blk)

/-- A pass copies its blocks: the state, the migration and the stored bytes. -/
def State.copyPass (s : State) (m : MigRec) : State × MigRec × Nat :=
  m.todo.foldl (fun (x : State × MigRec × Nat) b =>
    let y := x.1.copyBlock x.2.1 b
    (y.1, y.2.1, x.2.2 + y.2.2)) (s, m, 0)

/-- The side-table entry of a block names the form in which its new frame holds it (R334, R352). -/
def State.placeBlock (s : State) (m : MigRec) (blk : Nat) : State :=
  let n := if m.tier = 1 then 128 else ((m.secs.find? fun x => x.1 == blk).map Prod.snd).getD 128
  let v := setBits (s.side blk) 40 33 0
  s.setSide blk (if n < 128 then setBits (setBits v 39 33 (n - 1)) 40 40 1 else v)

/-- Steps 5 to 7 of R327: the entry switches, the source frame waits for its last reads, and the errors of the copy mark
their blocks (R332). -/
def State.switchMig (s : State) (m : MigRec) : State :=
  let e := s.rt m.page
  let p := rtPart e
  let src : FrameRec := { page := m.page, p := p, tier := rtTier e, die := rtDie e, frame := rtFrame e, copy := true }
  let s := if rtTier e < m.tier then s.bump (Addr.memp p 0x48) 1 else if m.tier < rtTier e then s.bump (Addr.memp p 0x50) 1 else s
  let s := if m.evict then s.bump (Addr.memp p 0x58) 1 else s
  let e := setBits (setBits (setBits (setBits e 52 50 2) 49 48 m.tier) 47 46 0) 23 0 m.frame
  let s := { s.setRt m.page e with migs := s.migs.filter fun x => x.page != m.page, frames := s.frames ++ [src] }
  let s := m.lostDest.foldl State.markLost s
  (pageBlocks m.page).foldl (fun (s : State) b => s.placeBlock m b) s

/-- A migration is abandoned: the page keeps its source frame and is RESIDENT again (R314, R431). -/
def State.abandonMig (s : State) (page : Nat) : State :=
  match s.migs.find? fun m => m.page == page with
  | none => s
  | some m =>
    let e := s.rt page
    let dest : FrameRec := { page := page, p := rtPart e, tier := m.tier, die := m.die, frame := m.frame }
    let s := s.setRt page (setBits (setBits e 52 50 2) 47 46 0)
    { s with migs := s.migs.filter fun x => x.page != page, frames := s.frames ++ [dest] }

/-- MIGRATION_PASS_END (R327, R332): the blocks of the pass have moved; with no block dirtied the page switches, else another
pass follows, the last one with writes held. -/
def execMigrationPassEnd (page stored : Nat) (uncorr : List Nat) (s : State) : Host.Outcome State Fault Refusal :=
  match s.migs.find? fun m => m.page == page with
  | none => .next s
  | some m =>
    let mine := uncorr.filter m.todo.contains
    let x := s.copyPass m
    let m := x.2.1
    let s := x.1.bump (Addr.memp (rtPart (s.rt page)) 0x60) (if rtNarrow (s.rt page) then stored else x.2.2)
    let s := if mine.isEmpty then s else s.sicken page
    let m := { m with lostDest := nubList ((m.lostDest.filter fun b => !m.todo.contains b) ++ mine) }
    if m.dirty.isEmpty then .next ((s.switchMig m).retryMoves)
    else
      let m := { m with todo := m.dirty, dirty := [], passes := m.passes + 1, held := decide (4 ≤ m.passes + 1) }
      .next { s with migs := s.migs.map fun x => if x.page = page then m else x }

/-- SOURCE_FRAME_RETURN (R319, R327). -/
def execSourceFrameReturn (page : Nat) (s : State) : Host.Outcome State Fault Refusal :=
  match s.frames.find? fun f => f.page == page with
  | none => .next s
  | some f => .next ({ s with frames := s.frames.erase f }.returnFrame f).retryMoves

/-! Residency operations (R315 to R318). -/

/-- The range list of an operation: first page and pages, with whether every entry keeps R315. -/
def State.rangeList (s : State) (t : TaskRec) : List (Nat × Nat) × Bool :=
  let es := (List.range (t.f 0x28 4)).map fun i =>
    let a := t.f 0x20 8 + 16 * i
    (s.devNat a 8, s.devNat (a + 8) 4, s.devNat (a + 12) 4)
  (es.map fun e => (e.1 / 262144, e.2.1), es.all fun e => e.1 % 262144 == 0 && inExt e.2.1 4194304 && e.2.2 == 0)

/-- The pages of a range list, in order. -/
def listPages (l : List (Nat × Nat)) : List Nat := l.flatMap fun x => (List.range x.2).map fun i => x.1 + i

/-- An attribute word that R315 and R318 accept. -/
def attrOk (w : Nat) : Bool :=
  let keep := bit w 2
  let place := w % 4
  w < 512 && !(keep && bit w 3) && !(keep && place == 3) && !(bit w 5 && (place == 3 || fld w 7 6 == 3))

/-- The range list that an operation reads. -/
def TaskRec.resReads (t : TaskRec) : List Rng := [{ base := t.f 0x20 8, len := 16 * t.f 0x28 4 }]

/-- The descriptor keeps R318 and R390, for MAP (6), UNMAP (7) and HINT (8). -/
def State.resOk (s : State) (t : TaskRec) : Bool :=
  let op := t.f 1 1
  let l := s.rangeList t
  let pages := nubList (listPages l.1)
  inExt (t.f 0x28 4) 256 && t.f 0x20 8 % 64 == 0 && t.f 0x2C 4 == 0 && t.zeros 0x38 0x40 && l.2 &&
    (op != 7 || t.f 0x30 4 == 0) && (op == 8 || t.f 0x34 4 == 0) && attrOk (t.f 0x30 4) && t.f 0x34 4 < 512 &&
    (match s.part t.p with
     | none => false
     | some x => l.1.all fun r => x.spanBase ≤ r.1 && r.1 + r.2 ≤ x.spanBase + x.spanPages) &&
    (if op = 6 then
       (pages.all fun pg => rtState (s.rt pg) == 0) &&
         decide ((s.pagesOf t.p).length + pages.length ≤ s.poolFrames t.p 2 0 + s.poolFrames t.p 3 0)
     else op != 8 || pages.all fun pg => rtState (s.rt pg) != 0)

/-- The attribute word of an entry, and an entry with another one. -/
def rtAttr (e : W64) : Nat :=
  getBits e 45 44 + 4 * getBits e 43 43 + 8 * getBits e 42 42 + 16 * getBits e 41 41 + 32 * getBits e 40 40 + 64 * getBits e 39 38 +
    256 * getBits e 37 37
def setAttr (e : W64) (w : Nat) : W64 :=
  let put := fun (e : W64) (hi lo v : Nat) => setBits e hi lo v
  put (put (put (put (put (put (put e 45 44 (w % 4)) 43 43 (fld w 2 2)) 42 42 (fld w 3 3)) 41 41 (fld w 4 4)) 40 40 (fld w 5 5))
    39 38 (fld w 7 6)) 37 37 (fld w 8 8)

/-- Pages of a partition with KEEP. -/
def State.keptPages (s : State) (p : Nat) : Nat := ((s.pagesOf p).filter fun e => rtKeep e.2).length

/-- The accounting of R275 for a page that is to be given KEEP: whether it is given. -/
def State.giveKeep (s : State) (p : Nat) : State × Bool :=
  if s.keptPages p < ((s.part p).map PartRec.keepPages).getD 0 then (s.bump (Addr.keep p 0x10) 1, true)
  else (s.bump (Addr.keep p 0x18) 1, false)

/-- MAP of one page (R316). -/
def State.mapPage (s : State) (p attr page : Nat) : State :=
  let k := if bit attr 2 then s.giveKeep p else (s, false)
  let w := if bit attr 2 && !k.2 then attr - 4 else attr
  k.1.setRt page (setAttr (setBits (setBits 0 55 53 p) 52 50 1) w)

/-- UNMAP of one page (R316, R341). -/
def State.unmapPage (s : State) (page : Nat) : State :=
  let e := s.rt page
  if rtState e = 0 then s
  else s.dropPage page

/-- The migration that the attributes of a page call for after a HINT (R273, R274, R316): of a page newly kept into the share of
R273, whose choice `share` was made before the page counted there; of a page newly pinned out of the tile store; of one with a new
PLACE to the tier that Placement gives. -/
def State.hintMove (s : State) (page old w mask : Nat) (share : Option Nat) : Option MoveRec :=
  let e := s.rt page
  if bit w 2 then
    if bit old 2 ∨ (rtTier e = 1 ∧ share = some (rtDie e)) then none
    else some { page := page, tier := 1, die := 0, keep := true }
  else if bit mask 3 && bit w 3 && rtTier e == 1 then some { page := page, tier := 2, die := 0, keep := false }
  else if mask % 4 ≠ 0 ∧ w % 4 ≠ 0 then
    match s.placeTier (rtPart e) ((s.lastDie page).getD noDie) e with
    | some (tier, d) => if tier = rtTier e then none else some { page := page, tier := tier, die := d, keep := false }
    | none => some { page := page, tier := w % 4, die := 0, keep := false }
  else none

/-- A migration in progress goes against the attributes of its page (R274, R313): a kept page may go only into the region, and a pinned
one not into the tile store. -/
def State.migBarred (s : State) (page : Nat) : Bool :=
  let e := s.rt page
  s.migs.any fun m => m.page == page && (rtKeep e || (rtPin e && m.tier == 1) || (rtPlace e == 3 && m.tier != 3))

/-- HINT of one page (R274, R275, R316): the masked attributes, and the migration that they call for. A migration in progress that the
new attributes bar, or that a new one replaces, is abandoned. -/
def State.hintPage (s : State) (t : TaskRec) (page : Nat) : State :=
  let e := s.rt page
  let p := rtPart e
  let mask := t.f 0x34 4
  let old := rtAttr e
  let w := (old &&& (511 ^^^ mask)) ||| (t.f 0x30 4 &&& mask)
  let share := s.keepDie p (s.lastDie page)
  let k := if !bit old 2 && bit w 2 then s.giveKeep p else (s, bit w 2)
  let w := if bit w 2 && !k.2 then w - 4 else w
  let s := if bit old 2 && !bit w 2 then k.1.bump (Addr.keep p 0x20) 1 else k.1
  let s := s.setRt page (setAttr e w)
  let move := s.hintMove page old w mask share
  let s := if s.migBarred page || move.isSome then s.abandonMig page else s
  let s := { s with moves := s.moves.filter fun m => m.page != page || (m.keep && bit w 2) || mask % 16 == 0 }
  match move with
  | some m => s.callMove m
  | none => s

/-- Running a residency operation. -/
def State.runRes (s : State) (t : TaskRec) (one : State → Nat → State) : State :=
  s.runTask t (s.resOk t) (unitOf 4 0 0x21) (rngBlocks t.resReads) [] fun s => ((listPages (s.rangeList t).1).foldl one s, 0)

/-- MAP (R316, R318). -/
def execMap (tid : Nat) (s : State) : Host.Outcome State Fault Refusal :=
  match s.task tid with
  | none => .next s
  | some t =>
    if !t.isKind 3 6 ∨ !s.mayRun t then .next s else .next (s.runRes t fun s pg => s.mapPage t.p (t.f 0x30 4) pg)

/-- UNMAP (R316, R318). -/
def execUnmap (tid : Nat) (s : State) : Host.Outcome State Fault Refusal :=
  match s.task tid with
  | none => .next s
  | some t =>
    if !t.isKind 3 7 ∨ !s.mayRun t then .next s else .next (s.runRes t State.unmapPage)

/-- HINT (R316, R318). -/
def execHint (tid : Nat) (s : State) : Host.Outcome State Fault Refusal :=
  match s.task tid with
  | none => .next s
  | some t =>
    if !t.isKind 3 8 ∨ !s.mayRun t then .next s else .next (s.runRes t fun s pg => s.hintPage t pg)

/-! Narrowing (R335 to R340). -/

/-- NSRC and NTGT as formats. -/
def nsrcFmt (n : Nat) : Fmt := if n = 0 then .bf16 else if n = 1 then .fp16 else .fp32
def ntgtFmt (n : Nat) : Fmt := if n = 0 then .e4m3 else .e5m2

/-- Narrowing one block of 32 codes (R336): the new codes, whether it was narrowed, and whether it was kept. -/
def narrowCodes (src tgt : Fmt) (cs : List Nat) : List Nat × Bool × Bool :=
  let vs := cs.map fun c => (decodeElem src [] c).1
  if !(vs.all fun v => match v with | .fin _ _ _ => true | _ => false) then (cs, false, true)
  else
    let am := amax vs
    if am.1 = 0 then (cs, false, false)
    else
      let k := ceilLog2 am (tgt.bigF [])
      if k < -127 ∨ 127 < k then (cs, false, true)
      else
        let one := fun v =>
          let y := (decodeElem tgt [] (convElem tgt [] .rne true false 0 (divPow2 k v)).1).1
          let xh := xvMul y (.fin false 1 k)
          let c := (convElem src [] .rne true false 0 xh).1
          let back := (decodeElem src [] c).1
          let exact := match xh, back with
            | .fin a m e, .fin b n f => a == b && magEq (m, e) (n, f)
            | _, _ => false
          (c, exact)
        let rs := vs.map one
        if rs.all Prod.snd then (rs.map Prod.fst, true, false) else (cs, false, true)

/-- One narrowing block of `n` bytes at an address (R336), and whether it has changed its 4 KiB block. -/
def State.narrowAt (s : State) (p a w : Nat) (src tgt : Fmt) : State × Bool :=
  let cs := (List.range 32).map fun j => s.devNat (a + w * j) w
  let r := narrowCodes src tgt cs
  if r.2.2 then (s.bump (Addr.memp p 0x88) 1, false)
  else if r.2.1 then
    ({ s with maps := { s.maps with dev := Sparse.setList 0 s.maps.dev a (r.1.flatMap fun c => leBytes w c) } }.bump (Addr.memp p 0x80) 1, true)
  else (s, false)

/-- Narrowing a 4 KiB block of a NARROW page: once narrowed it is written, with a new CRC. -/
def State.narrowBlock (s : State) (blk : Nat) : State :=
  let e := s.rt (blk / 64)
  let w := (nsrcFmt (rtNsrc e)).width / 8
  if !rtNarrow e || s.lost blk then s
  else
    let r := (List.range (4096 / (32 * w))).foldl (fun (x : State × Bool) i =>
      let y := x.1.narrowAt (rtPart e) (blk * 4096 + 32 * w * i) w (nsrcFmt (rtNsrc e)) (ntgtFmt (rtNtgt e))
      (y.1, x.2 || y.2)) (s, false)
    if r.2 then (r.1.setSide blk (setBits (r.1.side blk) 31 0 0)).blockWritten blk false else r.1

/-- NARROWING (R335, R340): after a task's last write and before its completion entry. -/
def execNarrowing (tid : Nat) (s : State) : Host.Outcome State Fault Refusal :=
  match s.task tid with
  | none => .next s
  | some t =>
    if t.phase ≠ .ended then .next s
    else
      let mine := (s.narrowDue.filter fun x => x.1 == tid).map Prod.snd
      let s := mine.foldl State.narrowBlock s
      .next { s with narrowDue := s.narrowDue.filter fun x => x.1 != tid }

/-! The host pool (R325, R326). -/

/-- The function reaches a register of the map for writing. -/
def State.reaches (s : State) (fn off : Nat) : Bool :=
  match regAt off with
  | none => false
  | some d => s.answers off && s.mayWrite fn d off

/-- HPOOL_BASE_WRITE (R325). -/
def execHpoolBaseWrite (fn p : Nat) (value : W64) (s : State) : Host.Outcome State Fault Refusal :=
  if 8 < fn ∨ 8 ≤ p then .fault .noSuchUnit
  else
    let a := Addr.memp p 0x28
    if !s.reaches fn a then .next s
    else if s.rd (Addr.memp p 0x30) 23 0 ≠ 0 ∨ s.rd (Addr.memp p 0x34) 0 0 = 1 then .next (s.memFault p 4 0 true)
    else .next (s.setReg a (value &&& ~~~ 0xFFF#64))

/-- Pages of a partition in host frames at or above an index, or on their way into one. -/
def State.beyondPool (s : State) (p count : Nat) : Bool :=
  ((s.pagesOf p).any fun e => (rtState e.2 == 2 || rtState e.2 == 3) && rtTier e.2 == 3 && decide (count ≤ rtFrame e.2)) ||
    (s.migs.any fun m => m.tier == 3 && s.pageOwner m.page == some p && decide (count ≤ m.frame))

/-- HPOOL_COUNT_WRITE (R325, R326, R333). -/
def execHpoolCountWrite (fn p : Nat) (value : W32) (host : List HostStore) (s : State) : Host.Outcome State Fault Refusal :=
  if 8 < fn ∨ 8 ≤ p then .fault .noSuchUnit
  else
    let s := s.hostStores host
    let a := Addr.memp p 0x30
    if !s.reaches fn a then .next s
    else
      let n := value.toNat % 16777216
      let old := s.rd a 23 0
      let s' := { s.setFld a 23 0 n with
        badFrames := s.badFrames.filter fun f => !(f.p == p && f.tier == 3)
        hostSkips := s.hostSkips.filter fun x => !(x.1 == p && n ≤ x.2) }
      if old < n then
        .next ((List.range (n - old)).foldl (fun (s : State) i =>
          if s.hostNat ((s.reg (Addr.memp p 0x28)).toNat + 8 * (old + i)) 8 % 4096 ≠ 0 then
            { s with hostSkips := s.hostSkips ++ [(p, old + i)] }.memFault p 6 (old + i) true
          else s) s')
      else if n < old then
        if s'.poolFrames p 2 0 + s'.poolFrames p 3 0 < (s.pagesOf p).length then .next (s.memFault p 7 n false)
        else .next (s'.setFld (Addr.memp p 0x34) 0 0 1)
      else .next s'

/-- SHRINK_DONE (R326). -/
def execShrinkDone (p : Nat) (s : State) : Host.Outcome State Fault Refusal :=
  if 8 ≤ p then .fault .noSuchUnit
  else if s.rd (Addr.memp p 0x34) 0 0 = 1 ∧ !s.beyondPool p (s.rd (Addr.memp p 0x30) 23 0) then
    .next (s.setFld (Addr.memp p 0x34) 0 0 0)
  else .next s

/-! BAR2 (R312, R508, R598). -/

/-- The device virtual address of offset `off` of a function's window. -/
def State.winAddr (s : State) (fn off : Nat) : Nat := getBits (s.reg (winKey fn 0x20)) 39 18 * 262144 + off

/-- The first page of an access that R312 refuses: outside the span, at or above 2^40, or UNMAPPED. -/
def State.winFault (s : State) (fn a len : Nat) : Option Nat :=
  ((List.range ((a + len - 1) / 262144 - a / 262144 + 1)).map fun i => a / 262144 + i).find? fun pg =>
    match s.part (s.partOfFn fn) with
    | none => true
    | some x => !s.ready || 4194304 ≤ pg || !x.owns pg || rtState (s.rt pg) == 0

/-- Words of all ones. -/
def State.answerOnes (s : State) (fn len : Nat) : State := s.tell (.readData fn (List.replicate len 0xFF#8))

/-- BAR2_READ (R312, R598). A function that is not there answers nothing. -/
def execBar2Read (fn off len : Nat) (uncorr : Bool) (s : State) : Host.Outcome State Fault Refusal :=
  if 8 < fn ∨ pow2 36 < off + len ∨ len = 0 then .fault .noSuchUnit
  else if s.numVfs < fn then .next s
  else
    let a := s.winAddr fn off
    let p := s.partOfFn fn
    match s.winFault fn a len with
    | some pg => .next ((s.memFault p 3 pg true).answerOnes fn len)
    | none =>
      let pages := nubList ((List.range len).map fun i => (a + i) / 262144)
      let s := pages.foldl (fun (s : State) pg =>
        (s.touchPage pg noDie).inPlace pg ((List.range len).filter fun i => (a + i) / 262144 == pg).length) s
      let s := (blocksOf a len).foldl State.hostRead s
      let s := if uncorr then s.uncorrectable (a / 4096) else s
      match (blocksOf a len).find? s.lost with
      | some b => .next ((s.memFault p 5 (b / 64) true).answerOnes fn len)
      | none => .next (s.tell (.readData fn (s.devBytes a len)))

/-- BAR2_WRITE (R312, R322, R327, R354): it waits while no frame is free for a page of it, or while its writes are held. -/
def execBar2Write (fn off : Nat) (data : List Byte) (s : State) : Host.Outcome State Fault Refusal :=
  if 8 < fn ∨ pow2 36 < off + data.length ∨ data.isEmpty then .fault .noSuchUnit
  else if s.numVfs < fn then .next s
  else
    let a := s.winAddr fn off
    match s.winFault fn a data.length with
    | some pg => .next (s.memFault (s.partOfFn fn) 3 pg true)
    | none =>
      let pages := nubList ((List.range data.length).map fun i => (a + i) / 262144)
      if s.canWriteAll noDie pages then .next (s.devWriteRun noDie none a data) else .next s

end Sys2Proof.Machine
end

