-- ==== Sys2Proof/Machine/Sync.lean ====
section
/-! DEFINITION. Starts of several modules (R452 to R458), the global counter (R448 to R451) and the alignment of frames to
FSYNC_IN (R459, R460). -/
namespace Sys2Proof.Machine
open Sys2Proof

/-! Member lists (R452). -/

/-- The entry of a partition of this module in a member list. -/
def State.selfEntry (s : State) (p : Nat) : Nat := s.rd 0x900020 15 0 + p * 65536

/-- The member list that a task names. -/
def State.memberList (s : State) (t : TaskRec) : List Nat :=
  (List.range (t.f 0x22 2)).map fun i => s.devNat (t.f 0x30 8 + 4 * i) 4

/-- The bytes of the list. -/
def TaskRec.listReads (t : TaskRec) : List Rng := [{ base := t.f 0x30 8, len := 4 * t.f 0x22 2 }]

/-- A member list keeps R452: 2 to 1,024 entries, no other bits, this member once and nobody twice. -/
def State.listOk (s : State) (t : TaskRec) : Bool :=
  let l := s.memberList t
  2 ≤ t.f 0x22 2 && t.f 0x22 2 ≤ 1024 && (l.all fun e => e < 524288) && l.contains (s.selfEntry t.p) &&
    decide ((nubList l).length = l.length)

/-! The global counter. -/

/-- SYN_GCOUNT. -/
def State.gcount (s : State) : Nat := (s.reg 0x900008).toNat

/-- Setting SYN_GCOUNT, `clocks` after the last tick. -/
def State.setGcount (s : State) (v clocks : Nat) : State :=
  { s.setReg 0x900008 (BitVec.ofNat 64 v) with gcAhead := clocks }

/-- The counter as it stands `clocks` after the last tick. -/
def State.advanceGc (s : State) (clocks : Nat) : State :=
  if s.gcAhead ≤ clocks then s.setGcount (s.gcount + (clocks - s.gcAhead)) clocks else s

/-- Setting an offset from the master: GC_LOCKED reads 1 within one clock, at most 4 hops away, and a lock ends HOLDOVER (R449,
R451). -/
def State.steer (s : State) (off : Int) : State :=
  let s := { s with gcOffset := off }
  if off.natAbs ≤ 1 ∧ s.rd 0x900000 7 5 ≤ 4 then (s.setFld 0x900000 1 1 1).setFld 0x900000 2 2 0 else s.setFld 0x900000 1 1 0

/-- The module follows another one (R448). -/
def State.follows (s : State) : Bool := s.rd 0x900020 57 57 = 1

/-- UP_PORT. -/
def State.upPort (s : State) : Nat := s.rd 0x900020 56 52

/-- The port to the master goes down (R451). -/
def State.upPortDown (s : State) (i : Nat) : State :=
  if s.follows && s.upPort == i && s.gcAcquired && s.rd 0x900000 2 2 == 0 then
    ((s.setFld 0x900000 2 2 1).setFld 0x900000 1 1 0).bump 0x900070 1
  else s

/-! Starts. -/

/-- Sending a message of a start to every other member. -/
def State.sendAll (s : State) (r : StartRec) (kind : StartKind) (count : Nat) : State :=
  let me := s.selfEntry r.p
  (r.list.filter fun e => e != me).foldl (fun (s : State) e =>
    s.tell (.start e { kind := kind, group := r.group, seq := r.seq, p := e / 65536, method := r.method, list := r.list, sender := me, count := count })) s

/-- A start ends on this member. -/
def State.endStart (s : State) (tid status : Nat) : State :=
  { s with starts := s.starts.filter fun r => r.tid != tid }.endTask tid status

/-- The release of a START (R454, R456). -/
def State.releaseStart (s : State) (r : StartRec) (late : Bool) : State :=
  let s := s.bump (Addr.syn r.p 0x10) 1
  let s := if late then
      (s.bump (Addr.syn r.p 0x18) 1).updTask r.tid fun t => { t with flags := orFlag t.flags 4 }
    else s
  s.endStart r.tid 0

/-- A member learns the count C (R456): it releases at once, late, when its counter has passed C, else it waits. -/
def State.setTarget (s : State) (r : StartRec) (c : Nat) : State :=
  if c < s.gcount then s.releaseStart r true
  else { s with starts := s.starts.map fun (x : StartRec) => if x.tid = r.tid then { x with target := some c } else x }

/-- The root records an arrival, and acts when it holds every one (R455, R456). -/
def State.rootArrival (s : State) (r : StartRec) (sender count : Nat) : State :=
  let r := { r with arrivals := (sender, count) :: r.arrivals.filter fun a => a.1 != sender }
  let s := { s with starts := s.starts.map fun (x : StartRec) => if x.tid = r.tid then r else x }
  if r.arrivals.length < r.list.length then s
  else if r.method = 0 then (s.sendAll r .release 0).releaseStart r false
  else
    let c := (r.arrivals.map Prod.snd).foldl max 0 + s.rd (Addr.syn r.p 0) 31 1
    (s.sendAll r .count c).setTarget r c

/-- A difference of METHOD or of the list (R453). -/
def State.mismatchStart (s : State) (r : StartRec) : State :=
  ((s.bump 0x900078 1).sendAll r .withdrawal 0).endStart r.tid 0x10

/-- The start on this member that a message is for. -/
def State.startFor (s : State) (m : StartMsg) : Option StartRec :=
  s.starts.find? fun r => r.p == m.p && r.group == m.group && r.seq == m.seq

/-- The running collective that a message is for (R527). -/
def State.collFor (s : State) (m : StartMsg) : Option CollRec :=
  s.colls.find? fun r => r.p == m.p && r.group == m.group && r.seq == m.seq

/-- A collective ends on this member. -/
def State.endColl (s : State) (tid status : Nat) : State :=
  { s with colls := s.colls.filter fun r => r.tid != tid }.endTask tid status

/-- The root of a list is its first entry. -/
def State.isRoot (s : State) (r : StartRec) : Bool := r.list.head? == some (s.selfEntry r.p)

/-- A start message meets its start (R453 to R458); one that meets none is held. A withdrawal is not checked: its sender may hold
another list. -/
def State.receiveStart (s : State) (m : StartMsg) : State :=
  match s.startFor m with
  | some r =>
    match m.kind with
    | .withdrawal => s.endStart r.tid 0x30
    | k =>
      if m.method ≠ r.method ∨ m.list ≠ r.list then s.mismatchStart r
      else
        match k with
        | .arrival => if s.isRoot r && r.list.contains m.sender then s.rootArrival r m.sender m.count else s
        | .release => if r.method = 0 then s.releaseStart r false else s
        | .count => if r.method = 1 then s.setTarget r m.count else s
        | .withdrawal => s
  | none =>
    match s.collFor m with
    | some c => if m.kind = .withdrawal then s.endColl c.tid 0x30 else s
    | none => { s with startMsgs := s.startMsgs ++ [m] }

/-- A START is issued (R453, R455, R456). -/
def State.runStart (s : State) (t : TaskRec) : State :=
  let method := s.rd (Addr.syn t.p 0) 0 0
  let r : StartRec := { tid := t.tid, group := t.f 0x20 2, seq := t.f 0x24 4, p := t.p, method := method, list := s.memberList t }
  let s := if method = 1 ∧ s.rd 0x900000 1 1 = 0 then s.bump 0x900080 1 else s
  let s := { s.updTask t.tid fun t => { t with phase := .running } with starts := s.starts ++ [r] }
  let me := s.selfEntry t.p
  let s := if method = 1 ∧ t.f 0x28 8 ≠ 0 then s.setTarget r (t.f 0x28 8)
    else if s.isRoot r then s.rootArrival r me s.gcount
    else s.tell (.start (r.list.headD 0) { kind := .arrival, group := r.group, seq := r.seq, p := r.list.headD 0 / 65536, method := method,
                                           list := r.list, sender := me, count := s.gcount })
  let mine := s.startMsgs.filter fun m => m.p == r.p && m.group == r.group && m.seq == r.seq
  let s := { s with startMsgs := s.startMsgs.filter fun m => !(m.p == r.p && m.group == r.group && m.seq == r.seq) }
  mine.foldl (fun (s : State) m => if (s.startFor m).isSome then s.receiveStart m else s) s

/-- The START of an earlier number of the group still waits on this partition, so that a later one waits for its end (R453). -/
def State.groupBusy (s : State) (t : TaskRec) : Bool := s.starts.any fun r => r.p == t.p && r.group == t.f 0x20 2

/-- START (R452, R453). -/
def execStart (tid : Nat) (s : State) : Host.Outcome State Fault Refusal :=
  match s.task tid with
  | none => .next s
  | some t =>
    if !t.isKind 5 0x20 ∨ !s.mayRun t ∨ s.groupBusy t then .next s
    else
      .next (s.readInputs t noDie (unitOf 4 0 0x20) (rngBlocks t.listReads) fun s =>
        if !s.listOk t || !t.zeros 0x38 0x40 then s.endTask tid 0x10 else s.runStart t)

/-- START_MESSAGE (R453). -/
def execStartMessage (msg : StartMsg) (s : State) : Host.Outcome State Fault Refusal :=
  if 8 ≤ msg.p then .fault .noSuchUnit else .next (s.receiveStart msg)

/-- HUDDLE_ARRIVAL (R455): the root collects it. -/
def execHuddleArrival (msg : StartMsg) (s : State) : Host.Outcome State Fault Refusal :=
  if 8 ≤ msg.p then .fault .noSuchUnit else .next (s.receiveStart { msg with kind := .arrival })

/-- HUDDLE_RELEASE (R455). -/
def execHuddleRelease (msg : StartMsg) (s : State) : Host.Outcome State Fault Refusal :=
  if 8 ≤ msg.p then .fault .noSuchUnit else .next (s.receiveStart { msg with kind := .release })

/-- WHISTLE_COUNT (R456). -/
def execWhistleCount (msg : StartMsg) (s : State) : Host.Outcome State Fault Refusal :=
  if 8 ≤ msg.p then .fault .noSuchUnit else .next (s.receiveStart { msg with kind := .count })

/-- START_WITHDRAWAL (R453, R458, R527). -/
def execStartWithdrawal (msg : StartMsg) (s : State) : Host.Outcome State Fault Refusal :=
  if 8 ≤ msg.p then .fault .noSuchUnit else .next (s.receiveStart { msg with kind := .withdrawal })

/-- WHISTLE_RELEASE (R456): SYN_GCOUNT reaches C. -/
def execWhistleRelease (tid : Nat) (s : State) : Host.Outcome State Fault Refusal :=
  match s.starts.find? fun r => r.tid == tid with
  | none => .next s
  | some r =>
    match r.target with
    | none => .next s
    | some c =>
      if s.stopped || decide (c < s.gcount) then .next s
      else .next ((s.setGcount c (s.gcAhead + (c - s.gcount))).releaseStart r false)

/-- The members that wait for a task of this partition that leaves withdraw (R457, R458, R527). -/
def State.withdraw (s : State) (tid : Nat) : State :=
  match s.starts.find? fun r => r.tid == tid with
  | some r => { s.sendAll r .withdrawal 0 with starts := s.starts.filter fun x => x.tid != tid }
  | none =>
    match s.colls.find? fun r => r.tid == tid with
    | some c =>
      { s.sendAll { tid := tid, group := c.group, seq := c.seq, p := c.p, method := 0, list := c.list } .withdrawal 0 with
        colls := s.colls.filter fun x => x.tid != tid }
    | none => s

/-- A member of the collective has not been heard of. -/
def CollRec.waiting (c : CollRec) : Bool :=
  (List.range c.list.length).any fun j => j != c.me && !(c.got.any fun b => b.member == j)

/-- START_TIMEOUT (R457, R509, R527). -/
def execStartTimeout (tid : Nat) (s : State) : Host.Outcome State Fault Refusal :=
  match s.task tid with
  | none => .next s
  | some t =>
    if (s.starts.any fun r => r.tid == tid) || (s.colls.any fun c => c.tid == tid && c.waiting) then
      .next ((((s.withdraw tid).bump (Addr.syn t.p 0x20) 1).endTask tid 0x30).raisePart t.p 16)
    else .next s

/-! Timing messages (R448 to R450). -/

/-- TIMING_MESSAGE: the first one loads the counter, later ones measure the offset. -/
def execTimingMessage (msg : TimingMsg) (s : State) : Host.Outcome State Fault Refusal :=
  if 24 ≤ msg.port then .fault .noSuchUnit
  else if !s.follows || s.upPort != msg.port || s.rd (Addr.port msg.port 0) 3 0 != 2 || s.rd (Addr.port msg.port 0) 44 43 < 2 then .next s
  else
    let depth := if msg.depth < 4 then msg.depth + 1 else 7
    let s := s.setFld 0x900000 7 5 depth
    let m := msg.stamp + msg.rtt / 2
    if !s.gcAcquired then
      let s := ({ s.setGcount m msg.clocks with gcAcquired := true }).steer 0
      -- a whistle whose count the load passes releases as a late member (R450)
      .next ((s.starts.filter fun r => (r.target.map fun c => decide (c < m)).getD false).foldl (fun (s : State) r => s.releaseStart r true) s)
    else
      let s := s.advanceGc msg.clocks
      .next (s.steer ((m : Int) - (s.gcount : Int)))

/-- GC_SLEW (R449): at most one clock of correction in every 4,096. -/
def execGcSlew (clocks : Nat) (s : State) : Host.Outcome State Fault Refusal :=
  if !s.follows || !s.gcAcquired || s.rd (Addr.port s.upPort 0) 3 0 != 2 then .next s
  else
    let n : Int := (clocks / 4096 : Nat)
    let d := max (-n) (min n s.gcOffset)
    let s := s.setReg 0x900008 (BitVec.ofInt 64 ((s.gcount : Int) + d))
    .next (s.steer (s.gcOffset - d))

/-! Frame alignment (R459, R460). -/

/-- The frame period in clocks. -/
def State.period (s : State) : Nat := s.rd 0x100000 14 0 * 2500

/-- The first edge of a frame within half a period of the predicted tick is judged (R460). -/
def State.judgeEdge (s : State) (e : Int) : State :=
  let f := s.fsync
  let s := s.setFld 0x900000 3 3 0
  let far := fun (x : Int) => decide (s.period < 8 * x.natAbs)
  if (if f.relock = 0 then far e else far (e - f.expect)) then
    let step := Int.tdiv e 16
    let s := (s.bump 0x900060 1).setFld 0x900000 0 0 1
    { s with fsync := { f with edge := some e, move := step, relock := 16, step := step, expect := e - step, missed := 0 } }
  else if f.relock = 0 then { s with fsync := { f with edge := some e, move := e, missed := 0 } }
  else { s with fsync := { f with edge := some e, move := f.step, expect := f.expect - f.step, missed := 0 } }

/-- FSYNC_EDGE (R460). -/
def execFsyncEdge (stamp : Int) (s : State) : Host.Outcome State Fault Refusal :=
  let p : Int := s.period
  if s.rd 0x900020 59 58 ≠ 1 ∨ s.fsync.edge.isSome ∨ 2 * stamp ≤ -p ∨ p < 2 * stamp then .next s
  else .next (s.judgeEdge stamp)

/-- The end of a frame under FSYNC (R460): a frame without an edge counts, four in a row set FSYNC_LOST, and a re-lock lasts 16
frames. -/
def State.fsyncTick (s : State) : State :=
  if s.rd 0x900020 59 58 ≠ 1 then s
  else
    let f := s.fsync
    let none_ := f.edge.isNone
    let s := if none_ then s.bump 0x900068 1 else s
    let missed := if none_ then f.missed + 1 else 0
    let s := if 4 ≤ missed then s.setFld 0x900000 3 3 1 else s
    let left := f.relock - 1
    let s := if f.relock ≠ 0 ∧ left = 0 then s.setFld 0x900000 0 0 0 else s
    { s with fsync := { f with
      edge := none, missed := missed, relock := left
      expect := if none_ then f.expect - f.step else f.expect
      move := if left = 0 then 0 else f.step } }

end Sys2Proof.Machine
end

