-- ==== Sys2Proof/Machine/Recovery.lean ====
section
/-! DEFINITION. Control-core faults and the fatal state (R431, R432). -/
namespace Sys2Proof.Machine
open Sys2Proof

/-- The fatal state (R432): FATAL reads 1, a flush is asked for, ALERT_N is asserted, and PF0 raises vector 17 while the link is up
(R509). A run of self-tests is stopped by DIAG_ABORT (R592). -/
def State.enterFatal (s : State) (core cause : Nat) : State :=
  if s.fatal then s
  else
    let s := (s.event 0x32 (unitOf 4 0 core) 0xFF core (Config.causeNo 0x32 cause)).setFld 0x700008 0 0 1
    let s := (s.askFlush 3).tell (.pin "ALERT_N" false)
    if s.rd 0x8 3 0 = 0 then s else s.tell (.msix 0 17)

/-- CORE_RESTARTING of a control core (R440). -/
def State.restarting (s : State) (core : Nat) : Bool := bit (s.rd 0x700008 15 8) core

/-- Setting it. -/
def State.setRestarting (s : State) (core : Nat) (v : Bool) : State := s.setFld 0x700008 (8 + core) (8 + core) (if v then 1 else 0)

/-- A task that waited on a core at its fault (R431): executed again, or ended with ST_FIRMWARE_FAULT at its second fault, or where it is of a
kind that is never re-executed (R424). -/
def State.coreFaultTask (s : State) (tid : Nat) : State :=
  match s.task tid with
  | none => s
  | some t =>
    if t.phase = .done then s
    else if 1 ≤ t.coreFaults ∨ t.oneShot then s.endTask tid 0x3F
    else
      let s := s.updTask tid fun t => { t with coreFaults := t.coreFaults + 1 }
      if t.phase = .running then s.reexecute t else s.bump (Addr.ras t.p 0x28) 1

/-- CONTROL_CORE_FAULT (R431, R432). -/
def execControlCoreFault (core : Nat) (exception : Bool) (waiting pages : List Nat) (second : Bool) (s : State) :
    Host.Outcome State Fault Refusal :=
  if 8 ≤ core then .fault .noSuchUnit
  else if s.stopped || s.boot != .firmware then .next s
  else
    let cause := if exception then 1 else 0
    let s := (s.bump 0x700018 1).event 0x31 (unitOf 4 0 core) 0xFF core (Config.causeNo 0x31 cause)
    if second then .next (s.enterFatal core 0)
    else
      let s := s.setRestarting core true
      let s := pages.foldl State.abandonMig s
      .next ((nubList waiting).foldl State.coreFaultTask s)

/-- CORE_RESTART_COMPLETE (R431). -/
def execCoreRestartComplete (core : Nat) (s : State) : Host.Outcome State Fault Refusal :=
  if 8 ≤ core then .fault .noSuchUnit
  else if s.stopped then .next s
  else .next (s.setRestarting core false)

/-- CORE_RESTART_TIMEOUT (R432): a restart that has not completed within 50 ms. -/
def execCoreRestartTimeout (core : Nat) (s : State) : Host.Outcome State Fault Refusal :=
  if 8 ≤ core then .fault .noSuchUnit
  else if s.restarting core then .next (s.enterFatal core 1)
  else .next s

end Sys2Proof.Machine
end

