-- ==== Sys2Proof/Machine/Links.lean ====
section
/-! DEFINITION. Ordarel Link ports, flits, replay and routes (R517 to R523). -/
namespace Sys2Proof.Machine
open Sys2Proof

/-- A port's record. -/
def State.port (s : State) (i : Nat) : PortRec := (s.ports.find? fun x => x.i == i).getD { i := i }

def State.setPort (s : State) (x : PortRec) : State :=
  { s with ports := x :: s.ports.filter fun y => y.i != x.i }

/-- LNK_PORT_STATUS.STATE: 0 DISABLED, 1 TRAINING, 2 UP, 3 RETRAINING, 4 DOWN, 5 MISWIRED (R534). -/
def State.portState (s : State) (i : Nat) : Nat := s.rd (Addr.port i 0) 3 0
def State.portOwner (s : State) (i : Nat) : Nat := s.rd (Addr.port i 0) 47 45
def State.portRole (s : State) (i : Nat) : Nat := s.rd (Addr.port i 0) 44 43
def State.portPartner (s : State) (i : Nat) : Nat := s.rd (Addr.port i 0) 63 48

/-- This module's identifier. -/
def State.moduleId (s : State) : Nat := s.rd 0x900020 15 0

/-- The ports of a partition that carry data and are UP (R522, R528). -/
def State.dataPorts (s : State) (p : Nat) : List Nat :=
  (List.range 24).filter fun i => s.portState i == 2 && s.portOwner i == p && (s.portRole i == 1 || s.portRole i == 3)

/-- The port for a flit of a partition to a module (R523): that to the neighbour itself, else the first usable one of its route. -/
def State.routeTo (s : State) (p dest : Nat) : Option Nat :=
  let ps := s.dataPorts p
  match ps.find? fun i => s.portPartner i == dest with
  | some i => some i
  | none => (s.routes.find? fun r => r.dest == dest).bind fun r => r.ports.find? fun i => ps.contains i

/-! Sending. -/

/-- The credits of a channel. -/
def PortRec.credit (x : PortRec) (vc : Nat) : Nat := x.credits.getD vc 0

/-- A flit that carries a SEQ (R521). -/
def flitHasSeq (f : Flit) : Bool := f.kind != 0 && f.kind != 4

/-- Sending one waiting flit on an UP port when its channel has a credit (R520) and the replay buffer has room (R521), else
keeping it. -/
def State.sendOne (s : State) (i : Nat) (f : Flit) : State :=
  let x := s.port i
  if x.credit f.vc = 0 ∨ 512 ≤ x.unacked.length then s.setPort { x with queue := x.queue ++ [f] }
  else
    let f := { f with seq := x.txNext, ackSeq := (x.rxNext + 4095) % 4096, ackValid := true }
    let s := s.setPort { x with
      txNext := (x.txNext + 1) % 4096, unacked := x.unacked ++ [f], credits := x.credits.set f.vc (x.credit f.vc - 1) }
    (s.bump (Addr.port i 8) 1).tell (.flit i f)

/-- Sending what waits on a port, in order. -/
def State.pump (s : State) (i : Nat) : State :=
  if s.portState i ≠ 2 then s
  else
    let x := s.port i
    x.queue.foldl (fun (s : State) f => s.sendOne i f) (s.setPort { x with queue := [] })

/-- Queueing flits on a port. -/
def State.queueFlits (s : State) (i : Nat) (fs : List Flit) : State :=
  let x := s.port i
  (s.setPort { x with queue := x.queue ++ fs }).pump i

/-! Acknowledgement, replay and retraining (R521). -/

/-- The flits after the acknowledged SEQ, when a kept flit has it. -/
def dropAcked (ack : Nat) : List Flit → List Flit
  | [] => []
  | f :: fs => if f.seq = ack then fs else dropAcked ack fs

/-- The replay buffer after an acknowledgement: unchanged when no kept flit has the SEQ. -/
def PortRec.acked (x : PortRec) (ack : Nat) : PortRec :=
  if x.unacked.any fun f => f.seq == ack then { x with unacked := dropAcked ack x.unacked, replays := 0 } else x

/-- Sending the kept flits again, in order. -/
def State.resend (s : State) (i : Nat) : State :=
  let x := s.port i
  let s := (s.bump (Addr.port i 0x28) 1).bump (Addr.port i 8) x.unacked.length
  x.unacked.foldl (fun (s : State) f => s.tell (.flit i f)) s

/-- A port retrains; its replay buffer is kept. -/
def State.retrainPort (s : State) (i : Nat) : State := (s.setFld (Addr.port i 0) 3 0 3).bump (Addr.port i 0x30) 1

/-- A NAK: replay from ACK_SEQ + 1, and a retraining when the oldest flit has been replayed 8 times. -/
def State.nakAt (s : State) (i ack : Nat) : State :=
  let x := (s.port i).acked ack
  if x.unacked.isEmpty then s.setPort x
  else
    let s := (s.setPort { x with replays := x.replays + 1 }).resend i
    if 8 ≤ x.replays + 1 then (s.setPort { x with replays := 0 }).retrainPort i else s

/-- NAK_RECEIVE (R521). -/
def execNakReceive (i ack : Nat) (s : State) : Host.Outcome State Fault Refusal :=
  if 24 ≤ i then .fault .noSuchUnit
  else if s.portState i ≠ 2 then .next s
  else .next (s.nakAt i ack)

/-- ACK_TIMEOUT (R521): a port that waits for an acknowledgement retrains. -/
def execAckTimeout (i : Nat) (s : State) : Host.Outcome State Fault Refusal :=
  if 24 ≤ i then .fault .noSuchUnit
  else if s.portState i = 2 ∧ !(s.port i).unacked.isEmpty then .next (s.retrainPort i)
  else .next s

/-! Receiving. -/

/-- A flit for another module goes on, or is dropped (R523). -/
def State.forward (s : State) (f : Flit) : State :=
  match s.routeTo f.part f.dest with
  | some j => if 8 ≤ f.hops then s.bump 0x500010 1 else s.queueFlits j [{ f with hops := f.hops + 1 }]
  | none => s.bump 0x500010 1

/-- What an accepted flit does (R522, R523); it leaves the buffer, and its credit returns (R520). -/
def State.acceptFlit (s : State) (i : Nat) (f : Flit) : State :=
  let s := if flitHasSeq f then s.tell (.credit i f.vc) else s
  if f.kind = 1 ∨ f.kind = 2 then
    if s.portOwner i ≠ f.part ∨ s.portRole i = 2 then s.bump (Addr.port i 0x48) 1
    else if f.dest = s.moduleId then s
    else s.forward f
  else s

/-- The acknowledgement and the credits that a flit's header carries. -/
def State.headerFields (s : State) (i : Nat) (f : Flit) : State :=
  let x := s.port i
  let x := { x with credits := x.credits.set f.crVc (x.credit f.crVc + f.crCount) }
  let s := s.setPort (if f.ackValid && !f.nak then x.acked f.ackSeq else x)
  if f.nak then s.nakAt i f.ackSeq else s

/-- FLIT_RECEIVE (R520 to R523). -/
def execFlitReceive (i : Nat) (f : Flit) (stall : Nat) (s : State) : Host.Outcome State Fault Refusal :=
  if 24 ≤ i then .fault .noSuchUnit
  else if s.portState i ≠ 2 then .next s
  else
    let x := s.port i
    let s := s.bump (Addr.port i 0x40) stall
    let order := flitHasSeq f && f.seq != x.rxNext
    if 2 ≤ f.found ∨ order then
      -- after a bad flit every other one is discarded until the replay arrives
      if x.awaiting ∧ f.found < 2 then .next s
      else
        .next (((s.setPort { x with awaiting := true }).bump (Addr.port i 0x20) 1).tell (.nak i ((x.rxNext + 4095) % 4096)))
    else
      let s := if f.found = 1 then s.bump (Addr.port i 0x18) 1 else s
      let s := s.bump (Addr.port i 0x10) 1
      let s := if flitHasSeq f then s.setPort { x with rxNext := (x.rxNext + 1) % 4096, awaiting := false } else s
      .next (((s.headerFields i f).acceptFlit i f).pump i)

/-! Training (R517, R521). -/

/-- PORT_TRAINED (R517): a port comes UP, or is MISWIRED; after a retraining its replay resumes, after TRAINING it starts afresh. -/
def execPortTrained (i partner rate : Nat) (s : State) : Host.Outcome State Fault Refusal :=
  if 24 ≤ i then .fault .noSuchUnit
  else
    let st := s.portState i
    let x := s.port i
    if (st ≠ 1 ∧ st ≠ 3) ∨ rate = 0 ∨ 2 < rate ∨ (x.maxRate = 1 ∧ rate = 2) then .next s
    else
      let a := Addr.port i 0
      let s := s.setReg a (setBits (setBits (s.reg a) 63 48 partner) 7 4 rate)
      if x.expected ≠ 0xFFFF ∧ x.expected ≠ partner % 65536 then .next (s.setFld a 3 0 5)
      else
        let s := s.setFld a 3 0 2
        let s := if st = 3 then (if x.unacked.isEmpty then s else s.resend i)
          else s.setPort { x with rxNext := 0, awaiting := false, txNext := 0, unacked := [], replays := 0, credits := [448, 48, 8] }
        .next (s.pump i)

/-- PORT_RETRAIN_TIMER (R517, R521): a port that is TRAINING or DOWN tries again. -/
def execPortRetrainTimer (i : Nat) (s : State) : Host.Outcome State Fault Refusal :=
  if 24 ≤ i then .fault .noSuchUnit
  else if s.portState i = 4 then .next (s.setFld (Addr.port i 0) 3 0 1)
  else .next s

/-- LINK_PORT_DOWN (R451, R521): three retrainings have failed. -/
def execLinkPortDown (i : Nat) (s : State) : Host.Outcome State Fault Refusal :=
  if 24 ≤ i then .fault .noSuchUnit
  else if s.portState i ≠ 3 then .next s
  else
    let x := s.port i
    let a := Addr.port i 0
    let s := s.setReg a (setBits (setBits (s.reg a) 7 4 0) 3 0 4)
    let s := (s.setPort { x with unacked := [], queue := [], replays := 0, awaiting := false }).bump (Addr.port i 0x38) 1
    .next (s.upPortDown i)

end Sys2Proof.Machine
end

