-- ==== Sys2Proof/Machine/Collectives.lean ====
section
/-! DEFINITION. Collectives (R428, R430, R524 to R528) and host-core callbacks (R391). -/
namespace Sys2Proof.Machine
open Sys2Proof

/-! The descriptor (R525). -/

def TaskRec.coRows (t : TaskRec) : Nat := t.f 0x40 4
def TaskRec.coCols (t : TaskRec) : Nat := t.f 0x44 4
def TaskRec.coIn (t : TaskRec) : Conv := (convOf (t.w 0x48)).getD default
def TaskRec.coOut (t : TaskRec) : Conv := (convOf (t.w 0x4C)).getD default
def TaskRec.coMembers (t : TaskRec) : Nat := t.f 0x22 2

/-- The input of this member. -/
def TaskRec.coSrc (t : TaskRec) : Tensor :=
  { base := t.f 0x50 8, fmt := t.coIn.fmt, smode := .none, t := f32Zero, scale := 0, stride := t.f 0x60 4, bstride := 0, nb := 1
    rows := t.coRows, cols := t.coCols }

/-- The rows of the result that member j of n receives (R526). -/
def shareRows (rows n j : Nat) : Nat × Nat := (j * rows / n, (j + 1) * rows / n)

/-- The place of this member in the list. -/
def State.coPlace (s : State) (t : TaskRec) : Nat := (s.memberList t).findIdx (· == s.selfEntry t.p)

/-- The output of this member (R526). -/
def State.coDst (s : State) (t : TaskRec) : Tensor :=
  let r := shareRows t.coRows (max 1 t.coMembers) (s.coPlace t)
  { base := t.f 0x58 8, fmt := t.coOut.fmt, smode := .none, t := f32Zero, scale := 0, stride := t.f 0x64 4, bstride := 0, nb := 1
    rows := if t.f 1 1 = 2 then r.2 - r.1 else t.coRows
    cols := if t.f 1 1 = 1 then t.coCols * t.coMembers else t.coCols }

def TaskRec.coReads (t : TaskRec) : List Rng := t.listReads ++ t.coSrc.rngs
def State.coWrites (s : State) (t : TaskRec) : List Rng := (s.coDst t).rngs

/-- The formats that a reduction takes and gives (R526). -/
def coFmt (f : Fmt) (pair : Bool) : Bool := f == .fp32 || f == .bf16 || f == .fp16 || (pair && f == .fp32pair)

/-- The descriptor keeps R525 to R527. -/
def State.coOk (s : State) (t : TaskRec) : Bool :=
  let op := t.f 1 1
  let acc := t.f 0x39 1
  let i := t.coIn
  let o := t.coOut
  s.listOk t && t.zeros 0x28 0x30 && t.zeros 0x3A 0x40 && t.zeros 0x68 0x80 && t.aligned [0x30, 0x50, 0x58] &&
    inExt t.coRows 16777216 && inExt t.coCols 16777216 && (convOf (t.w 0x48)).isSome && (convOf (t.w 0x4C)).isSome &&
    i.smode == .none && o.smode == .none && t.coSrc.strideOk && (s.coDst t).strideOk && !rngsMeet (s.coDst t).rngs t.coSrc.rngs &&
    (if op = 1 then t.f 0x48 4 == t.f 0x4C 4 && (t.coCols * i.fmt.width) % 512 == 0
     else t.f 0x38 1 ≤ 2 && acc ≤ 1 && (acc == 0 || t.f 0x38 1 == 0) && coFmt i.fmt (acc == 1) && coFmt o.fmt true && o.rnd != .sr)

/-- What the digest of a collective's messages covers (R527), beside the member list. -/
def TaskRec.coDigest (t : TaskRec) : List Nat :=
  [t.f 1 1, t.f 0x38 1, t.f 0x39 1, t.coRows, t.coCols, t.f 0x48 4, t.f 0x4C 4]

/-! Blocks (R524). -/

/-- Cutting bytes into blocks of 4 KiB. -/
def cutBlocks (bs : List Byte) : List (List Byte) :=
  (List.range ((bs.length + 4095) / 4096)).map fun i => (bs.drop (4096 * i)).take 4096

/-- The input's rows, one after another. -/
def State.coBytes (s : State) (t : TaskRec) : List Byte :=
  (List.range t.coRows).flatMap fun r => s.devBytes (t.coSrc.rowAddr 0 r) t.coSrc.rowLen

/-- The 17 flits of a block: a header flit and 16 payload flits on VC 0. -/
def blockFlits (dest src part : Nat) (bytes : List Byte) : List Flit :=
  let one := fun (pay : List Byte) =>
    ({ dest := dest, src := src, part := part, vc := 0, kind := 1, seq := 0, ackSeq := 0, ackValid := false, nak := false, crVc := 0
       crCount := 0, hops := 0, len := 16, msg := 0, payload := pay, found := 0 } : Flit)
  one [] :: (List.range 16).map fun i => one ((bytes.drop (256 * i)).take 256)

/-- Sending a block of this member to another one: to a partition of this module at once, else on the ports that R528 deals it to
by its index, when the route table reaches the member. -/
def State.sendBlock (s : State) (c : CollRec) (j idx : Nat) : State :=
  let dest := c.list.getD j 0
  let bytes := c.blocks.getD idx []
  let b : CollBlock := { member := c.me, idx := idx, bytes := bytes, good := true, digest := c.digest, list := c.list }
  let s' := (s.bump (Addr.coll c.p 8) 1).tell (.block dest b)
  if dest % 65536 = s.moduleId then s'
  else
    match s.routeTo c.p (dest % 65536) with
    | none => s
    | some i =>
      let ps := (s.dataPorts c.p).filter fun k => s.portPartner k == dest % 65536
      s'.queueFlits (ps.getD (idx % max 1 ps.length) i) (blockFlits (dest % 65536) s.moduleId (dest / 65536) bytes)

/-- The members other than this one. -/
def CollRec.others (c : CollRec) : List Nat := (List.range c.list.length).filter fun j => j != c.me

/-- Starting a collective: its blocks go to every other member. -/
def State.startColl (s : State) (t : TaskRec) : State :=
  let c : CollRec := { tid := t.tid, group := t.f 0x20 2, seq := t.f 0x24 4, p := t.p, list := s.memberList t, me := s.coPlace t
                       digest := t.coDigest, blocks := cutBlocks (s.coBytes t) }
  let s := { s.updTask t.tid fun t => { t with phase := .running } with colls := s.colls ++ [c] }
  c.others.foldl (fun (s : State) j => (List.range c.blocks.length).foldl (fun (s : State) i => s.sendBlock c j i) s) s

/-- Running a collective of an operation (R526, R527). -/
def State.runColl (s : State) (t : TaskRec) : State :=
  s.readInputs t noDie (unitOf 2 0 0) (rngBlocks t.coReads) fun s => if !s.coOk t then s.endTask t.tid 0x10 else s.startColl t

/-- The partitions with a collective that can start (R406). -/
def State.collWaiting (s : State) : List Nat :=
  (List.range 8).filter fun p => s.tasks.any fun t => t.p == p && (t.isKind 5 0 || t.isKind 5 1 || t.isKind 5 2) && s.mayRun t

/-- Starting a collective in its partition's turn. -/
def State.collTurn (s : State) (t : TaskRec) : State :=
  if s.hasTurn .collectives s.collWaiting t.p then (s.takeTurn .collectives s.collWaiting t.p).runColl t else s

/-- ALL_REDUCE (R526). -/
def execAllReduce (tid : Nat) (s : State) : Host.Outcome State Fault Refusal :=
  match s.task tid with
  | none => .next s
  | some t => if !t.isKind 5 0 ∨ !s.mayRun t then .next s else .next (s.collTurn t)

/-- ALL_GATHER (R526). -/
def execAllGather (tid : Nat) (s : State) : Host.Outcome State Fault Refusal :=
  match s.task tid with
  | none => .next s
  | some t => if !t.isKind 5 1 ∨ !s.mayRun t then .next s else .next (s.collTurn t)

/-- REDUCE_SCATTER (R526). -/
def execReduceScatter (tid : Nat) (s : State) : Host.Outcome State Fault Refusal :=
  match s.task tid with
  | none => .next s
  | some t => if !t.isKind 5 2 ∨ !s.mayRun t then .next s else .next (s.collTurn t)

/-! The result (R526). -/

/-- The bytes of member j's input, once every block is there. -/
def CollRec.input (c : CollRec) (j : Nat) : List Byte :=
  if j = c.me then c.blocks.flatten
  else (List.range c.blocks.length).flatMap fun i =>
    ((c.got.find? fun b => b.member == j && b.idx == i).map CollBlock.bytes).getD []

/-- Every block of every other member has arrived. -/
def CollRec.full (c : CollRec) : Bool :=
  c.others.all fun j => (List.range c.blocks.length).all fun i => c.got.any fun b => b.member == j && b.idx == i

/-- An element of an input, decoded by R46; a pair keeps both words. -/
def coElem (f : Fmt) (bs : List Byte) (rowLen r col : Nat) : Pair :=
  let code := elemCode f (fun i => bs.getD (r * rowLen + i) 0) col
  if f = .fp32pair then ⟨BitVec.ofNat 32 code, BitVec.ofNat 32 (code >>> 32)⟩
  else ⟨(loadF32 f .none [] f32Zero 0 code).1, f32Zero⟩

/-- One step of the reduction. -/
def coStep (func acc : Nat) (t x : Pair) : Pair :=
  if acc = 1 then pairAdd t x
  else if func = 0 then ⟨fadd t.hi x.hi, f32Zero⟩
  else if func = 1 then ⟨fmax t.hi x.hi, f32Zero⟩
  else ⟨fmin t.hi x.hi, f32Zero⟩

/-- The reduction of one element over the members, in the order of the list. -/
def coReduce (func acc : Nat) : List Pair → Pair
  | [] => ⟨f32Zero, f32Zero⟩
  | x :: xs => xs.foldl (coStep func acc) x

/-- One row of a reduction, as the converter takes it. -/
def coRow (t : TaskRec) (ins : List (List Byte)) (r : Nat) : List Src :=
  let acc := t.f 0x39 1
  (List.range t.coCols).map fun col =>
    let v := coReduce (t.f 0x38 1) acc (ins.map fun bs => coElem t.coIn.fmt bs t.coSrc.rowLen r col)
    if acc = 1 then .pair v else .f32 v.hi

/-- Storing the result. The converter is the collective engine's, on an I/O die: bad codes, saturations and draws reach no
CD_CONV counter of a compute die (log 138). -/
def State.coStore (s : State) (t : TaskRec) (c : CollRec) : State :=
  let ins := (List.range c.list.length).map c.input
  let y := s.coDst t
  let r0 := if t.f 1 1 = 2 then (shareRows t.coRows c.list.length c.me).1 else 0
  (List.range y.rows).foldl (fun (s : State) r =>
    if t.f 1 1 = 1 then
      s.devWriteRun noDie (some t.tid) (y.rowAddr 0 r)
        (ins.flatMap fun bs => (bs.drop (r * t.coSrc.rowLen)).take t.coSrc.rowLen)
    else
      let q := convRow t.coOut f32Zero [] [] (fun _ => 0) (coRow t ins (r0 + r))
      s.devWrite noDie (some t.tid) (s.putCodes y 0 r ((List.range q.1.length).map fun i => (i, q.1.getD i 0)))) s

/-- Changing a running collective. -/
def State.setColl (s : State) (c : CollRec) : State :=
  { s with colls := s.colls.map fun (x : CollRec) => if x.tid = c.tid then c else x }

/-- Every block of this member has been acknowledged by every other one. -/
def CollRec.allAcked (c : CollRec) : Bool :=
  c.others.all fun j => (List.range c.blocks.length).all fun i => c.acked.contains (j, i)

/-- A collective stores its result when every block is there, and ends when its own have been acknowledged, until when its
inputs stay immutable (R27, R527). -/
def State.finishColl (s : State) (t : TaskRec) (c : CollRec) : State :=
  let s := if c.full && !c.stored then (s.coStore t c).setColl { c with stored := true } else s.setColl c
  if c.full && c.allAcked then s.endColl c.tid 0 else s

/-- A difference of descriptors among members (R453, R527). -/
def State.mismatchColl (s : State) (c : CollRec) : State := ((s.withdraw c.tid).bump 0x900078 1).endTask c.tid 0x10

/-- COLL_BLOCK_RECEIVE (R428, R524). The last block waits while a page of the output has no frame or is held (R322, R327). -/
def execCollBlockReceive (tid : Nat) (blk : CollBlock) (s : State) : Host.Outcome State Fault Refusal :=
  match s.task tid with
  | none => .next s
  | some t =>
    match s.colls.find? fun c => c.tid == tid with
    | none => .next s
    | some c =>
      let dest := c.list.getD blk.member 0
      if c.list.length ≤ blk.member ∨ blk.member = c.me then .next s
      else if blk.digest ≠ c.digest ∨ blk.list ≠ c.list then .next (s.mismatchColl c)
      else if c.blocks.length ≤ blk.idx then .next s
      else if c.got.any fun b => b.member == blk.member && b.idx == blk.idx then
        .next ((s.bump (Addr.coll c.p 0x20) 1).tell (.blockAck dest c.me blk.idx))
      else if blk.good && { c with got := c.got ++ [blk] }.full && !s.canWriteAll noDie (rngPages (s.coWrites t)) then .next s
      else if !blk.good then
        let n := (c.fouls.filter fun f => f == (blk.member, blk.idx)).length + 1
        let s := (s.bump (Addr.ras c.p 0x20) 1).event 0x20 (unitOf 2 0 0) c.p blk.idx 4
        if s.foulRetries < n then .next (s.endColl tid 0x20)
        else .next ((s.setColl { c with fouls := (blk.member, blk.idx) :: c.fouls }).tell (.blockAgain dest c.me blk.idx))
      else
        let s := (s.bump (Addr.coll c.p 0x10) 1).tell (.blockAck dest c.me blk.idx)
        .next (s.finishColl t { c with got := c.got ++ [blk] })

/-- COLL_BLOCK_ACK (R524). -/
def execCollBlockAck (tid member idx : Nat) (s : State) : Host.Outcome State Fault Refusal :=
  match s.task tid with
  | none => .next s
  | some t =>
    match s.colls.find? fun c => c.tid == tid with
    | none => .next s
    | some c =>
      if c.list.length ≤ member ∨ c.blocks.length ≤ idx ∨ c.acked.contains (member, idx) then .next s
      else .next (s.finishColl t { c with acked := c.acked ++ [(member, idx)] })

/-- COLL_ROUTE_CHANGE (R524): every unacknowledged block goes out again. -/
def execCollRouteChange (tid : Nat) (s : State) : Host.Outcome State Fault Refusal :=
  match s.task tid with
  | none => .next s
  | some _ =>
    match s.colls.find? fun c => c.tid == tid with
    | none => .next s
    | some c =>
      .next (c.others.foldl (fun (s : State) j =>
        ((List.range c.blocks.length).filter fun i => !c.acked.contains (j, i)).foldl (fun (s : State) i =>
          (s.bump (Addr.coll c.p 0x18) 1).sendBlock c j i) s) s)

/-- Some other member cannot be reached. -/
def State.noRoute (s : State) (c : CollRec) : Bool :=
  c.others.any fun j =>
    let m := c.list.getD j 0 % 65536
    m != s.moduleId && (s.routeTo c.p m).isNone

/-- LINK_TIMEOUT (R430). -/
def execLinkTimeout (tid : Nat) (s : State) : Host.Outcome State Fault Refusal :=
  match s.task tid with
  | none => .next s
  | some t =>
    match s.colls.find? fun c => c.tid == tid with
    | none => .next s
    | some c => if s.noRoute c then .next ((s.bump (Addr.ras t.p 0x40) 1).endColl tid 0x30) else .next s

/-! Host-core callbacks (R391). -/

/-- What a callback reads and writes of the device virtual range. -/
def TaskRec.cbkReads (t : TaskRec) : List Rng := [{ base := t.f 0x20 8, len := 16 }]
def TaskRec.cbkWrites (t : TaskRec) : List Rng :=
  [{ base := t.f 0x20 8, len := 64 + 64 * pow2 (t.f 0x28 1) }, { base := t.f 0x50 8, len := 4 }]

/-- The descriptor keeps R391. -/
def TaskRec.cbkOk (t : TaskRec) : Bool :=
  4 ≤ t.f 0x28 1 && t.f 0x28 1 ≤ 12 && t.zeros 0x29 0x30 && t.f 0x50 8 % 4 == 0 && t.zeros 0x58 0x80

/-- The queue is full. -/
def State.cbkFull (s : State) (t : TaskRec) : Bool :=
  let q := t.f 0x20 8
  decide (pow2 (t.f 0x28 1) ≤ (s.devNat q 8 + pow2 64 - s.devNat (q + 8) 8) % pow2 64)

/-- The record that a callback writes. -/
def TaskRec.cbkRecord (t : TaskRec) : List Byte :=
  leBytes 4 t.seq ++ leBytes 2 t.idx ++ leBytes 1 t.tenant ++ leBytes 1 0 ++ ((t.desc.drop 0x30).take 32) ++ leBytes 8 (t.f 0x50 8) ++
    List.replicate 16 0

/-- Writing the record, then the producer count. -/
def State.cbkWrite (s : State) (t : TaskRec) : State :=
  let q := t.f 0x20 8
  let n := s.devNat q 8
  let s := s.devWriteRun noDie (some t.tid) (q + 64 + 64 * (n % pow2 (t.f 0x28 1))) t.cbkRecord
  let s := s.devWriteRun noDie (some t.tid) q (leBytes 8 ((n + 1) % pow2 64))
  s.updTask t.tid fun t => { t with mark := 2 }

/-- HOST_CALLBACK: the done word is cleared, and the record is written when the queue has room. -/
def execHostCallback (tid : Nat) (s : State) : Host.Outcome State Fault Refusal :=
  match s.task tid with
  | none => .next s
  | some t =>
    if !t.isKind 6 0 ∨ !s.mayRun t then .next s
    else if !t.cbkOk then .next (s.endTask tid 0x10)
    else
      if !s.canWriteAll noDie (rngPages t.cbkWrites) then .next s
      else .next (s.readInputs t noDie (unitOf 4 0 0x20) (rngBlocks t.cbkReads) fun s =>
        let s := s.devWriteRun noDie (some tid) (t.f 0x50 8) (leBytes 4 0)
        let s := s.updTask tid fun t => { t with phase := .running, mark := 1 }
        if s.cbkFull t then s else s.cbkWrite t)

/-- CALLBACK_QUEUE_ROOM: tenant code advances the consumer count. -/
def execCallbackQueueRoom (tid consumer : Nat) (s : State) : Host.Outcome State Fault Refusal :=
  match s.task tid with
  | none => .next s
  | some t =>
    if !t.isKind 6 0 ∨ t.phase ≠ .running ∨ !s.canWriteAll noDie (rngPages t.cbkWrites) then .next s
    else
      let s := s.devWriteRun noDie none (t.f 0x20 8 + 8) (leBytes 8 (consumer % pow2 64))
      .next (if t.mark = 1 ∧ !s.cbkFull t then s.cbkWrite t else s)

/-- CALLBACK_DONE: tenant code writes the done word; a value other than 0 completes the task. -/
def execCallbackDone (tid : Nat) (value : W32) (s : State) : Host.Outcome State Fault Refusal :=
  match s.task tid with
  | none => .next s
  | some t =>
    if !t.isKind 6 0 ∨ t.phase ≠ .running ∨ t.mark ≠ 2 ∨ !s.canWriteAll noDie (rngPages t.cbkWrites) then .next s
    else
      let s := s.devWriteRun noDie none (t.f 0x50 8) (leBytes 4 value.toNat)
      if value = 0 then .next s
      else .next ((s.updTask tid fun t => { t with aux := value.toNat }).endTask tid 0)

end Sys2Proof.Machine
end

