-- ==== Sys2Proof/Machine/Codec.lean ====
section
/-! DEFINITION. Video codec sessions (R468 to R501): the commands of KIND 4, the frame-buffer pool and its marks, concealment, key
pictures, and the layouts of decoded output and encoder input. What a standard makes of a coded picture is an operand. -/
namespace Sys2Proof.Machine
open Sys2Proof

/-! Sessions (R476 to R481). -/

/-- SESS_ADDR (R473), and the session record. -/
def TaskRec.cdSess (t : TaskRec) : Nat := t.f 0x20 8
def TaskRec.cdRecord (t : TaskRec) : Rng := { base := t.cdSess, len := 256 }

/-- The session that a task names, when it is open or stopped. -/
def State.session (s : State) (p a : Nat) : Option SessRec := s.sessions.find? fun x => x.p == p && x.addr == a

def State.setSession (s : State) (x : SessRec) : State :=
  { s with sessions := s.sessions.map fun y => if y.p = x.p ∧ y.addr = x.addr then x else y }

/-- A field of the OPEN descriptor that made the session (R477). -/
def SessRec.f (x : SessRec) (off n : Nat) : Nat := bytesNat x.desc off n

def SessRec.encodes (x : SessRec) : Bool := x.f 0x29 1 == 1
def SessRec.depth (x : SessRec) : Nat := x.f 0x2E 1
def SessRec.chroma (x : SessRec) : Nat := x.f 0x2F 1
def SessRec.width (x : SessRec) : Nat := x.f 0x30 2
def SessRec.height (x : SessRec) : Nat := x.f 0x32 2

/-- FB_BYTES of R480. -/
def fbBytes (width height depth chroma : Nat) : Nat :=
  let a := roundUp width 128 * roundUp height 128 * (if depth = 8 then 1 else 2)
  let twice := if chroma = 0 then 2 else if chroma = 1 then 3 else if chroma = 2 then 4 else 6
  roundUp (a * twice / 2 + 65536) 262144

def SessRec.fb (x : SessRec) : Nat := fbBytes x.width x.height x.depth x.chroma

/-- The address of buffer i (R480). -/
def SessRec.bufAddr (x : SessRec) (i : Nat) : Nat := x.f 0x48 8 + i * x.fb

/-- The pool region. -/
def SessRec.pool (x : SessRec) : Rng := { base := x.f 0x48 8, len := x.marks.length * x.fb }

/-- The session that an OPEN task makes (R478). -/
def TaskRec.opened (t : TaskRec) : SessRec := { addr := t.cdSess, p := t.p, desc := t.desc, marks := List.replicate (t.f 0x34 2) {} }

/-- A buffer without a mark is free (R482). -/
def BufMark.free (m : BufMark) : Bool := !m.short && !m.long && !m.out

def SessRec.freeCount (x : SessRec) : Nat := (x.marks.filter BufMark.free).length

/-- The bit depths and chroma formats of R468, by standard and direction. -/
def codingShape (codec dir depth chroma : Nat) : Bool :=
  (depth == 8 || (depth == 10 && !(codec == 0 && dir == 1))) &&
    (if codec = 0 then chroma ≤ 1
     else if codec = 1 then chroma == 1 || (dir == 0 && 2 ≤ chroma && chroma ≤ 3)
     else if codec = 2 then chroma ≤ 1 || (dir == 0 && chroma == 3)
     else chroma ≤ 1)

/-- Firmware's write of a session record (R476): the public fields, and the internal ones as free values. -/
def State.putRecord (s : State) (a state free picsIn picsOut : Nat) : State :=
  let inner := (List.range 232).map fun i => Config.recordByte s.free i
  (s.devWriteRun noDie none a (leBytes 4 state ++ leBytes 4 free ++ leBytes 8 picsIn ++ leBytes 8 picsOut ++ inner)).spend

/-- Writing a session back with a STATE, and with PICS_IN and PICS_OUT raised. -/
def State.saveSession (s : State) (x : SessRec) (state dIn dOut : Nat) : State :=
  let a := x.addr
  (s.setSession x).putRecord a state x.freeCount ((s.devNat (a + 8) 8 + dIn) % pow2 64) ((s.devNat (a + 16) 8 + dOut) % pow2 64)

/-- STATE of the record in memory. -/
def State.sessState (s : State) (a : Nat) : Nat := s.devNat a 4

/-- The cores of a session that are ACTIVE (R492, R499). -/
def State.groupCores (s : State) (x : SessRec) : List Nat :=
  (List.range 16).filter fun i => bit (x.f 0x2A 2) i && s.rd 0x400000 (2 * i + 1) (2 * i) == 0

/-- Every page of a region is mapped with PIN = 1 in the partition's span. -/
def State.pinnedRun (s : State) (p base len : Nat) : Bool :=
  match s.part p with
  | none => false
  | some x => (List.range (len / 262144)).all fun i =>
      let pg := base / 262144 + i
      x.owns pg && rtState (s.rt pg) != 0 && rtPin (s.rt pg)

/-- The descriptor of OPEN keeps R477, R478 and R481. -/
def State.openOk (s : State) (t : TaskRec) : Bool :=
  let codec := t.f 0x28 1
  let dir := t.f 0x29 1
  let mask := t.f 0x2A 2
  let depth := t.f 0x2E 1
  let chroma := t.f 0x2F 1
  let w := t.f 0x30 2
  let h := t.f 0x32 2
  let n := t.f 0x34 2
  let split := t.f 0x37 1
  let fb := fbBytes w h depth chroma
  let mine := (s.sessions.filter fun x => x.p == t.p).map fun x => x.marks.length
  let all := s.sessions.map fun x => x.marks.length
  s.sessState t.cdSess == 0 && (s.session t.p t.cdSess).isNone && codec ≤ 3 && dir ≤ 1 && codingShape codec dir depth chroma &&
    Config.codingOk codec dir (t.f 0x2C 1) (t.f 0x2D 1) depth chroma && inExt (w - 63) 8129 && 64 ≤ h && h ≤ 8192 && t.f 0x36 1 ≤ 1 &&
    mask != 0 && ((List.range 16).all fun i => !bit mask i || bit (s.rd (0x400100 + 8 * t.p) 31 16) i) &&
    t.zeros 0x3D 0x40 && t.zeros 0x50 0x100 && t.f 0x48 8 % 262144 == 0 &&
    (if dir = 0 then t.zeros 0x37 0x48 && Config.dpb codec (t.f 0x2D 1) w h + 1 ≤ n
     else split ≤ 3 && !(split == 3 && (codec == 2 || codec == 0)) && !(split == 1 && codec == 0) && inExt (t.f 0x38 1) 64 &&
       t.f 0x39 1 ≤ 2 && t.f 0x3B 1 ≤ 7 && t.f 0x3C 1 ≤ 16 && 4 + t.f 0x3B 1 + t.f 0x3C 1 ≤ n) &&
    mine.foldl (· + ·) 0 + n ≤ s.rd (0x400100 + 8 * t.p) 12 0 && all.foldl (· + ·) 0 + n ≤ 4096 && s.sessions.length < 256 &&
    s.pinnedRun t.p (t.f 0x48 8) (n * fb)

/-- A codec task that may run: of its operation, ready, its session record writable. -/
def State.codecRuns (s : State) (t : TaskRec) (op : Nat) : Bool :=
  t.isKind 4 op && s.mayRun t && s.canWriteAll noDie (rngPages [t.cdRecord])

/-- CODEC_OPEN (R478). -/
def execCodecOpen (tid : Nat) (s : State) : Host.Outcome State Fault Refusal :=
  match s.task tid with
  | none => .next s
  | some t =>
    if !s.codecRuns t 0 then .next s
    else if !s.openOk t then .next (s.endTask tid 0x10)
    else
      .next (({ s with sessions := s.sessions ++ [t.opened] }.putRecord t.cdSess 1 (t.f 0x34 2) 0 0).endTask tid 0)

/-- The session that a task other than OPEN needs: the status that ends the task where there is none, or where the session is
STOPPED and the operation does not run on it (R487). -/
def State.sessionFor (s : State) (t : TaskRec) (stoppedToo : Bool) : Option SessRec × Nat :=
  match s.session t.p t.cdSess with
  | none => (none, 0x10)
  | some x => if s.sessState x.addr = 2 ∧ !stoppedToo then (none, 0x12) else (some x, 0)

/-- CODEC_CLOSE (R479). -/
def execCodecClose (tid : Nat) (s : State) : Host.Outcome State Fault Refusal :=
  match s.task tid with
  | none => .next s
  | some t =>
    if !s.codecRuns t 7 then .next s
    else if !t.zeros 0x28 0x40 then .next (s.endTask tid 0x10)
    else
      match s.sessionFor t true with
      | (none, st) => .next (s.endTask tid st)
      | (some x, _) =>
        let s := s.saveSession { x with marks := x.marks.map fun _ => {}, held := [] } 0 0 0
        .next ({ s with sessions := s.sessions.filter fun y => !(y.p == x.p && y.addr == x.addr) }.endTask tid 0)

/-- CODEC_RESUME (R488): every reference is discarded, OUTPUT_PENDING stays. A session that is not STOPPED is left as it is. -/
def execCodecResume (tid : Nat) (s : State) : Host.Outcome State Fault Refusal :=
  match s.task tid with
  | none => .next s
  | some t =>
    if !s.codecRuns t 6 then .next s
    else if !t.zeros 0x28 0x40 then .next (s.endTask tid 0x10)
    else
      match s.sessionFor t true with
      | (none, st) => .next (s.endTask tid st)
      | (some x, _) =>
        if s.sessState x.addr ≠ 2 then .next (s.endTask tid 0)
        else
          let x := { x with marks := x.marks.map fun (m : BufMark) => { m with short := false, long := false } }
          .next ((s.saveSession x 1 0 0).endTask tid 0)

/-- CODEC_KEY_REQUEST (R489). -/
def execCodecKeyRequest (tid : Nat) (s : State) : Host.Outcome State Fault Refusal :=
  match s.task tid with
  | none => .next s
  | some t =>
    if !s.codecRuns t 3 then .next s
    else if !t.zeros 0x28 0x40 then .next (s.endTask tid 0x10)
    else
      match s.sessionFor t false with
      | (none, st) => .next (s.endTask tid st)
      | (some x, _) =>
        if !x.encodes then .next (s.endTask tid 0x10)
        else .next ((s.saveSession { x with keyDue := true } 1 0 0).endTask tid 0)

/-- CODEC_RELEASE (R475). -/
def execCodecRelease (tid : Nat) (s : State) : Host.Outcome State Fault Refusal :=
  match s.task tid with
  | none => .next s
  | some t =>
    if !s.codecRuns t 4 then .next s
    else
      let i := t.f 0x28 2
      match s.sessionFor t true with
      | (none, st) => .next (s.endTask tid st)
      | (some x, _) =>
        if !t.zeros 0x2A 0x40 || !((x.marks.getD i {}).out) then .next (s.endTask tid 0x10)
        else
          let x := { x with marks := x.marks.set i { x.marks.getD i {} with out := false } }
          .next ((s.saveSession x (s.sessState x.addr) 0 0).endTask tid 0)

/-! The descriptors of DECODE, ENCODE and FLUSH (R490, R494, R497). -/

def TaskRec.cdConv (t : TaskRec) : Conv := (convOf (t.w 0x2C)).getD default
def TaskRec.cdPatch (t : TaskRec) : Nat := t.f 0x2A 1
def TaskRec.cdLatent (t : TaskRec) : Bool := t.f 0x29 1 == 1

/-- The components of a latent (R494). -/
def SessRec.comps (x : SessRec) : Nat := if x.chroma = 0 then 1 else 3

/-- The extent of a chroma plane. -/
def chromaExt (chroma w h : Nat) : Nat × Nat :=
  if chroma = 0 then (0, 0) else if chroma = 1 then ((w + 1) / 2, (h + 1) / 2) else if chroma = 2 then ((w + 1) / 2, h) else (w, h)

/-- The elements of a row of a picture: a luma row, or a token. -/
def TaskRec.cdCols (t : TaskRec) (x : SessRec) (w : Nat) : Nat := if t.cdLatent then t.cdPatch * t.cdPatch * x.comps else w

/-- The rows of a picture of w × h: the rows of its planes, or its tokens. -/
def TaskRec.cdRows (t : TaskRec) (x : SessRec) (w h : Nat) : Nat :=
  if t.cdLatent then ceilDiv w t.cdPatch * ceilDiv h t.cdPatch else h + 2 * (chromaExt x.chroma w h).2

/-- A picture, or the ring of output frames, at the largest extent of the session. -/
def TaskRec.cdPic (t : TaskRec) (x : SessRec) : Rng :=
  { base := t.f 0x40 8, nb := if x.encodes then 1 else t.f 0x50 2, bstride := 256 * t.f 0x4C 4, n := t.cdRows x x.width x.height
    stride := t.f 0x48 4, len := rowBytes t.cdConv.fmt (t.cdCols x x.width) }

def TaskRec.cdBits (t : TaskRec) : Rng := { base := t.f 0x30 8, len := t.f 0x38 4 }
/-- The record area: its header and 17 records (R491). -/
def TaskRec.cdRec (t : TaskRec) : Rng := { base := t.f 0x58 8, len := 288 }

/-- What a task of the session reads and writes beside the session record and the pool. -/
def TaskRec.cdReads (t : TaskRec) (x : SessRec) : List Rng :=
  if x.encodes then (if t.f 1 1 = 5 then [] else [t.cdPic x]) else [t.cdBits]

def TaskRec.cdWrites (t : TaskRec) (x : SessRec) : List (List Rng) :=
  [[t.cdRec], if x.encodes then [t.cdBits] else if t.f 0x40 8 = 0 then [] else [t.cdPic x]]

/-- The fields keep R490, R494 and R497 for the session and the operation. -/
def TaskRec.cdOk (t : TaskRec) (x : SessRec) : Bool :=
  let c := t.cdConv
  let flush := t.f 1 1 == 5
  (if x.encodes then t.f 0x28 1 ≤ 1 && t.f 0x4C 4 == 0 && t.f 0x50 2 == 0
   else (t.f 0x28 1 == 0 || t.f 0x28 1 == 2) && inExt (t.f 0x50 2) 1024) &&
    (flush || (t.f 1 1 == 2) == x.encodes) && (!flush || (t.f 0x30 8 == 0 && t.f 0x38 4 == 0)) &&
    t.f 0x29 1 ≤ 1 && (convOf (t.w 0x2C)).isSome && t.f 0x2B 1 ≤ 3 && t.zeros 0x52 0x54 && t.zeros 0x60 0x80 &&
    (if t.cdLatent then [1, 2, 4, 8, 16].contains t.cdPatch && c.fmt != .fp32pair && c.fmt != .int16 && c.smode != .two
     else t.cdPatch == 1 && t.f 0x2B 1 == 0 && c.smode == .none && c.fmt == (if x.depth = 8 then .uint8 else .uint10)) &&
    t.aligned [0x30, 0x40, 0x58] && t.f 0x48 4 % 64 == 0 &&
    rowBytes c.fmt (t.cdCols x x.width) ≤ t.f 0x48 4 &&
    apartAll ((if x.encodes then [] else [[t.cdBits]]) ++ [[x.pool]] ++ t.cdWrites x)

/-- Beginning a DECODE, ENCODE or FLUSH: the session, the descriptor and the input are checked, an access unit outside the limits of
R470 ends with ST_INVALID_DESC, and the task waits for its pictures. Its words are the COUNT of its record area, word 1 of the header, and
the fouls met. -/
def State.startCodec (s : State) (t : TaskRec) (within : Bool) : State :=
  match s.sessionFor t false with
  | (none, st) => s.endTask t.tid st
  | (some x, _) =>
    if !t.cdOk x then s.endTask t.tid 0x10
    else
      s.readInputs t noDie (unitOf 3 0 0xFF) (rngBlocks (t.cdReads x)) fun s =>
        if !within then s.endTask t.tid 0x10
        else s.updTask t.tid fun t => { t with phase := .running, words := [0, 0, 0] }

/-- The pages that a picture of a task writes. -/
def TaskRec.cdPages (t : TaskRec) (x : SessRec) (k : Option Nat) : List Nat :=
  rngPages (t.cdRecord :: (t.cdWrites x).flatten ++ (k.toList.map fun i => { base := x.bufAddr i, len := x.fb }))

/-- CODEC_DECODE (R470, R490): an access unit outside the limits of R470 ends with ST_INVALID_DESC. -/
def execCodecDecode (tid : Nat) (within : Bool) (s : State) : Host.Outcome State Fault Refusal :=
  match s.task tid with
  | none => .next s
  | some t =>
    if !s.codecRuns t 1 then .next s else .next (s.startCodec t within)

/-- CODEC_ENCODE (R490). -/
def execCodecEncode (tid : Nat) (s : State) : Host.Outcome State Fault Refusal :=
  match s.task tid with
  | none => .next s
  | some t => if !s.codecRuns t 2 then .next s else .next (s.startCodec t true)

/-- CODEC_FLUSH (R473). -/
def execCodecFlush (tid : Nat) (s : State) : Host.Outcome State Fault Refusal :=
  match s.task tid with
  | none => .next s
  | some t => if !s.codecRuns t 5 then .next s else .next (s.startCodec t true)

/-! Decoded output (R494, R495). -/

/-- The sample of a component that covers luma position (x, y) in a picture of w × h. -/
def planeAt (chroma w h : Nat) (planes : List (List Nat)) (comp x y : Nat) : Nat :=
  if comp = 0 then (planes.getD 0 []).getD (y * w + x) 0
  else
    let e := chromaExt chroma w h
    (planes.getD comp []).getD ((if chroma = 1 then y / 2 else y) * e.1 + (if chroma = 3 then x else x / 2)) 0

/-- An integer in FP32: exact for samples. -/
def f32OfInt (v : Int) : F32 := valF32 (xvOfInt v)

/-- A coefficient row of R495 applied to three values in the nested order. -/
def colourRow (k : Nat → F32) (a b c : F32) : F32 := fma (k 0) a (fma (k 1) b (fmul (k 2) c))

/-- u of a component at a luma position (R495). Without chroma, Cb and Cr stand at their middle value. -/
def State.colourOf (s : State) (t : TaskRec) (x : SessRec) (w h : Nat) (planes : List (List Nat)) (comp px py : Nat) : F32 :=
  let b := x.depth
  let at' := fun i => if i ≠ 0 ∧ x.chroma = 0 then pow2 (b - 1) else planeAt x.chroma w h planes i px py
  let kind := t.f 0x2B 1
  if kind = 0 then f32OfInt (at' comp)
  else
    let y := f32OfInt ((at' 0 : Int) - 16 * pow2 (b - 8))
    let cb := f32OfInt ((at' 1 : Int) - pow2 (b - 1))
    let cr := f32OfInt ((at' 2 : Int) - pow2 (b - 1))
    colourRow (Config.colour (s.reg 0x900088).toNat kind comp) y cb cr

/-- The elements of token (bx, by), in the order (dy, dx, c). -/
def State.tokenVals (s : State) (t : TaskRec) (x : SessRec) (o : PicOut) (bx bY : Nat) : List Src :=
  let pp := t.cdPatch
  (List.range pp).flatMap fun dy => (List.range pp).flatMap fun dx => (List.range x.comps).map fun c =>
    let px := min (bx * pp + dx) (o.width - 1)
    let py := min (bY * pp + dy) (o.height - 1)
    .f32 (fma (s.colourOf t x o.width o.height o.planes c px py) (t.w 0x3C) (t.w 0x54))

/-- A picture's place as a tensor of rows. -/
def TaskRec.cdTensor (t : TaskRec) (base rows cols : Nat) : Tensor :=
  { base := base, fmt := t.cdConv.fmt, smode := t.cdConv.smode, t := Config.latentScale, scale := 0, stride := t.f 0x48 4, bstride := 0
    nb := 1, rows := rows, cols := cols }

/-- Counter values that the store of output picture k evaluates (R294, R295, R495). -/
def TaskRec.pictureDraws (t : TaskRec) (x : SessRec) (k : Nat) (o : PicOut) : Nat :=
  let n := ceilDiv o.width t.cdPatch * ceilDiv o.height t.cdPatch * (t.cdPatch * t.cdPatch * x.comps)
  let e := k % max 1 (t.f 0x50 2) * n
  if t.cdLatent && t.cdConv.draws .fp32 [] [] && n != 0 then (e + n - 1) / 4 - e / 4 + 1 else 0

/-- The bytes of output picture k (R491, R494, R495). -/
def State.pictureBytes (s : State) (t : TaskRec) (x : SessRec) (k : Nat) (o : PicOut) : List (Nat × Byte) :=
  let frames := max 1 (t.f 0x50 2)
  let base := t.f 0x40 8 + k % frames * (256 * t.f 0x4C 4)
  let c := t.cdConv
  if t.cdLatent then
    let cols := t.cdPatch * t.cdPatch * x.comps
    let across := ceilDiv o.width t.cdPatch
    let n := across * ceilDiv o.height t.cdPatch
    let q := t.cdTensor base n cols
    let tab := s.tab ((s.dies t.p).headD 0) c.fmt
    (List.range n).flatMap fun tok =>
      let e := fun i => (k % frames * n + tok) * cols + i
      let r := convRow c Config.latentScale tab [] (fun i => s.srDraw t c.stream 1 (e i)) (s.tokenVals t x o (tok % across) (tok / across))
      s.putCodes q 0 tok ((List.range cols).map fun i => (i, r.1.getD i 0))
  else
    let e := chromaExt x.chroma o.width o.height
    let plane := fun (row0 w h comp : Nat) =>
      (List.range h).flatMap fun y =>
        s.putCodes (t.cdTensor base (row0 + h) w) 0 (row0 + y)
          ((List.range w).map fun i => (i, (o.planes.getD comp []).getD (y * w + i) 0))
    plane 0 o.width o.height 0 ++
      (if x.chroma = 0 then [] else plane o.height e.1 e.2 1 ++ plane (o.height + e.2) e.1 e.2 2)

/-! Encoder input (R496). -/

/-- The integer nearest to a value, ties to even; a NaN or an infinity is no integer. -/
def f32Round (v : F32) : Option Int :=
  match f32Val v with
  | .fin n m e =>
    let d := dyOf n m e
    if 0 ≤ d.e then some (d.m * pow2 d.e.toNat)
    else
      let k : Int := pow2 (-d.e).toNat
      let q := d.m / k
      let r := d.m % k
      some (if 2 * r > k ∨ (2 * r = k ∧ q % 2 ≠ 0) then q + 1 else q)
  | _ => none

/-- v of an element of the input latent, normalised to u. -/
def State.latentIn (s : State) (t : TaskRec) (x : SessRec) (px py comp : Nat) : F32 :=
  let pp := max 1 t.cdPatch
  let cols := pp * pp * x.comps
  let tok := py / pp * ceilDiv x.width pp + px / pp
  let i := ((py % pp) * pp + px % pp) * x.comps + comp
  let q := t.cdTensor (t.f 0x40 8) (t.cdRows x x.width x.height) cols
  let sb := if q.smode.blocked then (Config.latentBlockScale tok (i / q.smode.block)).toNat else 0
  let v := (loadF32 q.fmt q.smode (s.tab ((s.dies t.p).headD 0) q.fmt) q.t sb (s.codeAt q 0 tok i)).1
  fma v (t.w 0x3C) (t.w 0x54)

/-- The value of a sample before it is rounded. -/
def State.sampleIn (s : State) (t : TaskRec) (x : SessRec) (comp px py : Nat) : F32 :=
  let kind := t.f 0x2B 1
  if kind = 0 then s.latentIn t x px py comp
  else
    let u := fun i => if i < x.comps then s.latentIn t x px py i else f32Zero
    let off : Int := if comp = 0 then 16 * pow2 (x.depth - 8) else pow2 (x.depth - 1)
    fadd (colourRow (Config.colourInv (s.reg 0x900088).toNat kind comp) (u 0) (u 1) (u 2)) (f32OfInt off)

/-- Samples of the input picture that R496 clamps: none of a planar one. -/
def State.clampCount (s : State) (t : TaskRec) (x : SessRec) : Nat :=
  if !t.cdLatent then 0
  else
    let out := fun (comp px py : Nat) =>
      match f32Round (s.sampleIn t x comp px py) with
      | some v => v < 0 || (pow2 x.depth : Int) ≤ v
      | none => true
    let one := fun (comp w h sx sy : Nat) =>
      ((List.range (w * h)).filter fun i => out comp (i % w * sx) (i / w * sy)).length
    let e := chromaExt x.chroma x.width x.height
    let sx := if x.chroma = 3 then 1 else 2
    let sy := if x.chroma = 1 then 2 else 1
    one 0 x.width x.height 1 1 + one 1 e.1 e.2 sx sy + one 2 e.1 e.2 sx sy

/-! One picture (R482 to R492). -/

/-- A core's internal memory error (R492): the attempt is abandoned, the core retires at its sixteenth, and the picture runs again
while re-executions are left. -/
def State.codecCoreErr (s : State) (t : TaskRec) (x : SessRec) (core : Nat) : State :=
  let n := ((s.coreErrs.find? fun e => e.1 == core).map Prod.snd).getD 0 + 1
  let s := { s.bump (Addr.med t.p 0x40) 1 with coreErrs := (core, n) :: s.coreErrs.filter fun e => e.1 != core }
  let s := if 16 ≤ n then
      ((s.setFld 0x400000 (2 * core + 1) (2 * core) 1).mapAdd 2 0 core).event 0x13 (unitOf 3 0 core) t.p 0 0xFF
    else s
  if (s.groupCores x).isEmpty || decide (s.taskRetries ≤ t.retries) then s.endTask t.tid 0x21
  else (s.bump (Addr.ras t.p 0x28) 1).updTask t.tid fun t => { t with retries := t.retries + 1 }

/-- A foul of a picture (R427, R493). -/
def State.codecFoul (s : State) (t : TaskRec) (blk : Nat) : State :=
  let n := t.words.getD 2 0 + 1
  let s := (s.countFouls t.p blk (unitOf 3 0 0xFF) false 1).updTask t.tid fun t => { t with words := t.words.set 2 n }
  if s.foulRetries ≤ n then s.endTask t.tid 0x20 else s

/-- The marks after a picture: the references that the standard leaves, OUTPUT_PENDING of pictures output into the pool or held for
coding, and CONCEALED of the picture in its buffer. -/
def markBufs (ms : List BufMark) (k : Option Nat) (pic : CodecPic) (concealed holdIn leave : Bool) : List BufMark :=
  (List.range ms.length).map fun i =>
    let m := ms.getD i {}
    let here := k == some i
    let shown := pic.outs.any fun o => o.buf == i
    { short := pic.short.contains i, long := pic.long.contains i
      out := (m.out || (here && holdIn) || (leave && shown)) && !(pic.coded.any fun c => c.buf == i)
      concealed := if here then concealed else m.concealed }

/-- The header and the new records of the record area (R491), after the records already there. -/
def recordArea (addr count w1 w2 : Nat) (n0 : Nat) (recs : List (List Byte)) : List (Nat × Byte) :=
  let put := fun (a : Nat) (bs : List Byte) => (List.range bs.length).map fun i => (a + i, bs.getD i 0)
  put addr (leBytes 4 count ++ leBytes 4 w1 ++ leBytes 4 w2 ++ leBytes 4 0) ++
    (List.range recs.length).flatMap fun i => put (addr + 16 + 16 * (n0 + i)) (recs.getD i [])

/-- A signed picture order count in 32 bits. -/
def poc32 (v : Int) : Nat := (v % (pow2 32 : Int)).toNat

/-- The pictures of a list that fit in `room` bytes and `n` records, in order. -/
def fitting : List PicCoded → Nat → Nat → List PicCoded
  | [], _, _ => []
  | c :: cs, room, n => if n = 0 ∨ room < c.bytes.length then [] else c :: fitting cs (room - c.bytes.length) (n - 1)

/-- Ending a picture: the task goes on, or ends. -/
def State.endPicture (s : State) (t : TaskRec) (words : List Nat) (concealed last : Bool) : State :=
  let s := s.updTask t.tid fun t => { t with words := words, flags := if concealed then orFlag t.flags 1 else t.flags }
  if last then s.endTask t.tid 0 else s

/-- A picture goes into its buffer as scratch: the layout is internal (R480), so the bytes are free values. -/
def State.scratch (s : State) (t : TaskRec) (x : SessRec) (k : Option Nat) : State :=
  match k with
  | none => s
  | some i => (s.devWriteRun noDie (some t.tid) (x.bufAddr i) ((List.range x.fb).map (Config.bufferByte s.free))).spend

/-- One decoded picture (R482 to R492), or the output of a FLUSH. -/
def State.decodePicture (s : State) (t : TaskRec) (x : SessRec) (k : Option Nat) (pic : CodecPic) : State :=
  let p := t.p
  let carried := !pic.random && pic.refs.any fun i => (x.marks.getD i {}).concealed
  let concealed := pic.takes && (pic.missing != 0 || pic.syntaxErrs != 0 || carried)
  let leave := t.f 0x40 8 == 0
  let s := if pic.takes then s.bump (Addr.med p 0) 1 else s
  let s := ((s.bump (Addr.med p 0x10) pic.missing).bump (Addr.med p 0x20) pic.syntaxErrs).bump (Addr.med p 0x18) (if concealed then 1 else 0)
  let s := s.scratch t x k
  let ms := markBufs x.marks k pic concealed false leave
  let outs := pic.outs.take (17 - t.words.getD 0 0)
  let s := if leave then s else
    (List.range outs.length).foldl (fun (s : State) i =>
      match outs[i]? with
      | some o => (s.bump (Addr.rng p 0x10) (t.pictureDraws x (x.nextOut + i) o)).devWrite noDie (some t.tid)
          (s.pictureBytes t x (x.nextOut + i) o)
      | none => s) s
  let recs := (List.range outs.length).map fun i =>
    let o := outs.getD i { buf := 0, poc := 0, width := 0, height := 0, planes := [] }
    let fl := (if (ms.getD o.buf {}).concealed then 1 else 0) + (if leave then 2 else 0)
    leBytes 4 (x.nextOut + i) ++ leBytes 2 o.buf ++ leBytes 2 fl ++ leBytes 4 (poc32 o.poc) ++ leBytes 4 0
  let n0 := t.words.getD 0 0
  let miss := t.words.getD 1 0 + pic.missing
  let s := s.devWrite noDie (some t.tid) (recordArea (t.f 0x58 8) (n0 + recs.length) miss 0 n0 recs)
  let y := { x with marks := ms, nextOut := x.nextOut + outs.length }
  let s := s.saveSession y 1 (if pic.last ∧ t.f 1 1 = 1 then 1 else 0) outs.length
  s.endPicture t [n0 + recs.length, miss, t.words.getD 2 0] concealed pic.last

/-- The ENCODE's input picture becomes a key picture on request (R489). -/
def TaskRec.keyForced (t : TaskRec) (x : SessRec) : Bool := t.f 1 1 == 2 && (x.keyDue || bit (t.f 0x28 1) 0)

/-- What the encoder codes keeps R489 and R473: a forced key picture comes last, after every held picture; the last picture of a FLUSH
leaves none held. -/
def codedOk (t : TaskRec) (x : SessRec) (k : Option Nat) (pic : CodecPic) : Bool :=
  let heldBufs := (List.range x.marks.length).filter fun i => (x.marks.getD i {}).out
  let all := heldBufs.all fun i => pic.coded.any fun c => c.buf == i
  (!(pic.takes && t.keyForced x) || (all && (pic.coded.getLast?.map fun c => c.key && k == some c.buf) == some true)) &&
    (!(pic.last && t.f 1 1 == 5) || all)

/-- One picture of the encoder: the input is taken, what is coded is emitted in order while it fits (R491). -/
def State.encodePicture (s : State) (t : TaskRec) (x : SessRec) (k : Option Nat) (pic : CodecPic) : State :=
  let p := t.p
  let forced := pic.takes && t.keyForced x
  let s := (s.bump (Addr.med p 8) pic.coded.length).bump (Addr.med p 0x28) (if forced then 1 else 0)
  let s := if pic.takes then s.bump (Addr.med p 0x38) (s.clampCount t x) else s
  let s := s.scratch t x k
  let n0 := t.words.getD 0 0
  let used := t.words.getD 1 0
  let queue := x.held ++ pic.coded
  let out := fitting queue (t.f 0x38 4 - used) (17 - n0)
  let rest := queue.drop out.length
  let offs := fun i => used + ((out.take i).map fun c => c.bytes.length).foldl (· + ·) 0
  let s := (List.range out.length).foldl (fun (s : State) i =>
    match out[i]? with
    | some c => s.devWriteRun noDie (some t.tid) (t.f 0x30 8 + offs i) c.bytes
    | none => s) s
  let recs := (List.range out.length).map fun i =>
    let c := out.getD i { num := 0, key := false, buf := 0, bytes := [] }
    leBytes 4 c.num ++ leBytes 4 (offs i) ++ leBytes 4 c.bytes.length ++ leBytes 4 (if c.key then 1 else 0)
  let total := offs out.length
  let s := s.devWrite noDie (some t.tid) (recordArea (t.f 0x58 8) (n0 + recs.length) total (if rest.isEmpty then 0 else 1) n0 recs)
  let y := { x with marks := markBufs x.marks k pic false true false, held := rest, keyDue := x.keyDue && !forced }
  let s := s.saveSession y 1 (if pic.takes then 1 else 0) out.length
  s.endPicture t [n0 + recs.length, total, t.words.getD 2 0] false pic.last

/-- The blocks that a picture consumes: its bitstream or input, and the buffers that it predicts from (R493). -/
def TaskRec.cdInputs (t : TaskRec) (x : SessRec) (pic : CodecPic) : List Nat :=
  rngBlocks (t.cdReads x ++ pic.refs.map fun i => { base := x.bufAddr i, len := x.fb })

/-- The block whose foul a picture meets: the one that the command names, or one whose bytes and CRC disagree (R427, R493). -/
def State.cdFoul (s : State) (pic : CodecPic) (ins : List Nat) : Option Nat :=
  match pic.foul with
  | some b => if ins.contains b then some b else none
  | none => ins.find? s.crcBad

/-- CODEC_PICTURE (R427, R429, R482 to R493). A core's error, a lost block or a foul abandons the attempt; a missing reference under
STRICT stops the session; a picture that needs a buffer waits while none is free, or while a page that it writes has no frame or is held. -/
def execCodecPicture (tid : Nat) (pic : CodecPic) (s : State) : Host.Outcome State Fault Refusal :=
  match s.task tid with
  | none => .next s
  | some t =>
    if !(t.isKind 4 1 || t.isKind 4 2 || t.isKind 4 5) ∨ t.phase ≠ .running then .next s
    else
      match s.session t.p t.cdSess with
      | none => .next s
      | some x =>
        let k := if pic.takes then (List.range x.marks.length).find? fun i => (x.marks.getD i {}).free else none
        if (s.groupCores x).isEmpty then .next (s.endTask tid 0x21)
        else
          let ins := t.cdInputs x pic
          match pic.coreErr, ins.find? s.lost, s.cdFoul pic ins with
          | some c, _, _ => if (s.groupCores x).contains c then .next (s.codecCoreErr t x c) else .next s
          | none, some b, _ => .next (s.lostInput t b)
          | none, none, some b => .next (s.codecFoul t b)
          | none, none, none =>
            if (ins.any fun b => !s.readable (b / 64)) || pic.foul.isSome then .next s
            else if !s.canWriteAll noDie (t.cdPages x k) then .next s
            else if !x.encodes && x.f 0x36 1 == 1 && pic.missing != 0 then .next ((s.saveSession x 2 0 0).endTask tid 0x12)
            else
              let s := s.bump (Addr.med t.p 0x30) pic.wait
              if pic.takes ∧ k.isNone then .next s
              else if x.encodes then (if codedOk t x k pic then .next (s.encodePicture t x k pic) else .next s)
              else .next (s.decodePicture t x k pic)

end Sys2Proof.Machine
end

