-- ==== Sys2Proof/Machine/Admit.lean ====
section
/-! DEFINITION. Admission, readiness and completion of tasks (R15, R25, R27, R52, R202, R232, R237 to R239, R253, R292, R311, R317, R324,
R368, R381 to R387, R399, R405, R474). -/
namespace Sys2Proof.Machine
open Sys2Proof

/-! The descriptor (R381, R386, R387). -/

/-- The size of a descriptor by KIND and OPERATION; none for a value that R387 and the chapters do not list. -/
def descSize (kind op : Nat) : Option Nat :=
  if kind = 0 then (if op = 0 then some 256 else none)
  else if kind = 1 then (if op = 0 then some 256 else none)
  else if kind = 2 then (if op ≤ 2 then some 256 else none)
  else if kind = 3 then
    if op = 0 then some 128
    else if op = 5 then some 256
    else if 2 ≤ op ∧ op ≤ 8 then some 64
    else none
  else if kind = 4 then
    if op = 0 then some 256
    else if op = 1 ∨ op = 2 ∨ op = 5 then some 128
    else if op ≤ 7 then some 64
    else none
  else if kind = 5 then (if op ≤ 2 then some 128 else if op = 0x20 then some 64 else none)
  else if kind = 6 then (if op = 0 then some 128 else none)
  else none

/-- The 64-bit address fields of a descriptor (R140, R226, R255, R279, R300, R388 to R391, R452, R473, R477, R490, R525). -/
def addrFields (kind op : Nat) : List Nat :=
  if kind = 0 then [0x60, 0x68, 0x70, 0x78, 0x80, 0x88, 0x90, 0xB0, 0xB8, 0xC0, 0xC8, 0xD0, 0xD8, 0xE0, 0xE8, 0xF0]
  else if kind = 1 then [0x70, 0x78, 0x80, 0x88, 0x90, 0x98, 0xA0, 0xA8, 0xB0, 0xB8, 0xC0]
  else if kind = 2 then
    if op = 0 then [0x30, 0x38, 0x40, 0x48, 0x50, 0x58, 0x80]
    else if op = 1 then [0x48, 0x50, 0x60, 0x68, 0x70, 0x78, 0x80, 0x88]
    else [0x30, 0x38, 0x40, 0x58, 0x70, 0x88, 0xA0, 0xB8, 0xD0, 0xE8]
  else if kind = 3 then (if op = 0 then [0x40, 0x48, 0x50, 0x58] else if op = 5 then [0x40, 0x48] else [0x20])
  else if kind = 4 then (if op = 0 then [0x20, 0x48] else if op = 1 ∨ op = 2 ∨ op = 5 then [0x20, 0x30, 0x40, 0x58] else [0x20])
  else if kind = 5 then (if op ≤ 2 then [0x30, 0x50, 0x58] else [0x30])
  else [0x20, 0x50]

/-- Replacing the bytes at an offset. -/
def putBytes (bs : List Byte) (off : Nat) (v : List Byte) : List Byte := bs.take off ++ v ++ bs.drop (off + v.length)

/-- The descriptor with its argument references resolved (R381); none where one is refused. -/
def State.resolveDesc (s : State) (arg kind op : Nat) (desc : List Byte) : Option (List Byte) :=
  (addrFields kind op).foldl (fun (d : Option (List Byte)) off =>
    d.bind fun bs => (s.resolveRef arg (bytesNat bs off 8)).map fun v => putBytes bs off (leBytes 8 v)) (some desc)

/-- The common header keeps R386 and R387. -/
def State.commonOk (s : State) (t : TaskRec) : Bool :=
  let k := t.f 0 1
  let mask := t.f 3 1
  let ds := s.taskDies t
  t.f 7 1 == 0 && t.f 0x14 4 == 0 && t.f 2 1 < 4 && (k == 0 || !bit (t.f 2 1) 0) && (k == 0 || (t.f 4 1 == 0xFF && t.f 5 1 == 0xFF)) &&
    ((List.range 8).all fun d => !bit mask d || (s.dies t.p).contains d) &&
    (t.slot == 0 || ds.all fun d => s.slotHas (t.slot - 1) d)

/-! What a task reads and writes (R311). -/

/-- Tasks of the partition submitted before a task and not completed. -/
def State.earlier (s : State) (t : TaskRec) : List TaskRec :=
  (s.tasks.takeWhile fun x => x.tid != t.tid).filter fun x => x.p == t.p && x.phase != .done

/-- The session that a codec task will find: that of the last OPEN of its address ahead of it, else the open one (R476, R478). -/
def State.sessionSeen (s : State) (t : TaskRec) : Option SessRec :=
  match ((s.earlier t).filter fun x => x.isKind 4 0 && x.cdSess == t.cdSess).getLast? with
  | some x => some x.opened
  | none => s.session t.p t.cdSess

/-- What a DECODE, ENCODE or FLUSH reads and writes beside the session record: without a session what its own fields name. -/
def State.codecReads (s : State) (t : TaskRec) : List Rng :=
  match s.sessionSeen t with
  | some x => x.pool :: t.cdReads x
  | none => if t.f 1 1 = 1 then [t.cdBits] else []
def State.codecWrites (s : State) (t : TaskRec) : List Rng :=
  match s.sessionSeen t with
  | some x => (t.cdWrites x).flatten
  | none => t.cdRec :: (if t.f 1 1 = 2 then [t.cdBits] else [])

/-- An operation of a session that codes pictures. -/
def TaskRec.cdCodes (t : TaskRec) : Bool := t.f 1 1 == 1 || t.f 1 1 == 2 || t.f 1 1 == 5

/-- What a task reads, by kind. -/
def State.taskReads (s : State) (t : TaskRec) : List Rng :=
  let k := t.f 0 1
  let op := t.f 1 1
  if k = 0 then s.productReads t
  else if k = 1 then s.atReads t
  else if k = 2 then (if op = 0 then s.vecReads t else if op = 1 then t.rgReads else t.fcReads)
  else if k = 3 then
    if op = 0 then t.cvReads
    else if op = 2 then t.cbReads
    else if op = 3 then t.ftReads
    else if op = 4 then t.seedReads
    else if op = 5 then []
    else t.resReads
  else if k = 4 then t.cdRecord :: (if op = 0 then [t.opened.pool] else if t.cdCodes then s.codecReads t else [])
  else if k = 5 then (if op = 0x20 then t.listReads else t.coReads)
  else t.cbkReads

/-- What it writes. -/
def State.taskWrites (s : State) (t : TaskRec) : List Rng :=
  let k := t.f 0 1
  let op := t.f 1 1
  if k = 0 then s.productWrites t
  else if k = 1 then t.atWrites
  else if k = 2 then (if op = 0 then s.vecWrites t else if op = 1 then t.rgWrites.flatten else t.fcWrites.flatten)
  else if k = 3 then (if op = 0 then t.cvWrites else if op = 5 then t.rfWrites else [])
  else if k = 4 then t.cdRecord :: (if t.cdCodes then s.codecWrites t else [])
  else if k = 5 then (if op = 0x20 then [] else s.coWrites t)
  else if k = 6 then t.cbkWrites
  else []

/-- The structures that the graph engine itself reads at admission: programs, tables and parameter blocks, and, through the narrow path
(R356), pool headers, sequence records and page lists. -/
def State.taskStructs (s : State) (t : TaskRec) : List Rng × List Rng :=
  let k := t.f 0 1
  if k = 0 then
    ((if t.im2col then [{ base := t.f 0xB8 8, len := 64 }] else []) ++ s.rngProgram none t.prologue ++ s.rngProgram none t.epilogue ++
      (if t.argTable = 0 then [] else [{ base := t.argTable, len := 256 }]), [])
  else if k = 1 ∧ t.aOp ≠ 0 then
    ([], [{ base := t.f 0x78 8, len := 64 }, { base := t.f 0x80 8, len := 64 * t.aBatch }] ++ (s.poolRngs t).drop 5)
  else if t.isKind 2 0 then
    (s.rngProgram none (t.f 0x30 8) ++ (if t.f 0x38 8 = 0 then [] else [{ base := t.f 0x38 8, len := 256 }]), [])
  else ([], [])

/-- The first failing page of a list of ranges. -/
def State.rangesFault (s : State) (p : Nat) (rs : List Rng) : Option (Nat × Nat) :=
  rs.findSome? fun r => r.rows.findSome? fun x => s.rangeFault p x.1 x.2

/-- Checking and reading every row of a list of ranges. -/
def State.readStructs (s : State) (p : Nat) (narrow : Bool) (fault : Option ReadFault) (rs : List Rng) : State × Nat :=
  (rs.flatMap Rng.rows).foldl (fun (x : State × Nat) r =>
    if x.2 = 0 then x.1.readStruct p (unitOf 4 0 0x20) narrow fault r.1 r.2 else x) (s, 0)

/-- The pages that a task names. -/
def State.taskPages (s : State) (t : TaskRec) : List Nat :=
  nubList ((s.taskReads t ++ s.taskWrites t).flatMap fun r => r.rows.flatMap fun x =>
    if x.2 = 0 then [] else (List.range ((x.1 + x.2 - 1) / 262144 - x.1 / 262144 + 1)).map fun i => x.1 / 262144 + i)

/-! Order among tasks (R383, R384). -/

/-- A field of a descriptor that may not have been read yet. -/
def State.peekDesc (s : State) (t : TaskRec) (off n : Nat) : Nat := if t.desc.isEmpty then s.devNat (t.descAddr + off) n else t.f off n

/-- The task is a residency operation: 6 MAP, 7 UNMAP, 8 HINT; a HINT of NARROW, NSRC or NTGT is ordered as an UNMAP is (R317). -/
def State.resOp (s : State) (t : TaskRec) : Nat :=
  let op := s.peekDesc t 1 1
  if s.peekDesc t 0 1 ≠ 3 ∨ op < 6 ∨ 8 < op then 0
  else if op = 8 ∧ 32 ≤ s.peekDesc t 0x34 4 then 7 else op

/-- Admission waits for earlier MAP and UNMAP operations (R317). -/
def State.admitHeld (s : State) (t : TaskRec) : Bool := (s.earlier t).any fun x => s.resOp x == 6 || s.resOp x == 7

/-- A residency operation starts by R317. -/
def State.resMayStart (s : State) (t : TaskRec) : Bool :=
  let op := s.resOp t
  if op = 7 then (s.earlier t).isEmpty
  else if op = 8 then (s.earlier t).all fun x => s.resOp x == 0
  else if op = 6 then (s.earlier t).all fun x => s.resOp x != 8
  else true

/-- A codec task is admitted after the OPEN tasks ahead of it, which give its ranges their session (DESIGN CHOICE, log 133). -/
def State.openHeld (s : State) (t : TaskRec) : Bool :=
  s.peekDesc t 0 1 == 4 && s.peekDesc t 1 1 != 0 &&
    (s.earlier t).any fun x => x.phase == .fresh && s.peekDesc x 0 1 == 4 && s.peekDesc x 1 1 == 0

/-- The conversion specifiers that the chain programs of a task and an argument table name. -/
def State.chainConvs (s : State) (t : TaskRec) (table : Nat) : List W32 :=
  ((t.pro.toList ++ t.epi.toList).flatMap fun q => q.inSpec :: q.specs.map Prod.fst) ++
  (if table = 0 then [] else ((s.chainArgs (s.taskArg t) table).filter fun a => a.kind != .unused && a.kind != .imm).map ChainArg.conv)

/-- Every conversion specifier that a task names. -/
def State.taskConvs (s : State) (t : TaskRec) : List W32 :=
  let k := t.f 0 1
  let op := t.f 1 1
  let stored := fun off => if t.f off 1 = 0xFF then [] else [BitVec.ofNat 32 (t.f off 1)]
  if k = 0 then
    [t.w 0x3C, t.w 0x40, t.w 0x44, t.w 0x48, t.w 0xF8, t.w 0xFC] ++ stored 4 ++ stored 5 ++ s.chainConvs t t.argTable
  else if k = 1 then [t.w 0x40, t.w 0x44, t.w 0x48, t.w 0x4C, t.w 0x50]
  else if k = 2 then
    if op = 0 then [t.w 0x60, t.w 0x64] ++ s.chainConvs t (t.f 0x38 8) else if op = 1 then [t.w 0x3C, t.w 0x44] else []
  else if k = 3 then (if op = 0 then [t.w 0x30, t.w 0x34] else if op = 5 then [t.w 0x2C] else [])
  else if k = 4 then (if op = 1 ∨ op = 2 ∨ op = 5 then [t.w 0x2C] else [])
  else if k = 5 then (if op ≤ 2 then [t.w 0x48, t.w 0x4C] else [])
  else []

/-- The streams that DROP instructions of a task's programs name. -/
def TaskRec.taskDrops (t : TaskRec) : List Nat := (t.pro.toList ++ t.epi.toList).flatMap fun q => dropStreams q.insts

/-- A shared resource of the graph engine (R52, R202, R232, R253, R292, R474), by kind and number, and whether the task writes it:
codebook tables, sequence records, reuse slots, streams, sessions, sessions for their RELEASEs, and the function tables, whose loads
keep their order (R383). -/
def State.taskUses (s : State) (t : TaskRec) : List (Nat × Nat × Bool) :=
  let k := t.f 0 1
  let op := t.f 1 1
  let cs := (s.taskConvs t).filterMap convOf
  let books := cs.filterMap fun c => match c.fmt with
    | .cb i => some (0, i, false)
    | _ => none
  let rounds := (cs.filter fun c => c.rnd == .sr).map fun c => (3, c.stream, false)
  let drops := t.taskDrops.map fun x => (3, x, false)
  let recs := if k = 1 ∧ t.aOp ≠ 0 then (List.range t.aBatch).map fun b => (1, t.recAt b, true) else []
  let scope := if t.f 6 1 = 0 then [] else [(2, t.f 6 1, false)]
  let own := if t.isKind 3 3 then [(6, 0, true)]
    else if t.isKind 3 2 then [(0, t.f 0x2C 4 - 0x12, true)]
    else if t.isKind 2 1 then [(2, t.rgSlot, true)]
    else if t.isKind 3 4 then ((List.range 16).filter fun i => bit (s.devNat (t.f 0x20 8) 2) i).map fun i => (3, i, true)
    else if t.isKind 3 5 then [(3, t.rfStream, false)]
    else if k = 4 then [(if op = 4 then 5 else 4, t.cdSess, true)]
    else []
  books ++ rounds ++ drops ++ recs ++ scope ++ own

/-- Two tasks must keep the order of submission over a resource. -/
def usesClash (a b : List (Nat × Nat × Bool)) : Bool :=
  a.any fun x => b.any fun y => x.1 == y.1 && x.2.1 == y.2.1 && (x.2.2 || y.2.2)

/-- A task of the graph depends on another one, directly or through others (R379). -/
def dependsOn (ts : List TaskRec) : Nat → TaskRec → Nat → Bool
  | 0, _, _ => false
  | n + 1, x, i => x.deps.contains i || x.deps.any fun j => match ts.find? fun y => y.idx == j with
      | some y => dependsOn ts n y i
      | none => false

/-- A graph waits for another one by AFTER_PREV or WAIT_EN (R378). -/
def GraphRec.waitsFor (g h : GraphRec) : Bool :=
  g.p == h.p && ((g.afterPrev && h.r == g.r && (h.seq + 1) % pow2 32 == g.seq) || g.waitOn == some (h.r, h.seq))

/-- A graph waits for another one, directly or through others. -/
def State.graphAwaits (s : State) : Nat → GraphRec → Nat → Bool
  | 0, _, _ => false
  | n + 1, g, gid => s.graphs.any fun h => g.waitsFor h && (h.gid == gid || s.graphAwaits n h gid)

/-- Task x cannot run before task t has completed. -/
def State.needs (s : State) (x t : TaskRec) : Bool :=
  if x.gid = t.gid then dependsOn (s.tasksOf t.gid) 4096 x t.idx
  else match s.graph x.gid with
    | some g => s.graphAwaits s.graphs.length g t.gid
    | none => false

/-- The argument block of a task's graph, an input of every task of it in the sense of R27 (R381). -/
def State.argRng (s : State) (t : TaskRec) : List Rng := if s.taskArg t = 0 then [] else [{ base := s.taskArg t, len := 64 }]

/-- R27: the task would overwrite what an earlier task that is outstanding reads. -/
def State.overwrites (s : State) (t : TaskRec) : Bool :=
  let w := s.taskWrites t
  (s.earlier t).any fun x => !s.needs x t && rngsMeet w (s.argRng x ++ s.taskReads x)

/-- (b) of R384. An awaited graph further below the taken count than 65,536 has completed (R380); one that has not been taken has not. -/
def State.graphReleased (s : State) (g : GraphRec) : Bool :=
  (!g.afterPrev || s.graphDone g.p g.r ((g.seq + pow2 32 - 1) % pow2 32)) &&
    match g.waitOn with
    | none => true
    | some (r, q) =>
      let below := ((s.ring g.p r).taken + pow2 32 - q) % pow2 32
      if below = 0 ∨ pow2 31 ≤ below then false else decide (65536 < below) || s.graphDone g.p r q

/-- The predecessors that a task names, in order (R379). -/
def State.preds (s : State) (t : TaskRec) : List TaskRec :=
  t.deps.filterMap fun i => s.tasks.find? fun x => x.gid == t.gid && x.idx == i

def TaskRec.passed (t : TaskRec) : Bool := t.phase == .done && t.status ≤ 1

/-! Admission. -/

/-- Firmware inserts the recompute graph of an entry (R238): a page is secured in the task's turn (R232), and the parameter block is
written where the header of the graph has its argument block. The task waits for it. -/
def State.insertRecompute (s : State) (t : TaskRec) (x : Nat × Nat × Nat) : State :=
  let e := s.entryAt x.1 x.2.1 x.2.2
  let head := s.recRecompute x.1
  let arg := s.devNat (head + 0x28) 8
  if !s.canWriteAll noDie (nubList (s.kvBooks t ++ if arg = 0 then [] else rngPages [{ base := arg, len := 64 }])) then s
  else
  match if s.kvTurn t then s.secure t.p (s.kvPool t) e x.1 false else none with
  | none => s.kvStall t 1
  | some s =>
    let s := s.kvServed t .fresh
    let s := if arg = 0 then s else s.devWriteRun noDie none arg (s.recomputeBlock t x (s.entryPage e))
    let g : GraphRec := { gid := s.nextGid, p := t.p, r := t.r, seq := t.seq, addr := head, arg := 0, readNo := s.readNo, tick := s.readClk
                          recompute := some t.tid, kvEntry := e }
    let first := fun (h : GraphRec) => h.gid != t.gid
    { s with graphs := s.graphs.takeWhile first ++ [g] ++ s.graphs.dropWhile first
             nextGid := s.nextGid + 1 }.bump (Addr.kv t.p 0x18) 1

/-- Pages of the task that lie in host and may not stay there start migrating into HBM (R324). -/
def State.callPages (s : State) (t : TaskRec) : State :=
  (s.taskPages t).foldl (fun (s : State) pg =>
    if rtState (s.rt pg) == 2 && rtTier (s.rt pg) == 3 && rtPlace (s.rt pg) != 3 then s.startMig pg 2 0 false else s) s

/-- The last steps of an admission: the sequence records are pinned (R237), and a missing page inserts its recompute graph (R238). -/
def State.admitPages (s : State) (t : TaskRec) : State :=
  let paged := t.f 0 1 = 1 ∧ t.aOp ≠ 0
  if paged ∧ !s.atOk t then s.endTask t.tid 0x10
  else if paged ∧ s.tooMany t then s.endTask t.tid 0x10
  else
    let s := if paged then s.updTask t.tid fun t => { t with pins := (List.range t.aBatch).map t.recAt } else s
    match if paged then (s.missing t).head? else none with
    | some x => if s.graphs.any fun g => g.p == t.p && g.recompute.isSome then s else s.insertRecompute t x
    | none => (s.callPages t).updTask t.tid fun t => { t with phase := .waiting }

/-- The chain programs of a task, read once, at its admission (R153). -/
def State.readPrograms (s : State) (t : TaskRec) : TaskRec :=
  if t.f 0 1 = 0 then { t with pro := s.progAt t.prologue, epi := s.progAt t.epilogue }
  else if t.isKind 2 0 then { t with epi := s.progAt (t.f 0x30 8) }
  else t

/-- The checks of R311, R381, R386 and R387 on a descriptor that has been read. -/
def State.admitDesc (s : State) (t : TaskRec) (fault : Option ReadFault) : State :=
  match s.resolveDesc (s.taskArg t) (t.f 0 1) (t.f 1 1) t.desc with
  | none => s.endTask t.tid 0x10
  | some bs =>
    let t := { t with desc := bs }
    let s := s.setTask t
    if !s.commonOk t then s.endTask t.tid 0x10
    else
      let st := s.taskStructs t
      let r1 := s.readStructs t.p false fault st.1
      let r2 := if r1.2 = 0 then r1.1.readStructs t.p true fault st.2 else r1
      let s := r2.1
      if r2.2 ≠ 0 then s.endTask t.tid r2.2
      else
        let t := s.readPrograms t
        let s := s.setTask t
        match s.rangesFault t.p (s.taskReads t ++ s.taskWrites t) with
        | some (k, pg) => (s.memFault t.p k pg true).endTask t.tid 0x10
        | none => s.admitPages t

/-- Reading a descriptor: its first 64 bytes give its kind, and so its size (R387). -/
def State.readDesc (s : State) (t : TaskRec) (fault : Option ReadFault) : State :=
  let u := unitOf 4 0 0x20
  let r := s.readStruct t.p u false fault t.descAddr 64
  let s := r.1
  if r.2 ≠ 0 then s.endTask t.tid r.2
  else
    let t := { t with desc := s.devBytes t.descAddr 64, pro := none, epi := none }
    let s := s.setTask t
    match descSize (t.f 0 1) (t.f 1 1) with
    | none => s.endTask t.tid 0x10
    | some n =>
      let r := s.readStruct t.p u false fault t.descAddr n
      let s := r.1
      if r.2 ≠ 0 then s.endTask t.tid r.2
      else
        let t := { t with desc := s.devBytes t.descAddr n }
        (s.setTask t).admitDesc t fault

/-- TASK_ADMIT (R239, R311, R317, R324, R381, R382, R386, R387). -/
def execTaskAdmit (tid : Nat) (fault : Option ReadFault) (s : State) : Host.Outcome State Fault Refusal :=
  match s.task tid with
  | none => .next s
  | some t =>
    if t.phase ≠ .fresh ∨ !s.serving t.p ∨ s.admitHeld t ∨ s.openHeld t ∨ (s.graphs.any fun g => g.recompute == some tid) then .next s
    else .next (s.readDesc t fault)

/-! Readiness. -/

/-- A task bound to a slot becomes ready in its open window: other work on the slot's dies is halted (R402). -/
def State.callSlot (s : State) (t : TaskRec) : State :=
  if t.slot ≠ 0 ∧ s.slotsOn.contains (t.slot - 1) then s.raiseHalts (t.slot - 1) fun x => x.slot != t.slot else s

/-- TASK_READY (R27, R52, R232, R253, R292, R317, R384, R403, R474). -/
def execTaskReady (tid : Nat) (s : State) : Host.Outcome State Fault Refusal :=
  match s.task tid with
  | none => .next s
  | some t =>
    let free := match s.graph t.gid with
      | some g => s.graphReleased g
      | none => false
    let mine := s.taskUses t
    if t.phase ≠ .waiting ∨ !free ∨ (s.preds t).length ≠ t.deps.length ∨ !((s.preds t).all TaskRec.passed) ∨ !s.resMayStart t ∨
        ((s.earlier t).any fun x => x.desc.isEmpty || usesClash mine (s.taskUses x)) ∨ s.overwrites t then .next s
    else .next (((s.raiseTenant t.p t.tenant).callSlot t).updTask tid fun t => { t with phase := .ready })

/-! Completion (R25, R385, R395, R399, R405). -/

/-- The graph of a recompute has completed: PRESENT is set where every task ended ST_OK, else the waiting task ends with the first other
status (R238). -/
def State.endRecompute (s : State) (g : GraphRec) (tid : Nat) (ts : List TaskRec) : State :=
  match ts.find? fun t => t.status != 0 with
  | none => s.fwWrite (g.kvEntry + 3) 1 ((s.devByte (g.kvEntry + 3)).toNat % 128 + 128)
  | some x => s.endTask tid x.status

/-- A graph whose tasks have all completed leaves the table. -/
def State.finishGraph (s : State) (gid : Nat) : State :=
  let ts := s.tasksOf gid
  if !(ts.all fun t => t.phase == .done) then s
  else
    match s.graph gid with
    | none => s
    | some g =>
      let s := s.dropGraph gid
      match g.recompute with
      | some tid => s.endRecompute g tid ts
      | none => s

/-- The entry of a task, unless R399 or an inserted graph leaves it out. -/
def State.taskEntry (s : State) (t : TaskRec) (status flags : Nat) : State :=
  let inserted := ((s.graph t.gid).map fun g => g.recompute.isSome).getD false
  if inserted ∨ (status = 0 ∧ flags = 0 ∧ bit (t.f 2 1) 1) then s
  else s.queueEntry t.p t.r { user := t.f 0x18 8, seq := t.seq, idx := t.idx, status := status, flags := flags, cyc := t.cyc
                              frame := (s.reg 0x100008).toNat % pow2 32, aux := t.aux }

/-- The key-value pages that a task without a page list reads or writes by its descriptor: a recompute writes the page that it fills
(R230, R234). -/
def State.kvTouched (s : State) (t : TaskRec) : List KvHold :=
  if !t.ran ∨ (t.f 0 1 = 1 ∧ t.aOp ≠ 0) then []
  else
    let rs := s.taskReads t ++ s.taskWrites t
    s.kvRecs.filter fun h =>
      let x := s.poolAt h.pool
      let page := s.entryPage h.entry
      rngsMeet rs [{ base := x.kBase + page * 16384, len := 16384 }, { base := x.vBase + page * 16384, len := 16384 }]

/-- A task completes, `clocks` after the last tick. -/
def State.completeTask (s : State) (t : TaskRec) (status flags clocks : Nat) : State :=
  let late := ((s.deadlineOf t).map fun d => decide (d < s.tickClk + clocks)).getD false
  let flags := if late then orFlag flags 4 else flags
  let status := finalStatus status flags
  let s := (s.useKvPages t).usePages (s.kvTouched t)
  let s := s.taskEntry t status flags
  let s := (s.bump (Addr.sch t.p 0xC8) 1).charge (Addr.acct t.p t.tenant 2) 1
  let s := if late then (s.bump (Addr.sch t.p 0xF0) 1).charge (Addr.acct t.p t.tenant 3) 1 else s
  let s := if t.f 0 1 = 5 ∧ t.f 1 1 ≤ 2 then s.bump (Addr.coll t.p 0) 1 else s
  let s := s.updTask t.tid fun t => { t with phase := .done, status := status, flags := flags, pins := [], halts := [] }
  (s.finishGraph t.gid).writeSqHeader t.p t.r

/-- The buffers of R15: what a task writes, but for the record of a session and the queue of a callback, whose contents their own
chapters give. -/
def State.outputs (s : State) (t : TaskRec) : List Rng :=
  if t.f 0 1 = 4 then (s.taskWrites t).drop 1 else if t.f 0 1 = 6 then [] else s.taskWrites t

/-- The runs of bytes that two runs share. -/
def runShared (a b : Nat × Nat) : List (Nat × Nat) :=
  if runsMeet a b then [(max a.1 b.1, min (a.1 + a.2) (b.1 + b.2) - max a.1 b.1)] else []

/-- The runs of bytes that two lists of ranges share. -/
def rngsShared (xs ys : List Rng) : List (Nat × Nat) :=
  if rngsMeet xs ys then (xs.flatMap Rng.rows).flatMap fun a => (ys.flatMap Rng.rows).flatMap fun b => runShared a b else []

/-- Two tasks write the same bytes, and neither names the other by R384 (a) or (b): those bytes. -/
def State.contested (s : State) (t y : TaskRec) : List (Nat × Nat) :=
  if y.p == t.p && y.tid != t.tid && (y.phase == .waiting || y.phase == .ready || y.phase == .running || y.ran) &&
      rngsMeet (s.outputs t) (s.outputs y) && !s.needs t y && !s.needs y t then rngsShared (s.outputs t) (s.outputs y)
  else []

/-- The runs of bytes that the completion of a task leaves undefined: the buffers of a task that failed (R15), and what it wrote without
an order with a task that has also run (R384). -/
def State.undefRuns (s : State) (t : TaskRec) : List (Nat × Nat) :=
  if !t.ran then []
  else (if 1 < t.status then (s.outputs t).flatMap Rng.rows else []) ++
    ((s.shared.filter fun x => x.1 == t.tid).map fun x => (x.2.1, x.2.2)) ++
    (s.tasks.filter fun y => y.phase == .running || y.ran).flatMap (s.contested t)

/-- Runs of bytes hold values that nothing constrains. -/
def State.undefine (s : State) (rs : List (Nat × Nat)) : State :=
  if rs.isEmpty then s
  else
    let put := fun (m : Sparse 8) (r : Nat × Nat) =>
      Sparse.setAll 0 m ((List.range r.2).map fun i => (r.1 + i, Config.undefinedByte s.free (r.1 + i)))
    { s with maps := { s.maps with dev := rs.foldl put s.maps.dev }
             free := s.free + 1 }

/-- The undefined bytes of a completion, and those that the tasks still to complete will leave. -/
def State.leaveUndefined (s : State) (t : TaskRec) : State :=
  let later := if !t.ran then [] else
    (s.tasks.filter fun y => y.phase != .done).flatMap fun y => (s.contested t y).map fun r => (y.tid, r.1, r.2)
  { s.undefine (s.undefRuns t) with shared := (s.shared.filter fun x => x.1 != t.tid) ++ later }

/-- TASK_COMPLETE (R15, R25, R384): every output is durable, no entry of the side table waits for a quiesced stack (R368), and the blocks
of NARROW pages are narrowed (R335). -/
def execTaskComplete (tid clocks : Nat) (s : State) : Host.Outcome State Fault Refusal :=
  match s.task tid with
  | none => .next s
  | some t =>
    if t.phase ≠ .ended ∨ (s.flights.any fun f => f.tid == tid) ∨ (s.narrowDue.any fun x => x.1 == tid) ∨
        (s.entryWait.any fun x => x.1 == tid) then .next s
    else .next ((s.leaveUndefined t).completeTask t t.status t.flags clocks)

/-- DEP_FAILED (R385): every predecessor has completed, and the first that failed gives the status. -/
def execDepFailed (tid clocks : Nat) (s : State) : Host.Outcome State Fault Refusal :=
  match s.task tid with
  | none => .next s
  | some t =>
    if t.phase ≠ .waiting ∨ (s.preds t).length ≠ t.deps.length ∨ !((s.preds t).all fun x => x.phase == .done) then .next s
    else
      match (s.preds t).find? fun x => !x.passed with
      | none => .next s
      | some x => .next (s.completeTask t x.status (orFlag t.flags 3) clocks)

end Sys2Proof.Machine
end

