-- ==== Sys2Proof/Machine/Hbm.lean ====
section
/-! DEFINITION. The HBM subsystem (R345 to R377): the interleave map, requests and their errors, patrol scrub, retraining,
repair, failure. -/
namespace Sys2Proof.Machine
open Sys2Proof

/-! The interleave map backwards (R346, R348). -/

/-- The granule that a line of a pseudo-channel holds: the map of R346 or R348 read backwards. -/
def granuleAt (removed : Option Nat) (pc line : Nat) : Nat :=
  match removed with
  | none => line * 512 + (pc ^^^ lineHash line)
  | some x =>
    let q := if pc < x then pc else pc - 1
    line * 511 + (q + 511 - lineHash line % 511) % 511

/-- The HBM frames of a page: that of its entry, and that of a migration in progress into HBM. -/
def State.hbmFrames (s : State) (page : Nat) : List Nat :=
  let e := s.rt page
  (if (rtState e = 2 ∨ rtState e = 3) ∧ rtTier e = 2 then [rtFrame e] else []) ++
    (s.migs.filter fun m => m.page == page && m.tier == 2).map MigRec.frame

/-- The block that a line of a pseudo-channel holds: the frame is one of a page, or its copy in a migration. -/
def State.lineBlock (s : State) (pc line : Nat) : Option Nat :=
  let g := granuleAt s.removedPc pc line
  (s.maps.rt.find? fun x => (s.hbmFrames x.1).contains (g / 1024)).map fun x => x.1 * 64 + g % 1024 / 16

/-! Records of firmware. -/

def State.pcRec (s : State) (pc : Nat) : HbmPcRec := (s.hbmPcs.find? fun x => x.pc == pc).getD { pc := pc }
def State.setPcRec (s : State) (x : HbmPcRec) : State := { s with hbmPcs := x :: s.hbmPcs.filter fun y => y.pc != x.pc }
def State.hbmRow (s : State) (pc row : Nat) : HbmRow :=
  (s.hbmRows.find? fun x => x.pc == pc && x.row == row).getD { pc := pc, row := row }
def State.setHbmRow (s : State) (x : HbmRow) : State :=
  { s with hbmRows := x :: s.hbmRows.filter fun y => !(y.pc == x.pc && y.row == x.row) }

/-- REPAIRS_LEFT of HBM_PC_STATUS. -/
def State.repairsLeft (s : State) (pc : Nat) : Nat := s.rd (Addr.hbmPc pc 0) 31 16

/-- REPAIRS_PENDING and REPAIR_GO follow the queue of due rows (R372, R374). -/
def State.refreshPending (s : State) : State :=
  let s := s.setFld 0x300000 23 16 (min 255 s.hbmDue.length)
  if s.hbmDue.isEmpty then s.setFld 0x300014 0 0 0 else s

/-- A row becomes due for repair (R365). -/
def State.rowDue (s : State) (pc row : Nat) : State :=
  if s.hbmDue.contains (pc, row) then s else { s with hbmDue := s.hbmDue ++ [(pc, row)] }.refreshPending

/-- A pseudo-channel fails (R368, R369). -/
def State.failPc (s : State) (pc cause : Nat) : State :=
  if s.pcState pc = 3 ∨ s.pcState pc = 4 then s
  else
    let s := (s.setFld (Addr.hbmPc pc 0) 3 0 3).mapAdd 5 0 pc
    let s := { s with hbmDue := s.hbmDue.filter (fun x => x.1 != pc) }.refreshPending
    let s := (s.setFld 0x300000 47 47 1).setFld 0x300000 46 38 pc
    s.event 0x23 (unitOf 1 (pc % 8) (pc / 8)) 0xFF pc (Config.causeNo 0x23 cause)

/-- A corrected word (R350, R361, R365). -/
def State.corrected (s : State) (pc line : Nat) : State :=
  let x := s.pcRec pc
  let r := s.hbmRow pc (line / 4)
  let s := ((s.bump (Addr.hbmPc pc 0x18) 1).setPcRec { x with corr := x.corr + 1 }).setHbmRow { r with corr := r.corr + 1 }
  if s.rd 0x300008 31 24 = r.corr + 1 then s.rowDue pc (line / 4) else s

/-- A line loses its block where it lies (R332): in the page's own frame, by `own`, or in the copy that a migration makes. -/
def State.badLine (s : State) (pc line blk : Nat) (own : State → Nat → State) : State :=
  let f := granuleAt s.removedPc pc line / 1024
  let e := s.rt (blk / 64)
  if (rtState e = 2 ∨ rtState e = 3) ∧ rtTier e = 2 ∧ rtFrame e = f then own s blk
  else
    { s with migs := s.migs.map fun (m : MigRec) =>
        if m.page = blk / 64 ∧ m.tier = 2 ∧ m.frame = f then { m with lostDest := nubList (m.lostDest ++ [blk]) } else m }

/-- The count and the record of an uncorrectable word (R350). -/
def State.countUncorr (s : State) (pc line : Nat) : State :=
  (s.bump (Addr.hbmPc pc 0x20) 1).event 0x22 (unitOf 1 (pc % 8) (pc / 8)) 0xFF pc line

/-- An uncorrectable word in a block (R332, R350, R365, R369). The row is due when the error recurs after the block has been
rewritten in full, which cleared its mark. -/
def State.uncorrWord (s : State) (pc line : Nat) (blk : Option Nat) : State :=
  let x := s.pcRec pc
  let s := (s.countUncorr pc line).setPcRec { x with uncorr := x.uncorr + 1 }
  let r := s.hbmRow pc (line / 4)
  let again := (r.bad.map fun b => !s.lost b).getD false
  let s := s.setHbmRow { r with bad := if r.bad.isSome && !again then r.bad else blk }
  let s := if again then s.rowDue pc (line / 4) else s
  let s := match blk with
    | some b => s.badLine pc line b State.uncorrectable
    | none => s
  if 256 ≤ x.uncorr + 1 ∧ s.repairsLeft pc = 0 then s.failPc pc 2 else s

/-- What the code finds in `n` words that are read, each word once (R350). -/
def wordErrs (n : Nat) (errs : List WordErr) : List WordErr :=
  (List.range n).filterMap fun i => errs.find? fun e => e.word == i

/-- The words of a run of lines of a pseudo-channel, 16 to a line, are handled by their outcomes (R350); each line holds bytes of a
block that `blk` names. -/
def State.readWords (s : State) (pc line n : Nat) (blk : State → Nat → Option Nat) (errs : List WordErr) : State :=
  (wordErrs n errs).foldl (fun (s : State) e =>
    let l := line + e.word / 16
    if e.uncorr then s.uncorrWord pc l (blk s l) else s.corrected pc l) s

/-! Requests (R350, R354, R357 to R359, R363). -/

/-- The priority class of a request (R357). The host's accesses, which the rule does not name, go with those of tasks. -/
def State.reqClass (s : State) (q : HbmReq) : Nat :=
  match q.src with
  | .narrow => 0
  | .task tid => if (s.tasks.any fun t => t.tid == tid && t.slot != 0) then 0 else 1
  | .host => 1
  | .firmware => 2
  | .patrol => 3

/-- The partition whose share a request takes (R22): the owner of its block; none for a patrol scrub. -/
def State.reqPart (s : State) (q : HbmReq) : Option Nat := if s.reqClass q = 3 then none else s.pageOwner (q.blk / 64)

/-- Two requests name a sector in common. -/
def hbmMeets (a b : HbmReq) : Bool :=
  a.pc == b.pc && a.line == b.line && decide (a.first < b.first + b.n) && decide (b.first < a.first + a.n)

/-- The requests of a pseudo-channel that no earlier waiting one to the same sector holds back (R359), in order of arrival. -/
def State.eligible (s : State) (pc : Nat) : List HbmReq :=
  (s.hbmWait.foldl (fun (x : List HbmReq × List HbmReq) q =>
    (x.1 ++ [q], if q.pc = pc ∧ !(x.1.any fun y => hbmMeets y q) then x.2 ++ [q] else x.2)) ([], [])).2

/-- A controller's counts of the slots of a partition. -/
def HbmPcRec.share (x : HbmPcRec) (p : Nat) : HbmShare := (x.shares.find? fun y => y.p == p).getD { p := p }
def HbmPcRec.setShare (x : HbmPcRec) (y : HbmShare) : HbmPcRec := { x with shares := y :: x.shares.filter fun z => z.p != y.p }

/-- The partition that the next slot goes to (R22, R358 step 1), with the counts of the new round where one begins. -/
def State.nextPart (s : State) (x : HbmPcRec) (waiting : List Nat) : Option (Nat × HbmPcRec) :=
  (roundNext s.weight (fun p => (x.share p).round) waiting).map fun r =>
    (r.1, if r.2 then { x with shares := x.shares.map fun (y : HbmShare) => { y with round := 0 } } else x)

/-- The class that the next slot of a partition goes to, of those that wait (R358 steps 2 and 3). Class 0 takes a slot beyond its part
of the 64 only when nothing else of the partition waits. -/
def State.nextClass (s : State) (y : HbmShare) (waiting : List Nat) : Option Nat :=
  let urgent := if y.window < 64 then y.zero else 0
  if waiting.contains 0 ∧ urgent < s.rd 0x300010 7 0 then some 0
  else if waiting.contains 1 ∧ (!waiting.contains 2 ∨ y.one < s.rd 0x300010 11 8) then some 1
  else if waiting.contains 2 then some 2
  else if waiting.contains 0 then some 0
  else none

/-- The counts of a partition after a slot of a class. -/
def HbmShare.took (y : HbmShare) (c : Nat) : HbmShare :=
  let y := if y.window < 64 then y else { y with window := 0, zero := 0 }
  { y with
    round := y.round + 1
    window := y.window + 1
    zero := if c = 0 then y.zero + 1 else y.zero
    one := if c = 1 then y.one + 1 else if c = 2 then 0 else y.one }

/-- The request that a controller serves next, and its counts afterwards (R358). -/
def State.arbitrate (s : State) (pc : Nat) : Option (HbmReq × HbmPcRec) :=
  let x := s.pcRec pc
  let es := s.eligible pc
  let scrub := (es.find? fun q => (s.reqPart q).isNone).map fun q => (q, { x with sinceScrub := 0 })
  let parts := es.filterMap s.reqPart
  if scrub.isSome ∧ (parts.isEmpty ∨ 1023 ≤ x.sinceScrub) then scrub
  else
    (s.nextPart x parts).bind fun r =>
      let mine := es.filter fun q => s.reqPart q == some r.1
      (s.nextClass (r.2.share r.1) (mine.map s.reqClass)).bind fun c =>
        (mine.find? fun q => s.reqClass q == c).map fun q =>
          (q, { r.2.setShare ((r.2.share r.1).took c) with sinceScrub := r.2.sinceScrub + 1 })

/-- The block of a request; a patrol scrub names a line alone. -/
def State.reqBlock (s : State) (q : HbmReq) : Option Nat := if q.src = .patrol then s.lineBlock q.pc q.line else some q.blk

/-- Serving a request on a pseudo-channel that is in service, or that has failed: there every word read is uncorrectable and every
write is discarded (R369). -/
def State.serve (s : State) (q : HbmReq) : State :=
  let s := if q.op = .write then s else s.bump (Addr.hbmPc q.pc 0x8) q.n
  if s.pcState q.pc = 3 then
    let s := if q.op = .write then s else (List.range (2 * q.n)).foldl (fun (s : State) _ => s.countUncorr q.pc q.line) s
    match s.reqBlock q with
    | some b => s.badLine q.pc q.line b (if q.op = .read then State.loseBlock else State.markLost)
    | none => s
  else
    let s := if q.op = .read then s else s.bump (Addr.hbmPc q.pc 0x10) q.n
    if q.op = .write then s
    else s.readWords q.pc q.line (2 * q.n) (fun s _ => s.reqBlock q) q.errs

/-- The live count of a hold queue (R376). -/
def State.refreshQueue (s : State) (pc : Nat) : State :=
  s.setFld (Addr.hbmPc pc 0) 15 8 ((s.hbmHold.filter fun q => q.pc == pc).length)

/-- While a pseudo-channel is quiesced its requests enter the hold queue in order, as far as it has places (R362, R363). -/
def State.fillHold (s : State) (pc : Nat) : State :=
  let room := 128 - (s.hbmHold.filter fun q => q.pc == pc).length
  let mine := s.hbmWait.filter fun q => q.pc == pc
  { s with
    hbmHold := s.hbmHold ++ mine.take room
    hbmWait := s.hbmWait.filter (fun (q : HbmReq) => q.pc != pc) ++ mine.drop room }.refreshQueue pc

/-- A controller serves the next request, or holds what has arrived while it is quiesced. -/
def State.serveNext (s : State) (pc : Nat) : State :=
  if s.pcQuiet pc then s.fillHold pc
  else
    match s.arbitrate pc with
    | none => s
    | some x => ({ s with hbmWait := s.hbmWait.erase x.1 }.setPcRec x.2).serve x.1

/-- A request names sectors of a line that holds bytes of its block, and a task's request a page of its own partition (R22). -/
def State.reqOk (s : State) (pc : Nat) (q : HbmReq) : Bool :=
  q.pc == pc && decide (0 < q.n) && decide (q.first + q.n ≤ 8) && s.pcState pc != 4 &&
    (match q.src with
     | .task tid => s.tasks.any fun t => t.tid == tid && s.pageOwner (q.blk / 64) == some t.p
     | .patrol => false
     | _ => true) &&
    (let g := granuleAt s.removedPc pc q.line
     (s.hbmFrames (q.blk / 64)).contains (g / 1024) && g % 1024 / 16 == q.blk % 64)

/-- HBM_REQUEST (R22, R350, R357 to R359, R363): the arrivals join the requests that wait, and the controller serves the next one, or
holds them while the pseudo-channel is quiesced. -/
def execHbmRequest (pc : Nat) (arrivals : List HbmReq) (s : State) : Host.Outcome State Fault Refusal :=
  if 512 ≤ pc ∨ (arrivals.any fun q => 6291456 ≤ q.line) then .fault .noSuchUnit
  else .next ({ s with hbmWait := s.hbmWait ++ arrivals.filter (s.reqOk pc) }.serveNext pc)

/-- A request that its controller serves at once when nothing else waits there. -/
def State.arrive (s : State) (q : HbmReq) : State :=
  let idle := !(s.hbmWait.any fun x => x.pc == q.pc)
  let s := { s with hbmWait := s.hbmWait ++ [q] }
  if idle || s.pcQuiet q.pc then s.serveNext q.pc else s

/-- NARROW_PATH_REQUEST (R355, R356): the home die reads the 16 granules of the block in class 0 where they lie in HBM, checks the
block, and counts a foul. -/
def execNarrowPathRequest (p blk sectors : Nat) (errs : List WordErr) (mismatch : Bool) (s : State) :
    Host.Outcome State Fault Refusal :=
  if 8 ≤ p ∨ 128 < sectors then .fault .noSuchUnit
  else
    match s.part p with
    | none => .next s
    | some x =>
      if !x.owns (blk / 64) ∨ rtState (s.rt (blk / 64)) = 0 then .next s
      else
        let s := s.blockRead noDie blk
        let s := (s.blockPlaces blk).zipIdx.foldl (fun (s : State) (q : (Nat × Nat) × Nat) =>
          let mine := (errs.filter fun e => e.word / 16 == q.2).map fun (e : WordErr) => { e with word := e.word % 16 }
          s.arrive { pc := q.1.1, line := q.1.2, first := 0, n := 8, op := .read, src := .narrow, blk := blk, errs := mine }) s
        if mismatch || s.crcBad blk then .next ((s.bump (Addr.ras p 0x10) 1).event 0x20 (unitOf 1 (blk % 8) 0x41) p blk 2)
        else .next s

/-- PATROL_SCRUB (R351): every sector of a line of an in-service pseudo-channel is read in class 3; in test hold the scrub stops
(R569). A line that holds no page has no block to lose. -/
def execPatrolScrub (pc line : Nat) (errs : List WordErr) (s : State) : Host.Outcome State Fault Refusal :=
  if 512 ≤ pc ∨ 6291456 ≤ line then .fault .noSuchUnit
  else if s.pcState pc ≠ 0 ∨ s.rd 0x709108 0 0 = 1 then .next s
  else .next (s.arrive { pc := pc, line := line, first := 0, n := 8, op := .read, src := .patrol, blk := 0, errs := errs })

/-! Quiescing (R361 to R364, R368). -/

/-- A pseudo-channel quiesces with a state (step 1 of R362 and of R366). -/
def State.quiesce (s : State) (pc st : Nat) : State :=
  ((s.setFld (Addr.hbmPc pc 0) 3 0 st).setFld 0x300000 15 12 (s.rd 0x300000 15 12 + 1)).fillHold pc

/-- A quiesce ends: its clocks are counted, the hold queue drains in order, and the side-table entries that waited for the stack are
updated (R362, R368). -/
def State.resume (s : State) (pc clocks : Nat) : State :=
  let s := s.bump (Addr.hbmPc pc 0x40) clocks
  let s := s.setFld 0x300000 15 12 (s.rd 0x300000 15 12 - 1)
  let s := if s.pcState pc = 3 then s else s.setFld (Addr.hbmPc pc 0) 3 0 0
  let mine := s.hbmHold.filter fun q => q.pc == pc
  let s := (mine.foldl State.serve { s with hbmHold := s.hbmHold.filter fun q => q.pc != pc }).refreshQueue pc
  { s with entryWait := s.entryWait.filter fun x => s.entryLate x.2 }

/-- The stack's temperature has moved by more than TEMP_DELTA since the pseudo-channel was last trained. -/
def State.tempMoved (s : State) (pc : Nat) : Bool :=
  let now := s.rd (0x300100 + 8 * (pc % 8)) 7 0
  let was := (s.pcRec pc).temp
  s.rd 0x300008 39 32 != 0 && decide (s.rd 0x300008 39 32 < max (now - was) (was - now))

/-- The cause for a retraining holds (R361, R364). A failed attempt is repeated from the next tick on. Trainings for period or
temperature stay out of reserved time; the period may have passed at any clock before the next tick. -/
def State.retrainDue (s : State) (pc : Nat) : RetrainCause → Bool
  | .temperature => s.tempMoved pc && s.slotsOn.isEmpty
  | .interval => s.rd 0x300008 15 0 != 0 && s.slotsOn.isEmpty &&
      decide (s.rd 0x300008 15 0 * 2500000 ≤ s.tickClk + s.rd 0x100000 14 0 * 2500 - (s.pcRec pc).trained)
  | .errors => s.rd 0x300008 23 16 != 0 && decide (s.rd 0x300008 23 16 < (s.pcRec pc).corr)
  | .frame => decide (0 < (s.pcRec pc).fails) && decide ((s.pcRec pc).failClk < s.tickClk)

/-- A repair of the pseudo-channel is pending that firmware may start (R365, R569), so that it runs before a retraining (R368). -/
def State.repairFirst (s : State) (pc : Nat) : Bool :=
  (s.hbmDue.any fun x => x.1 == pc) && !(s.rd 0x300008 48 48 == 1 && s.rd 0x300014 0 0 == 0) && s.rd 0x709108 0 0 == 0

/-- A lower pseudo-channel of the stack is due for a retraining, for its temperature, for errors or after a failed attempt (R368). -/
def State.lowerDue (s : State) (pc : Nat) : Bool :=
  (List.range 64).any fun i =>
    let j := 8 * i + pc % 8
    decide (j < pc) && s.pcState j == 0 && (s.retrainDue j .temperature || s.retrainDue j .errors || s.retrainDue j .frame)

/-- RETRAIN_START (R361, R362, R368). -/
def execRetrainStart (pc : Nat) (cause : RetrainCause) (s : State) : Host.Outcome State Fault Refusal :=
  if 512 ≤ pc then .fault .noSuchUnit
  else if s.pcState pc = 0 ∧ s.stackQuiet pc ∧ s.retrainDue pc cause ∧ !s.lowerDue pc ∧ !s.repairFirst pc then .next ((s.quiesce pc 1).bump (Addr.hbmPc pc 0x28) 1)
  else .next s

/-! Repair (R365 to R367). -/

/-- REPAIR_GO (R374). -/
def execRepairGo (fn : Nat) (s : State) : Host.Outcome State Fault Refusal :=
  if 8 < fn then .fault .noSuchUnit
  else if s.reaches fn 0x300014 ∧ !s.hbmDue.isEmpty then .next (s.setFld 0x300014 0 0 1)
  else .next s

/-- The first due row of a stack. -/
def State.firstDue (s : State) (stack : Nat) : Option (Nat × Nat) := s.hbmDue.find? fun x => x.1 % 8 == stack

/-- The HBM frames that have a granule in a row of a pseudo-channel (R346, R348, R367). -/
def State.rowFrames (s : State) (pc row : Nat) : List Nat :=
  (nubList ((List.range 4).map fun i => granuleAt s.removedPc pc (4 * row + i) / 1024)).filter fun f => f < s.hbmTotal

/-- Pages whose frame is one of those of a row. -/
def State.rowPages (s : State) (pc row : Nat) : List Nat :=
  (s.maps.rt.filter fun x => rtTier x.2 == 2 && (rtState x.2 == 2 || rtState x.2 == 3) &&
    (s.rowFrames pc row).contains (rtFrame x.2)).map Prod.fst

/-- A free HBM frame goes out of service (R333, R367): out of the pool of a partition that has one free, or out of the firmware
reserve. Which pool it belongs to is open (R319): a free value. -/
def State.retireFree (s : State) (frame : Nat) : State :=
  let ps := (s.parts.map PartRec.p).filter fun p => decide (0 < s.freeFrames p 2 0)
  (s.retireFrame { page := 0, p := ps.getD (Config.frame s.free % max 1 ps.length) 0xFF, tier := 2, die := 0, frame := frame }).spend

/-- A row without a spare (R367): every frame with a granule in it is retired. One that a page holds, that takes a page in, or that is
on its way back to its pool goes out of service when it returns; a free one at once. -/
def State.retireRow (s : State) (pc row : Nat) : State :=
  let fs := s.rowFrames pc row
  let used := s.usedFrames 0 2
  let mine := (s.rowPages pc row).foldl State.sicken s
  let dest := (mine.migs.filter fun m => m.tier == 2 && fs.contains m.frame).map fun (m : MigRec) =>
    ({ page := m.page, p := rtPart (s.rt m.page), tier := 2, die := m.die, frame := m.frame } : FrameRec)
  let back := (mine.frames.filter fun f => f.tier == 2 && fs.contains f.frame).map fun (f : FrameRec) => { f with copy := false, dirty := [] }
  let s := { mine with sick := mine.sick ++ (dest ++ back).filter fun f =>
    !(mine.sick.any fun x => x.tier == f.tier && x.frame == f.frame && x.p == f.p) }
  (fs.filter fun f => !used.contains f).foldl State.retireFree s

/-- REPAIR_START (R365 to R367, R569): the stack's first due row, not in test hold; without a spare row, the frames of the row are retired instead. -/
def execRepairStart (pc row : Nat) (s : State) : Host.Outcome State Fault Refusal :=
  if 512 ≤ pc ∨ 1572864 ≤ row then .fault .noSuchUnit
  else if s.pcState pc ≠ 0 ∨ !s.stackQuiet pc ∨ s.firstDue (pc % 8) ≠ some (pc, row) ∨
      (s.rd 0x300008 48 48 = 1 ∧ s.rd 0x300014 0 0 = 0) ∨ s.rd 0x709108 0 0 = 1 then .next s
  else
    let x := s.pcRec pc
    if s.repairsLeft pc = 0 ∨ x.used.contains (row % 16) then
      let s := s.retireRow pc row
      .next ({ s with hbmDue := s.hbmDue.filter fun q => q != (pc, row) }.refreshPending)
    else .next ((s.setPcRec { x with repairing := some row }).quiesce pc 2)

end Sys2Proof.Machine
end

