-- ==== Sys2Proof/Machine/Image.lean ====
section
/-! DEFINITION. Firmware and formation images (R538 to R546): their layout, and the checks that decide whether one may run or load.
An image is read through a function from its offsets to bytes. -/
namespace Sys2Proof.Machine
open Sys2Proof

/-- A little-endian number in an image. -/
def imNat (b : Nat → Byte) (o n : Nat) : Nat := leNat ((List.range n).map fun i => b (o + i))

/-- Bytes of an image. -/
def imBytes (b : Nat → Byte) (o n : Nat) : List Byte := (List.range n).map fun i => b (o + i)

/-- Bytes lo to hi − 1 are 0. -/
def imZero (b : Nat → Byte) (lo hi : Nat) : Bool := (List.range (hi - lo)).all fun i => b (lo + i) == 0#8

/-- SHA3-384 as 48 bytes. -/
def sha48 (bs : List Byte) : List Byte := leBytes 48 (Config.sha3 bs).toNat

/-- Package flash as an image from an offset. -/
def State.flashAt (s : State) (base : Nat) : Nat → Byte := fun o => Sparse.get 0 s.maps.flash (base + o)

/-- Host memory as an image from an address. -/
def State.hostAt (s : State) (base : Nat) : Nat → Byte := fun o => Sparse.get 0 s.maps.host (base + o)

/-- The flash slots (R536). -/
def fwSlotAt (i : Nat) : Nat := i * 0x4000000
def formSlotAt (i : Nat) : Nat := 0x8000000 + i * 0x2000000

/-! Sections (R540, R541). -/

/-- An entry of a section table. -/
structure Sect where
  type : Nat
  off : Nat
  len : Nat
deriving DecidableEq, Repr, Inhabited

/-- The entry at an offset of an image. -/
def sectAt (b : Nat → Byte) (o : Nat) : Sect := { type := imNat b o 2, off := imNat b (o + 4) 4, len := imNat b (o + 8) 4 }

/-- An entry is well formed in a body of `body` bytes: reserved fields 0, the section inside the body and behind the header. -/
def sectOk (b : Nat → Byte) (o body : Nat) : Bool :=
  let x := sectAt b o
  imZero b (o + 2) (o + 4) && imZero b (o + 12) (o + 16) && x.off % 64 == 0 && 512 ≤ x.off && x.off + x.len ≤ body

/-- Sections do not overlap. -/
def sectsApart : List Sect → Bool
  | [] => true
  | x :: xs => (xs.all fun y => x.off + x.len ≤ y.off || y.off + y.len ≤ x.off) && sectsApart xs

/-! Signatures (R538). -/

/-- The signature block after `len` signed bytes: the key, the signature, and zeros. -/
def sigKey (b : Nat → Byte) (len : Nat) : List Byte := imBytes b len 1952

/-- The signature over the first `len` bytes verifies under the key of the block. -/
def sigVerifies (b : Nat → Byte) (len : Nat) : Bool :=
  Config.verify (sigKey b len) (sha48 (imBytes b 0 len)) (imBytes b (len + 1952) 3309) && imZero b (len + 5261) (len + 5312)

/-- The digest of the key that signs formation images and commands in the present life-cycle state (R538, R553). -/
def State.signerDigest (s : State) : Option (List Byte) :=
  let f := s.fuses
  if f.state = 0 ∨ f.state = 3 then some Config.vendorKey
  else if f.state = 1 ∨ f.state = 2 then (if f.revoked then none else f.owner)
  else none

/-- The image is signed by the accepted key. -/
def State.signedBy (b : Nat → Byte) (len : Nat) (key : Option (List Byte)) : Bool :=
  key == some (sha48 (sigKey b len)) && sigVerifies b len

/-- The module's bit of a GRADES field (R540, R541). -/
def State.gradeIn (s : State) (grades : Nat) : Bool := bit grades (s.grade - 1)

/-- SERIAL is 0 or the Device Serial Number. -/
def serialOk (n : Nat) : Bool := n == 0 || n == Config.serial.toNat

/-! Firmware images (R540). -/

def fwBody (b : Nat → Byte) : Nat := imNat b 8 4
def fwSvn (b : Nat → Byte) : Nat := imNat b 0xC 1
def fwVersion (b : Nat → Byte) : Nat := imNat b 0x10 4

/-- Check 1 of R540, for an image within `room` bytes. -/
def fwShape (b : Nat → Byte) (room : Nat) : Bool :=
  let body := fwBody b
  let xs := (List.range 5).map fun i => sectAt b (0x40 + 16 * i)
  imNat b 0 4 == 0x4B46574D && imNat b 4 4 == 1 && body % 64 == 0 && 4096 ≤ body && body ≤ 67103552 && body + 5312 ≤ room &&
    fwSvn b ≤ 63 && imNat b 0xD 1 ≤ 1 && imNat b 0xE 1 ≤ 3 && imZero b 0xF 0x10 && imZero b 0x14 0x18 && imNat b 0x20 4 == 5 &&
    imZero b 0x24 0x40 && imZero b 0x90 512 && ((List.range 5).all fun i => sectOk b (0x40 + 16 * i) body) && sectsApart xs &&
    (List.range 5).all fun k => (xs.filter fun x => x.type == k + 1).length == 1

/-- The result code of a firmware image (R540): 0 when it passes. -/
def State.fwCheck (s : State) (b : Nat → Byte) (room : Nat) : Nat :=
  if !fwShape b room then 5
  else if !State.signedBy b (fwBody b) (some Config.vendorKey) then 1
  else if fwSvn b < s.fuses.fwMin then 2
  else if !s.gradeIn (imNat b 0xE 1) || !serialOk (imNat b 0x18 8) then 4
  else 0

/-! Formation images (R541 to R543). -/

def fmBody (b : Nat → Byte) : Nat := imNat b 8 4
def fmSvn (b : Nat → Byte) : Nat := imNat b 0xC 1

/-- The section table. -/
def fmSects (b : Nat → Byte) : List Sect := (List.range (imNat b 0x1C 4)).map fun i => sectAt b (0x20 + 16 * i)

/-- The section of a type. -/
def fmSect (b : Nat → Byte) (type : Nat) : Option Sect := (fmSects b).find? fun x => x.type == type

/-- The length that R542 gives a section. -/
def sectLenOk (x : Sect) : Bool :=
  if x.type = 1 ∨ x.type = 8 then x.len % 16 == 0 && x.len ≤ 16384
  else if x.type = 2 then x.len % 192 == 0 && 192 ≤ x.len && x.len ≤ 1536
  else if x.type = 3 then x.len == 72
  else if x.type = 4 then x.len % 8 == 0 && x.len ≤ 512
  else if x.type = 5 then x.len == 904
  else if x.type = 6 then x.len == 270336
  else x.type == 7 && x.len == 192

/-- Check 1 of R545, with R542, for an image within `room` bytes. -/
def fmShape (b : Nat → Byte) (room : Nat) : Bool :=
  let body := fmBody b
  let n := imNat b 0x1C 4
  let xs := fmSects b
  imNat b 0 4 == 0x4B46524D && imNat b 4 4 == 1 && body % 64 == 0 && 512 ≤ body && body ≤ 33549120 && body + 5312 ≤ room &&
    fmSvn b ≤ 63 && imNat b 0xD 1 ≤ 1 && imNat b 0xE 1 ≤ 3 && imNat b 0xF 1 < 16 && 1 ≤ n && n ≤ 16 && imZero b (0x20 + 16 * n) 512 &&
    ((List.range n).all fun i => sectOk b (0x20 + 16 * i) body) && sectsApart xs && xs.all sectLenOk &&
    ((List.range 8).all fun k =>
      let c := (xs.filter fun x => x.type == k + 1).length
      if k = 1 ∨ k = 5 then c == 1 else c ≤ 1)

/-- Partition record p (R543). -/
def fmPart (b : Nat → Byte) (p : Nat) : PartRec :=
  let o := ((fmSect b 2).map Sect.off).getD 0 + 192 * p
  let g := fun off n => imNat b (o + off) n
  { p := p, dies := (List.range 8).filter fun d => bit (g 0 1) d
    weight := g 1 1, pairs := g 2 1, codecCores := g 4 2, codecBufs := g 6 2, spanBase := g 8 4, spanPages := g 0xC 4
    hbmFrames := g 0x10 4, quota := g 0x14 4, keepPages := g 0x18 2, seedMask := g 0x1A 2
    seeds := (List.range 16).map fun k => if bit (g 0x1A 2) k then g (0x28 + 8 * k) 8 else 0 }

/-- The watermark word of a tier (R543): tile store 0, HBM 1, host 2. -/
def fmMark (b : Nat → Byte) (p tier : Nat) : Nat := imNat b (((fmSect b 2).map Sect.off).getD 0 + 192 * p + 0x1C + 2 * tier) 2

/-- The number of partition records. -/
def fmCount (b : Nat → Byte) : Nat := ((fmSect b 2).map Sect.len).getD 0 / 192

def fmParts (b : Nat → Byte) : List PartRec := (List.range (fmCount b)).map (fmPart b)

/-! SETTINGS (R544). -/

/-- The fields that SETTINGS places in a register, as (hi, lo, least, greatest, default). -/
def settingFields (off : Nat) : List (Nat × Nat × Nat × Nat × Nat) :=
  if off = 0x100000 then [(14, 0, 100, 20000, 250)]
  else if off = 0x300008 then [(47, 40, 1, 255, 24), (39, 32, 0, 255, 10), (31, 24, 1, 255, 16), (23, 16, 0, 255, 64), (15, 0, 0, 65535, 1000)]
  else if off = 0x300010 then [(11, 8, 1, 15, 3), (7, 0, 1, 64, 32)]
  else if off = 0x700000 then [(31, 24, 1, 255, 100), (23, 16, 1, 255, 64), (11, 8, 0, 7, 2), (3, 0, 1, 15, 3)]
  else if off = 0x900020 then [(59, 58, 0, 2, 0), (57, 57, 0, 1, 0), (56, 52, 0, 23, 0), (47, 16, 0, 4294967295, 0), (15, 0, 0, 65535, 0)]
  else if off = 0xA00010 then [(15, 8, 80, 95, 90), (7, 0, 85, 100, 95)]
  else if ((List.range 8).any fun d => (List.range 17).any fun k => off == Addr.mxe d k 8) then [(7, 0, 0, 255, 0)]
  else []

/-- The registers that have such fields. -/
def settingRegs : List Nat :=
  [0x100000, 0x300008, 0x300010, 0x700000, 0x900020, 0xA00010] ++
    (List.range 8).flatMap fun d => (List.range 17).map fun k => Addr.mxe d k 8

/-- The entries of SETTINGS, as (offset, value). -/
def fmSettings (b : Nat → Byte) : List (Nat × Nat) :=
  match fmSect b 1 with
  | none => []
  | some x => (List.range (x.len / 16)).map fun i => (imNat b (x.off + 16 * i) 4, imNat b (x.off + 16 * i + 8) 8)

/-- The value of a field under the image: what its entry gives, else its default. -/
def fmSetting (b : Nat → Byte) (off hi lo dflt : Nat) : Nat :=
  match (fmSettings b).find? fun x => x.1 == off with
  | some x => fld x.2 hi lo
  | none => dflt

/-- The entries keep R544. -/
def settingsOk (b : Nat → Byte) : Bool :=
  let xs := fmSettings b
  ((fmSect b 1).map fun x => (List.range (x.len / 16)).all fun i => imZero b (x.off + 16 * i + 4) (x.off + 16 * i + 8)).getD true &&
    (xs.map Prod.fst).eraseDups.length == xs.length &&
    xs.all fun x =>
      let fs := settingFields x.1
      !fs.isEmpty && (fs.all fun f => f.2.2.1 ≤ fld x.2 f.1 f.2.1 && fld x.2 f.1 f.2.1 ≤ f.2.2.2.1) &&
        x.2 == (fs.map fun f => fld x.2 f.1 f.2.1 * pow2 f.2.1).foldl (· + ·) 0

/-! The other sections (R542). -/

/-- A word of LINEUP: MXE_EXCLUDE, VXE_EXCLUDE of a die, or CODEC_EXCLUDE. -/
def fmLineup (b : Nat → Byte) (die : Nat) : Nat := ((fmSect b 3).map fun x => imNat b (x.off + 8 * die) 8).getD 0

/-- The words of SCHEDULE. -/
def fmSlots (b : Nat → Byte) : List Nat :=
  match fmSect b 4 with
  | none => []
  | some x => (List.range (x.len / 8)).map fun i => imNat b (x.off + 8 * i) 8

/-- Codebook k, or a table of zeros (R53). -/
def fmBook (b : Nat → Byte) (k : Nat) : List W32 :=
  match fmSect b 5 with
  | none => List.replicate 16 0
  | some x => if bit (imNat b x.off 8) k then (List.range 16).map fun i => BitVec.ofNat 32 (imNat b (x.off + 8 + 64 * k + 4 * i) 4)
      else List.replicate 16 0

/-- Bank A of FUNCTIONS. -/
def fmFuncs (b : Nat → Byte) : FtView :=
  let o := ((fmSect b 6).map Sect.off).getD 0
  { word := fun f w => BitVec.ofNat 32 (imNat b (o + 128 * f + 4 * w) 4)
    coef := fun i c => BitVec.ofNat 32 (imNat b (o + 8192 + 16 * i + 4 * c) 4) }

/-- The word of a port in PORTS. -/
def fmPort (b : Nat → Byte) (i : Nat) : Nat := ((fmSect b 7).map fun x => imNat b (x.off + 8 * i) 8).getD 0xFFFF0000
def fmPortOwner (b : Nat → Byte) (i : Nat) : Nat := fld (fmPort b i) 2 0
def fmPortRole (b : Nat → Byte) (i : Nat) : Nat := fld (fmPort b i) 4 3

/-- The entries of ROUTES. -/
def fmRoutes (b : Nat → Byte) : List Route :=
  match fmSect b 8 with
  | none => []
  | some x => (List.range (x.len / 16)).map fun i =>
      let o := x.off + 16 * i
      { dest := imNat b o 2, ports := ((List.range 4).map fun j => imNat b (o + 2 + j) 1).filter fun q => q != 0xFF }

/-! Consistency (R546). -/

/-- Numbers read as sets of bits that share none. -/
def bitsApart : List Nat → Bool
  | [] => true
  | x :: xs => (xs.all fun y => x &&& y == 0) && bitsApart xs

/-- Spans share no page. -/
def spansApart : List PartRec → Bool
  | [] => true
  | x :: xs => (xs.all fun y => x.spanBase + x.spanPages ≤ y.spanBase || y.spanBase + y.spanPages ≤ x.spanBase) && spansApart xs

def sumOf (l : List Nat) : Nat := l.foldl (· + ·) 0

/-- The partition records keep R543 and R546. -/
def fmPartsOk (b : Nat → Byte) : Bool :=
  let ps := fmParts b
  let o := ((fmSect b 2).map Sect.off).getD 0
  let masks := (List.range (fmCount b)).map fun p => imNat b (o + 192 * p) 1
  (ps.all fun x =>
    let q := o + 192 * x.p
    !x.dies.isEmpty && 1 ≤ x.weight && x.codecBufs ≤ 4096 && 1 ≤ x.spanPages && x.spanBase + x.spanPages ≤ 4194304 &&
      4096 ≤ x.quota && x.quota ≤ 65536 && x.keepPages ≤ 512 * x.dies.length && x.keepPages ≤ 4096 && imZero b (q + 3) (q + 4) &&
      imZero b (q + 0x22) (q + 0x28) && imZero b (q + 0xA8) (q + 0xC0) &&
      (List.range 3).all fun t => fmMark b x.p t % 256 < fmMark b x.p t / 256) &&
    bitsApart masks && bitsApart (ps.map PartRec.pairs) && bitsApart (ps.map PartRec.codecCores) && spansApart ps &&
    sumOf (ps.map PartRec.quota) ≤ 65536 && sumOf (ps.map PartRec.codecBufs) ≤ 4096

/-- The codebooks and the function bank keep R546. -/
def State.fmTablesOk (s : State) (b : Nat → Byte) : Bool :=
  let lib := libView (s.reg 0x900088).toNat
  let v := fmFuncs b
  let d := fun f => fnDesc (v.word f)
  let kind0 := fun f => f < 64 && (d f).valid && !(d f).micro && kind0Ok (d f)
  ((fmSect b 5).map fun x => imNat b x.off 8 < pow2 14 && (List.range 14).all fun k => !bit (imNat b x.off 8) k || codebookOk (fmBook b k)).getD true &&
    ([0, 1, 4, 5].all fun f => ((List.range 32).all fun w => v.word f w == lib.word f w) &&
      (List.range (d f).segCount).all fun i => (List.range 4).all fun c => v.coef ((d f).segBase + i) c == lib.coef ((d f).segBase + i) c) &&
    (List.range 64).all fun f => [0, 1, 4, 5].contains f ||
      (descOk kind0 (v.word f) && (!(d f).valid || !(d f).micro || microOk kind0 (d f).uops))

/-- A slot of the table as (valid, dies, part, offset, length) (R415). -/
def slotShare (x y : Nat) : Bool :=
  bit x 11 && bit y 11 && (fld x 7 0 &&& fld y 7 0) != 0 && decide (fld x 31 16 < fld y 31 16 + fld y 47 32) &&
    decide (fld y 31 16 < fld x 31 16 + fld x 47 32)

/-- No two valid slots share a die and overlap in time. -/
def slotsApart : List Nat → Bool
  | [] => true
  | x :: xs => (xs.all fun y => !slotShare x y) && slotsApart xs

/-- The slot table keeps R401 and R461, and PHASE keeps R459. -/
def fmScheduleOk (b : Nat → Byte) : Bool :=
  let period := fmSetting b 0x100000 14 0 250
  let src := fmSetting b 0x900020 59 58 0
  let ps := fmParts b
  ((fmSlots b).all fun x => fld x 63 48 == 0 && fld x 15 12 == 0 && (!bit x 11 ||
    (1 ≤ fld x 47 32 && fld x 47 32 ≤ 20000 && fld x 31 16 ≤ 19999 && fld x 31 16 + fld x 47 32 ≤ period &&
      (src != 1 || 8 * (fld x 31 16 + fld x 47 32) ≤ 7 * period) &&
      ((ps.find? fun q => q.p == fld x 10 8).map fun q => (List.range 8).all fun d => !bit (fld x 7 0) d || q.dies.contains d).getD false))) &&
    slotsApart (fmSlots b) && fmSetting b 0x900020 47 16 0 < period * 2500

/-- Ports and routes keep R522 and R546. -/
def fmPortsOk (b : Nat → Byte) : Bool :=
  let defined := fun p => decide (p < fmCount b)
  ((fmSect b 7).isNone || (List.range 24).all fun i =>
    let w := fmPort b i
    fld w 7 5 ≤ 1 && fld w 15 8 == 0 && fld w 63 32 == 0 && (fmPortRole b i % 2 == 0 || defined (fmPortOwner b i))) &&
    (fmSetting b 0x900020 57 57 0 == 0 || 2 ≤ fmPortRole b (fmSetting b 0x900020 56 52 0)) &&
    ((fmSect b 8).map fun x => (List.range (x.len / 16)).all fun i => imZero b (x.off + 16 * i + 6) (x.off + 16 * i + 16)).getD true &&
    (fmRoutes b).all fun r => r.ports.all fun i => i < 24 && fmPortRole b i != 0

/-- LINEUP's reserved bits are 0 (R542). -/
def fmLineupOk (b : Nat → Byte) : Bool :=
  ((List.range 8).all fun d => fld (fmLineup b d) 31 17 == 0 && fld (fmLineup b d) 63 48 == 0) && fmLineup b 8 < 65536

/-- The consistency rules of R546. -/
def State.fmConsistent (s : State) (b : Nat → Byte) : Bool :=
  fmPartsOk b && s.fmTablesOk b && fmScheduleOk b && fmPortsOk b && fmLineupOk b && settingsOk b

/-- Checks 1 to 5 of R545: the result code, 0 when they pass. -/
def State.fmCheck5 (s : State) (b : Nat → Byte) (room : Nat) : Nat :=
  if !fmShape b room then 5
  else if !State.signedBy b (fmBody b) s.signerDigest then 1
  else if fmSvn b < s.fuses.formMin then 2
  else if !bit (imNat b 0xF 1) s.fuses.state then 3
  else if !s.gradeIn (imNat b 0xE 1) || !serialOk (imNat b 0x10 8) || decide ((s.reg 0x900088).toNat % pow2 32 < imNat b 0x18 4) then 4
  else 0

/-- The checks of R545. -/
def State.fmCheck (s : State) (b : Nat → Byte) (room : Nat) : Nat :=
  let r := s.fmCheck5 b room
  if r ≠ 0 then r else if s.fmConsistent b then 0 else 5

/-- The formation image in force lies in the flash slot that SEC_BOOT.FORM_SLOT names. -/
def State.formation (s : State) : Nat → Byte := s.flashAt (formSlotAt (s.rd 0x800008 9 8))

end Sys2Proof.Machine
end

