-- ==== Sys2Proof/Machine/Formation.lean ====
section
/-! DEFINITION. The formation load (R549 to R552) and what ends a partition's work (R341, R400, R408). -/
namespace Sys2Proof.Machine
open Sys2Proof

/-! Ending work. -/

/-- Writing the entries that a ring keeps, while its completion ring has room (R396, R397). -/
def State.writeKept (s : State) (p r : Nat) : Nat → State
  | 0 => s
  | n + 1 =>
    match (s.ring p r).kept with
    | [] => s
    | e :: _ => if s.enabled p r && !s.cqFull p r then (s.writeEntry p r e).writeKept p r n else s

/-- One entry with `status` for each graph of the partition that has not completed, written at once where its ring is enabled, and
the graphs are dropped (R400, R408, R514, R549). -/
def State.endGraphs (s : State) (p status : Nat) : State :=
  let mine := s.graphs.filter fun g => g.p == p
  let s := mine.foldl (fun (s : State) g => ((s.graphEntry g status).dropGraph g.gid).writeSqHeader g.p g.r) s
  (List.range 16).foldl (fun (s : State) r => s.writeKept p r (s.ring p r).kept.length) s

/-- Clearing ENABLE of every ring of a partition. -/
def State.ringsOff (s : State) (p : Nat) : State :=
  (List.range 16).foldl (fun (s : State) r =>
    if s.enabled p r then
      ({ s with reading := s.reading.filter fun x => !(x.1 == p && x.2.1 == r) }.setFld (Addr.ringCfg p r) 17 17 0).setFld (Addr.ringStatus p r) 1 1 0
    else s) s

/-- The records that hang on a partition's tasks: migrations' waits, writes in flight, starts, collectives, narrowing. -/
def State.forgetTasks (s : State) (p : Nat) : State :=
  let tids := (s.tasks.filter fun t => t.p == p).map TaskRec.tid
  let s := tids.foldl State.withdraw s
  { s with
    flights := s.flights.filter fun f => !tids.contains f.tid
    narrowDue := s.narrowDue.filter fun x => !tids.contains x.1
    colls := s.colls.filter fun c => c.p != p
    starts := s.starts.filter fun r => r.p != p
    startMsgs := s.startMsgs.filter fun m => m.p != p }

/-- The entries that a ring keeps are discarded, and one entry with `status` reports each completed graph that they named (R397). -/
def State.dropKept (s : State) (p r status : Nat) : State :=
  let x := s.ring p r
  if x.kept.isEmpty then s
  else
    let seqs := (nubList (x.kept.map CqEntry.seq)).filter fun n => !(s.graphs.any fun g => g.p == p && g.r == r && g.seq == n)
    seqs.foldl (fun (s : State) n => s.queueEntry p r { user := 0, seq := n, idx := 0xFFFF, status := status, flags := 0, cyc := 0,
                                                        frame := (s.reg 0x100008).toNat % pow2 32, aux := 0 }) (s.setRing { x with kept := [] })

/-- The graphs and the kept entries of a ring go without a report; an enable with RECOVER = 1 reports them (R400). -/
def State.forgetRing (s : State) (p r : Nat) : State :=
  let x := s.ring p r
  let mine := s.graphs.filter fun g => g.p == p && g.r == r
  if x.kept.isEmpty && mine.isEmpty then s
  else (mine.foldl (fun (s : State) g => s.dropGraph g.gid) s).setRing { x with kept := [], lost := true }

/-- The work of a partition ends before a formation load (R549): the graphs of its enabled rings are reported, and its rings are
disabled. -/
def State.endPart (s : State) (p : Nat) : State :=
  let s := s.forgetTasks p
  let s := (List.range 16).foldl (fun (s : State) r => if s.enabled p r then s.dropKept p r 0x30 else s.forgetRing p r) s
  (s.endGraphs p 0x30).ringsOff p

/-- The work of every partition ends (R549). -/
def State.endWork (s : State) : State := s.parts.foldl (fun (s : State) x => s.endPart x.p) s

/-! The lineup (R552, R101, R108, R246). -/

/-- The unit is fused off. -/
def State.fused (s : State) (what die idx : Nat) : Bool := s.fusedOff.contains (what, die, idx)

/-- The unit is in the disabled-unit map. -/
def State.disabled (s : State) (what die idx : Nat) : Bool := s.disMap.any fun e => e.what == what && e.die == die && e.idx == idx

/-- Engine k of die d is a candidate under the image. -/
def State.candidate (s : State) (b : Nat → Byte) (d k : Nat) : Bool :=
  !s.fused 0 d k && !s.disabled 0 d k && !bit (fmLineup b d) k

/-- The role that MXE 16 fills: on the S grade the lowest role that is left, on the X grade the missing member of the first pair
whose other member is there. -/
def State.roleOf16 (s : State) (b : Nat → Byte) (d : Nat) : Option Nat :=
  if !s.candidate b d 16 then none
  else if s.grade = 1 then (List.range 16).find? fun k => !s.candidate b d k
  else (List.range 16).find? fun k => !s.candidate b d k && s.candidate b d (k ^^^ 1)

/-- The engine that takes the role of MXE k. -/
def State.roleEngine (s : State) (b : Nat → Byte) (d k : Nat) : Option Nat :=
  if s.candidate b d k then some k else if s.roleOf16 b d == some k then some 16 else none

/-- STATE of engine k. -/
def State.engineState (s : State) (b : Nat → Byte) (d k : Nat) : Nat :=
  if s.fused 0 d k then 3
  else if !s.candidate b d k then 2
  else if k = 16 ∧ s.grade = 1 ∧ (s.roleOf16 b d).isNone then 1
  else 0

/-- MXE_STATUS of engine k with a generation tag. -/
def State.engineWord (s : State) (b : Nat → Byte) (d k gen : Nat) : W64 :=
  let st := s.engineState b d k
  let pair := if st ≠ 0 then 0xFF else if k < 16 then k / 2 else ((s.roleOf16 b d).map fun r => r / 2).getD 0xFF
  BitVec.ofNat 64 (st + pair * 256 + (if st = 0 then gen % 65536 * pow2 32 else 0))

/-- ATP_STATUS of pipeline r. -/
def State.pipeWord (s : State) (b : Nat → Byte) (d r : Nat) : W64 :=
  let a := s.roleEngine b d (2 * r)
  let c := s.roleEngine b d (2 * r + 1)
  BitVec.ofNat 64 ((if a.isSome && c.isSome then 0 else 1) + c.getD 0xFF * pow2 8 + a.getD 0xFF * pow2 16)

/-- Step 3 of R550 on a die. -/
def State.buildDie (s : State) (b : Nat → Byte) (d : Nat) : State :=
  let s := (List.range 17).foldl (fun (s : State) k => (s.setReg (Addr.mxe d k 0) (s.engineWord b d k (Config.tag s.free))).spend) s
  let s := (List.range 16).foldl (fun (s : State) k =>
    s.setFld (Addr.vxe d k 0) 3 0 (if s.fused 1 d k then 3 else if s.disabled 1 d k || bit (fmLineup b d) (32 + k) then 2 else 0)) s
  (List.range 8).foldl (fun (s : State) r => s.setReg (Addr.atp d r 0) (s.pipeWord b d r)) s

/-- The state of codec core i under the image (R499, R552). -/
def State.codecState (s : State) (b : Nat → Byte) (i : Nat) : Nat :=
  if s.fused 2 0 i then 2
  else if s.disabled 2 0 i || bit (fmLineup b 8) i then 1
  else if (fmParts b).any fun x => bit x.codecCores i then 0 else 3

/-- The bytes that measurement 5 covers (R558): the disabled-unit map and the grade, in the model's own order. -/
def State.mapBytes (s : State) : List Byte :=
  (s.disMap.flatMap fun e => leBytes 1 e.what ++ leBytes 1 e.die ++ leBytes 4 e.idx ++ leBytes 4 e.boot) ++ leBytes 1 s.grade

/-! Memory and partitions (R310, R319, R320, R341). -/

/-- The pseudo-channel that the map records as failed. -/
def State.failedPcs (s : State) : List Nat := nubList ((s.disMap.filter fun e => e.what == 5).map DisEntry.idx)

/-- HBM frames for the partitions (R320), less the retired ones that the spare frames do not replace. -/
def State.hbmRemain (s : State) : Nat :=
  let retired := (s.disMap.filter fun e => e.what == 3).length
  (if s.failedPcs.isEmpty then 3129344 else 3123200) - (retired - Config.spareFrames % 16384)

/-- The frames that a partition receives of `want`, when all of them ask for `sum` (R320). -/
def grantFrames (remain sum want : Nat) : Nat := if sum ≤ remain then want else want * remain / sum

/-- Tile store frames out of service by the disabled-unit map (R333). -/
def State.badTs (s : State) (ps : List PartRec) : List FrameRec :=
  (s.disMap.filter fun e => e.what == 4).filterMap fun e =>
    (ps.find? fun x => x.dies.contains e.die).map fun x => { page := 0, p := x.p, tier := 1, die := e.die, frame := e.idx }

/-- The memories are scrubbed and every page is UNMAPPED (R341); each KEEP that goes with its page is counted (R277, R287). -/
def State.scrubAll (s : State) : State :=
  let s := (s.maps.rt.filter fun x => rtKeep x.2).foldl (fun (s : State) x => s.bump (Addr.keep (rtPart x.2) 0x20) 1) s
  { s with
    maps := { s.maps with dev := [], side := [], rt := [] }
    migs := [], frames := [], badFrames := [], sick := [], hostSkips := [], touched := [], touchedPrev := [], lastDies := [], moves := []
    kvRecs := [], kvWait := [], entryWait := [], evicting := []
    kvStuck := [], kvFreed := [], ctxSlots := [], sessions := [] }

/-- The first page of a function's window (R508, R532). -/
def State.winReset (s : State) (fn : Nat) : State :=
  let p := s.partOfFn fn
  let k := winKey fn 0x20
  s.setReg k (setBits (s.reg k) 39 18 (((s.part p).map PartRec.spanBase).getD 0))

/-- Step 5 of R550. -/
def State.placeParts (s : State) (b : Nat → Byte) : State :=
  let want := sumOf ((fmParts b).map PartRec.hbmFrames)
  let ps := (fmParts b).map fun (x : PartRec) => { x with hbmFrames := grantFrames s.hbmRemain want x.hbmFrames }
  let s := { s.scrubAll with
    parts := ps, badFrames := s.badTs ps, hbmSpare := Config.spareFrames % 16384 - (s.disMap.filter fun e => e.what == 3).length }
  let s := (List.range 8).foldl (fun (s : State) p =>
    let x := (s.part p).getD { p := p }
    let def' := (s.part p).isSome
    let s := (((s.setReg (Addr.memp p 0x28) 0).setReg (Addr.memp p 0x30) 0).setFld (Addr.memp p 0x34) 0 0 0)
    let s := s.setReg (Addr.memp p 8) (BitVec.ofNat 64 (x.spanBase * pow2 32 + x.spanPages))
    let s := (List.range 3).foldl (fun (s : State) t =>
      s.setCtr (Addr.memp p (0x10 + 8 * t)) (if def' then BitVec.ofNat 64 (fmMark b p t * pow2 48) else 0)) s
    let s := s.setFld (Addr.keep p 8) 44 32 x.keepPages
    let s := s.setReg (0x400100 + 8 * p) (BitVec.ofNat 64 (x.codecCores * pow2 16 + x.codecBufs))
    s.setFld 0x100010 (8 * p + 7) (8 * p) (if def' then x.weight else 0)) s
  (List.range 9).foldl State.winReset s

/-! Tables, schedule and ports (R550 step 6). -/

/-- Bank A of every unit of a die, active, with epoch 1 (R206). -/
def State.loadFuncs (s : State) (b : Nat → Byte) (d : Nat) : State :=
  let v := fmFuncs b
  let base := d * 2 * 0x20000
  let ws : List (Nat × BitVec 33) :=
    ((List.range 64).flatMap fun f => (List.range 32).map fun w => (base + f * 32 + w, (v.word f w).setWidth 33 ||| 0x100000000#33)) ++
    ((List.range 16384).flatMap fun i => (List.range 4).map fun c => (base + 0x1000 + i * 4 + c, (v.coef i c).setWidth 33 ||| 0x100000000#33))
  let s := { s with maps := { s.maps with ft := Sparse.setAll 0 s.maps.ft ws } }
  (((s.setFtStatus d 0 0 0).setFtStatus d 1 1 0).setFtStatus d 63 32 1).setFld (Addr.ft d 8) 31 0 1

/-- The image's codebooks on a die (R53). -/
def State.loadBooks (s : State) (b : Nat → Byte) (d : Nat) : State :=
  (List.range 14).foldl (fun (s : State) k =>
    { s with maps := { s.maps with cbk := Sparse.setList 0 s.maps.cbk ((d * 14 + k) * 16) (fmBook b k) } }) s

/-- The image's seeds of a partition (R291). -/
def State.loadSeeds (s : State) (p : Nat) : State :=
  let ss := ((s.part p).map PartRec.seeds).getD []
  { s with maps := { s.maps with
      seeds := Sparse.setAll 0 s.maps.seeds ((List.range 16).map fun k => (p * 16 + k, BitVec.ofNat 64 (ss.getD k 0))) }
  }.setFld (Addr.rng p 8) 15 0 0

/-- The reuse slots of a partition are no longer valid (R258). -/
def State.clearReuse (s : State) (p : Nat) : State := { s with reuseSlots := s.reuseSlots.filter fun x => x.p != p }

/-- SETTINGS and their defaults (R544). -/
def State.loadSettings (s : State) (b : Nat → Byte) : State :=
  settingRegs.foldl (fun (s : State) off =>
    (settingFields off).foldl (fun (s : State) f => s.setFld off f.1 f.2.1 (fmSetting b off f.1 f.2.1 f.2.2.2.2)) s) s

/-- The slot table (R401, R415). -/
def State.loadSlots (s : State) (b : Nat → Byte) : State :=
  let ws := fmSlots b
  let s := (List.range 64).foldl (fun (s : State) i => s.setReg (0x100100 + 8 * i) (BitVec.ofNat 64 (ws.getD i 0))) s
  { s.setFld 0x100000 39 32 (ws.filter fun w => bit w 11).length with slotsOn := [] }

/-- The ports and the route table: a port with a role begins training (R517, R522, R523). -/
def State.loadPorts (s : State) (b : Nat → Byte) : State :=
  let s := (List.range 24).foldl (fun (s : State) i =>
    let role := fmPortRole b i
    (s.setReg (Addr.port i 0) (BitVec.ofNat 64 ((if role = 0 then 0 else 1) + role * pow2 43 + fmPortOwner b i * pow2 45))).setPort
      { i := i, expected := fld (fmPort b i) 31 16, maxRate := fld (fmPort b i) 7 5 }) s
  { s with routes := fmRoutes b }

/-- DEPTH and GC_LOCKED under the roles of the image (R449, R450, R463); FORMATION_DIFF clears (R446), and the frames of the new image
begin with no edge measured, missed or awaited (log 155). -/
def State.loadTime (s : State) : State :=
  let s := ((({ s with fsync := {}, gcAhead := 0 }).setFld 0x900000 4 4 0).setFld 0x900000 3 3 0).setFld 0x900000 0 0 0
  if s.rd 0x900020 57 57 = 0 then (s.setFld 0x900000 7 5 0).setFld 0x900000 1 1 1
  else if s.gcAcquired then s
  else (s.setFld 0x900000 7 5 7).setFld 0x900000 1 1 0

/-! The load (R550, R551). -/

/-- A load that fails leaves the module without a formation (R551). -/
def State.loadFails (s : State) (step : Nat) : State :=
  let s := (s.setFld 0x800008 23 20 9).setFld 0x800008 9 8 3
  { s.event 0x42 (unitOf 4 0 0xFF) 0xFF 9 step with
    parts := [], loading := none, sec := s.sec.map fun (c : SecCmd) => { c with result := 9 } }

/-- Steps 1 to 3 of R550: the map is applied and the lineup built. -/
def State.loadLineup (s : State) (b : Nat → Byte) : State :=
  let s := { s with
    hbmHold := [], hbmWait := [], hbmDue := [], hbmRows := [], engs := [], coreErrs := []
    hbmPcs := s.hbmPcs.map fun (x : HbmPcRec) => { x with
      fails := 0, uncorr := 0, corr := 0, repairing := none, trained := 0, shares := [], sinceScrub := 0 } }
  let gone := s.failedPcs
  let s := (List.range 512).foldl (fun (s : State) i =>
    s.setFld (Addr.hbmPc i 0) 15 0 (if gone.contains i then 4 else 0)) s
  let s := s.setReg 0x300000 (BitVec.ofNat 64 (match gone with
    | x :: _ => 511 + x * pow2 28 + pow2 37
    | [] => 512))
  let s := s.setFld 0x200018 23 0 (if gone.isEmpty then 3145728 else 3139584)
  let s := (List.range 8).foldl (fun (s : State) d => s.buildDie b d) s
  (List.range 16).foldl (fun (s : State) i => s.setFld 0x400000 (2 * i + 1) (2 * i) (s.codecState b i)) s

/-- Steps 5 to 7 of R550. -/
def State.loadRest (s : State) (b : Nat → Byte) (slot : Nat) : State :=
  let s := s.placeParts b
  let s := { s with
    tasks := [], graphs := [], flights := [], narrowDue := [], shared := [], starts := [], startMsgs := [], colls := [], reuseSlots := []
    ctxCmds := [], reading := [], tenants := [], rounds := [], tickClk := 0, holding := false
    maps := { s.maps with
      reuse := [], acct := []
      ctr := Sparse.erase (fun a => 0x120000 ≤ a && a < 0x130000) s.maps.ctr
      snap := Sparse.erase (fun a => 0x120000 ≤ a && a < 0x130000) s.maps.snap }
    formMarks := (s.formMarks.map fun m => min m 1).set slot 2
    fuses := { s.fuses with formMin := if bit (imNat b 0xD 1) 0 then max s.fuses.formMin (fmSvn b) else s.fuses.formMin }
    loading := none
    sec := s.sec.map fun (c : SecCmd) => { c with result := 0 } }
  let s := (((s.loadSettings b).loadSlots b).loadPorts b).loadTime
  let s := (List.range 8).foldl (fun (s : State) d => (s.loadBooks b d).loadFuncs b d) s
  let s := (List.range 8).foldl (fun (s : State) p =>
    (((s.loadSeeds p).setFld (Addr.rng p 8) 16 16 1).setFld (Addr.sch p 4) 2 0 0)) s
  let dg := sha48 (imBytes b 0 (fmBody b))
  let s := (List.range 6).foldl (fun (s : State) i => s.setReg (0x900030 + 8 * i) (BitVec.ofNat 64 (bytesNat dg (8 * i) 8))) s
  let s := ((s.setReg 0x100008 0).setFld 0x800008 9 8 slot).setFld 0x709108 0 0 0
  let s := (List.range 256).foldl (fun (s : State) ch => s.setFld (Addr.tg ch 0x18) 0 0 0) { s with tgStops := [] }
  let s := (s.bump 0x800058 1).setFld 0x8 18 18 1
  (s.event 0x41 (unitOf 4 0 0xFF) 0xFF slot (fmSvn b)).tell (.msix 0 17)

/-- The load of a slot (R549 to R551); `kat` are the KCG-128 units that fail their vectors. -/
def State.loadFormation (s : State) (slot : Nat) (kat : List (Nat × Nat)) : State :=
  let b := s.flashAt (formSlotAt slot)
  let s := s.endWork.setFld 0x8 18 18 0
  if 2 ≤ s.failedPcs.length then s.loadFails 2
  else
    let s := s.loadLineup b
    let s := { s with mapMeas := sha48 s.mapBytes }
    let bare := (fmParts b).any fun x => x.dies.any fun d => s.mxeCount d 0 == 0
    let s := kat.foldl (fun (s : State) x =>
      (s.setFld 0x600800 (x.1 % 8) (x.1 % 8) 1).event 0x40 (unitOf 0 (x.1 % 8) 0x70) 0xFF (x.1 % 8) x.2) (s.setFld 0x600800 7 0 0)
    if bare then s.loadFails 3
    else if !kat.isEmpty then s.loadFails 4
    else s.loadRest b slot

/-- FORMATION_LOAD (R549 to R552). It waits for a SAVE or a RESTORE to complete (R549, R563) and for a quiesce to end (R368). -/
def execFormationLoad (kat : List (Nat × Nat)) (s : State) : Host.Outcome State Fault Refusal :=
  if kat.any fun x => 8 ≤ x.1 then .fault .noSuchUnit
  else
    match s.loading with
    | none => .next s
    | some slot =>
      if s.boot ≠ .firmware ∨ s.stopped ∨ !s.ctxCmds.isEmpty ∨ s.quiescing then .next s
      else .next (s.loadFormation slot kat)

end Sys2Proof.Machine
end

