-- ==== Sys2Proof/Machine/Boot.lean ====
section
/-! DEFINITION. Power, resets, the boot chain, the scorebook's flushes, and the ends of quiesces (R368, R510 to R516, R547, R548, R562, R579 to R581, R584). -/
namespace Sys2Proof.Machine
open Sys2Proof

/-! What survives (R537, R539, R576, R580). -/

/-- Spare rows used stay used (R365); everything else of a pseudo-channel starts again. -/
def keepSpares (xs : List HbmPcRec) : List HbmPcRec :=
  (xs.filter fun x => !x.used.isEmpty).map fun x => { pc := x.pc, used := x.used }

/-- The module with all volatile state at its reset values: flash, fuses, the supply, host memory and what has been told stay, and NumVFs
is 0. -/
def State.cold (s : State) : State :=
  let r : State := { pending := s.pending, maps := { flash := s.maps.flash, host := s.maps.host }, free := s.free, grade := s.grade
                     sb := { segs := s.sb.segs, nextSeg := s.sb.nextSeg, count := s.sb.count }, hostImages := s.hostImages
                     fuses := s.fuses, fusedOff := s.fusedOff, disMap := s.disMap, fwMarks := s.fwMarks, formMarks := s.formMarks
                     pwren := s.pwren, supply := s.supply, outs := s.outs, hbmPcs := keepSpares s.hbmPcs }
  r.hbmPcs.foldl (fun (r : State) x => r.setFld (Addr.hbmPc x.pc 0) 31 16 (16 - x.used.length)) r

/-- Zeroisation (R561 steps 2 to 4): customer data, the formation slots and their markers go, the owner key is revoked. -/
def State.zeroise (s : State) : State :=
  { s.scrubAll with
    maps := { s.scrubAll.maps with
      cbk := [], ft := [], seeds := [], reuse := [], acct := []
      flash := Sparse.erase (fun a => 0x8000000 ≤ a && a < 0xC000000) s.maps.flash }
    tasks := [], graphs := [], parts := [], reuseSlots := [], formMarks := [0, 0]
    fuses := { s.fuses with revoked := true, returning := false } }

/-- The true random source gives a new nonce (R556). -/
def State.newNonce (s : State) : State :=
  ((List.range 4).foldl (fun (s : State) i => s.setReg (0x800010 + 8 * i) (Config.nonce s.free i)) s).spend

/-- PREV_DOWN (R581), with `boot` the number of the present boot. -/
def prevDown (sb : Scorebook) : Nat :=
  let newest := ((List.range 8).map fun i => sb.segs.getD ((sb.nextSeg + 7 - i) % 8) none).findSome? id
  if sb.boot ≤ 1 then 0
  else
    match newest with
    | some g => if g.boot + 1 = sb.boot then (if g.reason = 1 then 1 else 2) else 3
    | none => 3

/-- The result of a firmware slot: none without a valid marker (R548). -/
def State.fwResult (s : State) (i : Nat) : Option Nat :=
  if s.fwMarks.getD i false then some (s.fwCheck (s.flashAt (fwSlotAt i)) 0x4000000) else none

/-- The firmware slot that the boot ROM takes (R548). -/
def State.fwChoice (s : State) : Option Nat :=
  let ok := fun i => s.fwResult i == some 0
  let svn := fun i => fwSvn (s.flashAt (fwSlotAt i))
  if ok 0 && ok 1 then (if svn 0 < svn 1 then some 1 else some 0)
  else if ok 0 then some 0
  else if ok 1 then some 1
  else none

/-- The result code of the last slot refused. -/
def State.fwErr (s : State) : Nat :=
  match (s.fwResult 1).filter fun r => r != 0 with
  | some r => r
  | none => ((s.fwResult 0).filter fun r => r != 0).getD 0

/-- The formation slots in the order in which firmware tries them (R548). -/
def State.formOrder (s : State) : List Nat :=
  (if s.formMarks.getD 1 0 = 2 then [1, 0] else [0, 1]).filter fun i => s.formMarks.getD i 0 != 0

/-- The erase of the segment after the newest one begins (R580). -/
def State.eraseNext (s : State) : State := { s with sb := { s.sb with erasing := some s.sb.nextSeg } }

/-- Steps 4 to 6 of R547 under the firmware of a slot. -/
def State.runFirmware (s : State) (slot : Nat) : State :=
  let b := s.flashAt (fwSlotAt slot)
  let s := (s.setReg 0x900088 (BitVec.ofNat 64 (fwVersion b))).setFld 0x800008 63 32 (fwVersion b)
  let s := (s.setFld 0x800008 5 4 slot).setFld 0x8 23 22 (prevDown s.sb)
  let s := { s with
    boot := .firmware
    fuses := { s.fuses with fwMin := if bit (imNat b 0xD 1) 0 then max s.fuses.fwMin (fwSvn b) else s.fuses.fwMin }
    sb := { s.sb with count := s.sb.boot } }.eraseNext
  let rs := s.formOrder.map fun i => (i, s.fmCheck (s.flashAt (formSlotAt i)) 0x2000000)
  match rs.find? fun x => x.2 == 0 with
  | some x => { s with loading := some x.1 }
  | none => s.setFld 0x800008 23 20 (((rs.getLast?).map Prod.snd).getD 0)

/-- The boot chain up to the choice of a formation (R547, R548, R562). -/
def State.bootChain (s : State) : State :=
  let s := { s with boot := .rom, sb := { s.sb with boot := s.sb.count + 1 } }.newNonce
  let s := if s.fuses.returning then { s.zeroise with fuses := { s.zeroise.fuses with state := 3 } } else s
  let s := s.setFld 0x800008 19 16 s.fwErr
  match s.fwChoice with
  | some i => s.runFirmware i
  | none => { s.setFld 0x800008 6 6 1 with boot := .recovery }

/-- A module reset with power held, and the boot that follows: the link's state stays. -/
def State.reboot (s : State) : State :=
  (((s.cold.setFld 0x8 3 0 (s.rd 0x8 3 0)).setFld 0x8 12 8 (s.rd 0x8 12 8))).bootChain

/-- The flush that precedes a module reset has been asked for and has not ended (R580). -/
def State.flushOwed (s : State) : Bool := s.sb.waiting.contains 2 || s.sb.flushing.any fun f => f.2.1 == 2

/-- The module reset for which everything has stopped: it waits for its flush (R580) and for every quiesce to end (R368). -/
def State.resetIfDue (s : State) : State := if s.dying && !s.flushOwed && !s.quiescing then s.reboot else s

/-- A reset of the module with power held (R510, R515, R580): the scorebook is flushed first, but after REMOVE_READY, and while no
firmware runs that could flush it. -/
def State.beginReset (s : State) : State :=
  if s.boot = .off ∨ s.dying then s
  else if s.boot ≠ .firmware ∨ s.removal = 3 then { s with dying := true }.resetIfDue
  else { s with dying := true }.askFlush 2

/-- Power is lost (R515, R581): a flush in progress leaves the records that it had programmed. -/
def State.powerOff (s : State) (programmed : Nat) : State :=
  let sb := match s.sb.flushing with
    | some (seg, _, recs) => { s.sb with segs := s.sb.segs.set seg ((s.sb.segs.getD seg none).map fun (g : SbSeg) => { g with recs := recs.take programmed }) }
    | none => s.sb
  { s with sb := sb }.cold

/-! Power and the link. -/

/-- PWREN_RISE (R547): the module boots where the supply is there. -/
def execPwrenRise (s : State) : Host.Outcome State Fault Refusal :=
  if s.pwren then .next s
  else
    let s := { s with pwren := true }
    .next (if s.supply ∧ s.boot = .off then s.bootChain else s)

/-- PWREN_FALL (R515). -/
def execPwrenFall (programmed : Nat) (s : State) : Host.Outcome State Fault Refusal :=
  .next (({ s with pwren := false }).powerOff programmed)

/-- SUPPLY_LOSS (R584). -/
def execSupplyLoss (programmed : Nat) (s : State) : Host.Outcome State Fault Refusal :=
  .next (({ s with supply := false }).powerOff programmed)

/-- SUPPLY_RETURN (R584): the module starts at or above 48 V. -/
def execSupplyReturn (s : State) : Host.Outcome State Fault Refusal :=
  if s.supply then .next s
  else
    let s := { s with supply := true }
    .next (if s.pwren ∧ s.boot = .off then s.bootChain else s)

/-- The link is gone: GEN and WIDTH read 0. -/
def State.linkGone (s : State) : State := (s.setFld 0x8 3 0 0).setFld 0x8 12 8 0

/-- PERST_N_ASSERT (R510, R515). -/
def execPerstNAssert (s : State) : Host.Outcome State Fault Refusal := .next s.linkGone.beginReset

/-- PCIE_LINK_DOWN: link down or hot reset (R510). -/
def execPcieLinkDown (s : State) : Host.Outcome State Fault Refusal := .next s.linkGone.beginReset

/-- FLR_PF0 (R510). -/
def execFlrPf0 (s : State) : Host.Outcome State Fault Refusal := .next s.beginReset

/-- PCIE_LINK_UP (R502, R513, R532): GEN is 4 to 7 and WIDTH 4, 8 or 16. A link that was up has retrained. -/
def execPcieLinkUp (gen width : Nat) (s : State) : Host.Outcome State Fault Refusal :=
  if s.boot = .off ∨ gen < 4 ∨ 7 < gen ∨ !([4, 8, 16].contains width) then .next s
  else
    let s := if s.rd 0x8 3 0 = 0 then s else s.bump 0x128 1
    .next ((s.setFld 0x8 3 0 gen).setFld 0x8 12 8 width)

/-! The scorebook's mirror and flushes (R579, R580). -/

/-- SCOREBOOK_MIRROR_COPY (R579): the next record goes into the mirror ring. -/
def execScorebookMirrorCopy (s : State) : Host.Outcome State Fault Refusal :=
  if s.boot ≠ .firmware ∨ s.sb.head ≤ s.sb.mirrored then .next s
  else .next { s with sb := { s.sb with mirrored := s.sb.mirrored + 1 } }

/-- The records that a flush takes, oldest first: the mirror's, or those in SRAM when it cannot be read. -/
def Scorebook.frozen (x : Scorebook) (unreadable : Bool) : List SbRec :=
  ((if unreadable then x.recs else x.recs.filter fun r => r.seq < x.mirrored).take 65536).reverse

/-- Steps 1 to 3 of R580 begin: the header is programmed without COUNT into the next segment. -/
def State.beginFlush (s : State) (reason : Nat) (unreadable : Bool) : State :=
  let recs := s.sb.frozen unreadable
  let g : SbSeg := { boot := s.sb.boot, reason := reason, firstSeq := ((recs.head?).map SbRec.seq).getD s.sb.head
                     time := (s.reg 0x900008).toNat, count := none }
  { s with sb := { s.sb with
      segs := s.sb.segs.set s.sb.nextSeg (some g), flushing := some (s.sb.nextSeg, reason, recs), nextSeg := (s.sb.nextSeg + 1) % 8
      waiting := s.sb.waiting.drop 1, held := unreadable } }

/-- SCOREBOOK_FLUSH (R580, R592): the first flush asked for starts when no other runs and the next segment is erased. -/
def execScorebookFlush (unreadable : Bool) (s : State) : Host.Outcome State Fault Refusal :=
  match s.sb.waiting with
  | [] => .next s
  | reason :: _ =>
    if s.boot ≠ .firmware ∨ s.sb.flushing.isSome ∨ (s.sb.segs.getD s.sb.nextSeg none).isSome ∨ s.sb.erasing = some s.sb.nextSeg then .next s
    else .next (s.beginFlush reason unreadable)

/-- Step 5 of R514. -/
def State.removeReady (s : State) : State :=
  { (((s.setFld 0x8 20 20 1).tell (.pin "ALERT_N" false)).tell (.pin "ALERT_N" true)).tell (.msix 0 17) with removal := 3 }

/-- FLUSH_COMPLETE (R580): COUNT is programmed, a flush record follows, and the oldest segment's erase begins. What waited for the flush
goes on: the orderly removal (R514) or, once no pseudo-channel is quiesced, the module reset (R368, R515). -/
def execFlushComplete (s : State) : Host.Outcome State Fault Refusal :=
  match s.sb.flushing with
  | none => .next s
  | some (seg, reason, recs) =>
    let s := { s with sb := { s.sb with
      segs := s.sb.segs.set seg ((s.sb.segs.getD seg none).map fun (g : SbSeg) => { g with recs := recs, count := some recs.length })
      flushing := none, held := false } }
    let s := ((s.bump 0x709040 1).event 0x70 (unitOf 4 0 0xFF) 0xFF reason recs.length).eraseNext
    if s.dying ∧ reason = 2 then .next s.resetIfDue
    else if s.removal = 2 ∧ reason = 1 then .next s.removeReady
    else .next s

/-- SEGMENT_ERASE_DONE (R580). -/
def execSegmentEraseDone (s : State) : Host.Outcome State Fault Refusal :=
  match s.sb.erasing with
  | none => .next s
  | some i => .next { s with sb := { s.sb with segs := s.sb.segs.set i none, erasing := none } }

/-! The ends of quiesces (R362, R364, R366, R369): a module reset may have waited for one (R368). -/

/-- RETRAIN_COMPLETE (R362, R364, R369). -/
def execRetrainComplete (pc clocks : Nat) (ok : Bool) (s : State) : Host.Outcome State Fault Refusal :=
  if 512 ≤ pc then .fault .noSuchUnit
  else if s.pcState pc ≠ 1 then .next s
  else
    let x := s.pcRec pc
    if ok then
      let a := 0x300100 + 8 * (pc % 8)
      let s := (s.setPcRec { x with fails := 0, temp := s.rd a 7 0, trained := s.tickClk }).setFld a 15 8 (s.rd a 7 0)
      .next (s.resume pc clocks).resetIfDue
    else
      let s := (s.setPcRec { x with fails := x.fails + 1, failClk := s.tickClk }).bump (Addr.hbmPc pc 0x30) 1
      let s := if 3 ≤ x.fails + 1 then s.failPc pc 0 else s
      .next (s.resume pc clocks).resetIfDue

/-- A repaired row leaves the queue, and its spare row is used (R365, R366). -/
def State.rowRepaired (s : State) (pc row : Nat) : State :=
  let y := s.pcRec pc
  let s := s.setPcRec { y with repairing := none, used := y.used ++ [row % 16] }
  let s := { s with
    hbmRows := s.hbmRows.filter fun r => !(r.pc == pc && r.row == row)
    hbmDue := s.hbmDue.filter fun q => q != (pc, row) }.refreshPending
  let s := (s.bump (Addr.hbmPc pc 0x38) 1).setFld (Addr.hbmPc pc 0) 31 16 (s.repairsLeft pc - 1)
  s.event 0x25 (unitOf 1 (pc % 8) (pc / 8)) 0xFF pc row

/-- REPAIR_COMPLETE (R366): the four lines of the row, whose 64 words are corrected by R350, are in the spare row. With the last spare
used, a pseudo-channel that has met 256 uncorrectable words fails (R369). -/
def execRepairComplete (pc clocks : Nat) (errs : List WordErr) (s : State) : Host.Outcome State Fault Refusal :=
  if 512 ≤ pc then .fault .noSuchUnit
  else
    match (s.pcRec pc).repairing with
    | none => .next s
    | some row =>
      if s.pcState pc ≠ 2 then .next s
      else
        let s := ((s.bump (Addr.hbmPc pc 0x8) 32).bump (Addr.hbmPc pc 0x10) 32).readWords pc (4 * row) 64 (fun s l => s.lineBlock pc l) errs
        let s := s.rowRepaired pc row
        let s := if 256 ≤ (s.pcRec pc).uncorr ∧ s.repairsLeft pc = 0 then s.failPc pc 2 else s
        .next (s.resume pc clocks).resetIfDue

/-- PC_CONTROLLER_FAULT (R369): a quiesce of the pseudo-channel ends with it. -/
def execPcControllerFault (pc : Nat) (s : State) : Host.Outcome State Fault Refusal :=
  if 512 ≤ pc then .fault .noSuchUnit
  else
    let quiet := s.pcQuiet pc
    let s := s.failPc pc 1
    if quiet then .next ((s.setPcRec { s.pcRec pc with repairing := none }).resume pc 0).resetIfDue else .next s

end Sys2Proof.Machine
end

