-- ==== Sys2Proof/Machine/Security.lean ====
section
/-! DEFINITION. The security commands (R554 to R557, R561, R563, R566), debug access, and attestation (R558 to R560). -/
namespace Sys2Proof.Machine
open Sys2Proof

/-! SEC_CMD (R566). -/

/-- SEC_CMD.BUSY. -/
def State.secBusy (s : State) : Bool := s.rd 0x80003C 11 11 = 1

/-- SEC_CMD_ADDR and SEC_CMD_LEN. -/
def State.secAddr (s : State) : Nat := (s.reg 0x800030).toNat / 64 * 64
def State.secLen (s : State) : Nat := s.rd 0x800038 31 0

/-- A command begins with the result that it will end with; a refusal counts. -/
def State.secRun (s : State) (c : SecCmd) : State :=
  let s := { s.setFld 0x80003C 11 11 1 with sec := some c }
  if c.result = 0 then s else s.bump 0x800050 1

/-- A write of SEC_CMD with an OP: by PF0 only (R564); while BUSY it is ignored and counted (R563); in recovery only STAGE_FW is
accepted (R548). -/
def State.secWrite (s : State) (fn op : Nat) (run : State → State) : State :=
  if fn ≠ 0 ∨ !s.answers 0x80003C then s
  else if s.secBusy then s.bump 0x800050 1
  else if s.boot = .recovery ∧ op ≠ 1 then s.secRun { op := op, result := 8 }
  else run s

/-- Programming an image of `len` bytes from host memory into flash at `base`, the slot of `size` bytes erased first. -/
def State.program' (s : State) (base size addr len : Nat) : State :=
  let f := Sparse.erase (fun a => base ≤ a && a < base + size) s.maps.flash
  { s with maps := { s.maps with flash := Sparse.setList 0 f base (Sparse.getList 0 s.maps.host addr len) } }

/-- The firmware slot that STAGE_FW writes: the one not running; in recovery slot 0. -/
def State.fwTarget (s : State) : Nat := if s.boot = .recovery then 0 else 1 - s.rd 0x800008 5 4

/-- The formation slot that STAGE_FORM writes: the one not in force; with none in force, the one not marked ACTIVE. -/
def State.formTarget (s : State) : Nat :=
  let k := s.rd 0x800008 9 8
  if k = 0 then 1 else if k = 1 then 0 else if s.formMarks.getD 0 0 = 2 then 1 else 0

/-- STAGE_FW (R540, R566). -/
def execStageFw (fn : Nat) (host : List HostStore) (s : State) : Host.Outcome State Fault Refusal :=
  if 8 < fn then .fault .noSuchUnit
  else .next ((s.hostStores host).secWrite fn 1 fun s =>
    let b := s.hostAt s.secAddr
    let r := s.fwCheck b (min 0x4000000 s.secLen)
    let k := s.fwTarget
    let s := if r ≠ 0 then s else
      { s.program' (fwSlotAt k) 0x4000000 s.secAddr (fwBody b + 5312) with fwMarks := s.fwMarks.set k false }
    s.secRun { op := 1, result := r, slot := k })

/-- STAGE_FORM (R545 checks 1 to 5, R566). -/
def execStageForm (fn : Nat) (host : List HostStore) (s : State) : Host.Outcome State Fault Refusal :=
  if 8 < fn then .fault .noSuchUnit
  else .next ((s.hostStores host).secWrite fn 2 fun s =>
    let b := s.hostAt s.secAddr
    let r := s.fmCheck5 b (min 0x2000000 s.secLen)
    let k := s.formTarget
    let s := if r ≠ 0 then s else
      { s.program' (formSlotAt k) 0x2000000 s.secAddr (fmBody b + 5312) with formMarks := s.formMarks.set k 0 }
    s.secRun { op := 2, result := r, slot := k })

/-- The result of FORM_LOAD before the load: refused in the fatal state and while self-tests run (R563, R592), then the checks of R545
on a slot with a marker. -/
def State.formLoadResult (s : State) (slot : Nat) : Nat :=
  if s.fatal || s.rd 0x709108 1 1 == 1 || 1 < slot then 8
  else if s.formMarks.getD slot 0 = 0 then 5
  else s.fmCheck (s.flashAt (formSlotAt slot)) 0x2000000

/-- FORM_LOAD (R549): the work in force ends at once, but while a SAVE or a RESTORE runs. -/
def execFormLoad (fn slot : Nat) (s : State) : Host.Outcome State Fault Refusal :=
  if 8 < fn then .fault .noSuchUnit
  else .next (s.secWrite fn 3 fun s =>
    let r := s.formLoadResult slot
    let s := s.secRun { op := 3, result := r, slot := slot }
    if r ≠ 0 then s
    else
      let s := { s with loading := some slot }
      if s.ctxCmds.isEmpty then s.endWork.setFld 0x8 18 18 0 else s)

/-! Signed commands (R554, R555). -/

/-- The transitions of R554. -/
def lcAllowed (old new : Nat) : Bool :=
  [(0, 1), (1, 2), (1, 3), (2, 3), (0, 4), (1, 4), (2, 4), (3, 4)].contains (old, new)

/-- The nonce that a signed command must carry. -/
def State.nonceBytes (s : State) : List Byte := (List.range 4).flatMap fun i => leBytes 8 (s.reg (0x800010 + 8 * i)).toNat

/-- The result of a signed command (R538, R555): its shape, its signature, the serial number and the nonce; LC_TRANSITION then needs an
allowed transition. -/
def State.signedResult (s : State) (op : Nat) : Nat :=
  let b := s.hostAt s.secAddr
  let arg0 := imNat b 0x30 4
  let arg1 := imNat b 0x34 4
  let give := op == 4 && s.fuses.state == 0 && arg0 == 1
  let plen := if give then 1952 else 0
  let key := if give then some (sha48 (imBytes b 64 1952)) else s.signerDigest
  if imNat b 0 4 ≠ 0x4B434D44 ∨ imNat b 4 4 ≠ op ∨ imNat b 0x38 4 ≠ plen ∨ imNat b 0x3C 4 ≠ 0 ∨ s.secLen ≠ 64 + plen + 5312 ∨
      (op = 4 ∧ arg1 ≠ 0) ∨ (op = 5 ∧ (8 ≤ arg0 ∨ arg1 = 0 ∨ 86400 < arg1)) then 5
  else if !State.signedBy b (64 + plen) key then 1
  else if imNat b 8 8 ≠ Config.serial.toNat then 4
  else if imBytes b 0x10 32 ≠ s.nonceBytes then 6
  else if op = 4 ∧ !lcAllowed s.fuses.state arg0 then 3
  else 0

/-- A transition that zeroises (R554, R561). -/
def lcZeroises (old new : Nat) : Bool := new == 3 || (new == 4 && old != 3)

/-- LC_TRANSITION (R554, R561). Step 1 of a procedure that zeroises follows at once: RETURN_PENDING is fused and the work in force
ends. The rest follows when the command ends. -/
def execLcTransition (fn : Nat) (host : List HostStore) (s : State) : Host.Outcome State Fault Refusal :=
  if 8 < fn then .fault .noSuchUnit
  else .next ((s.hostStores host).secWrite fn 4 fun s =>
    let r := s.signedResult 4
    let b := s.hostAt s.secAddr
    let new := imNat b 0x30 4
    let s := s.newNonce.secRun { op := 4, result := r, slot := new, key := sha48 (imBytes b 64 1952) }
    if r = 0 ∧ lcZeroises s.fuses.state new then
      { s.endWork.setFld 0x8 18 18 0 with fuses := { s.fuses with returning := true } }
    else s)

/-- DEBUG_OPEN (R557). -/
def execDebugOpen (fn : Nat) (host : List HostStore) (s : State) : Host.Outcome State Fault Refusal :=
  if 8 < fn then .fault .noSuchUnit
  else .next ((s.hostStores host).secWrite fn 5 fun s =>
    let r := s.signedResult 5
    let b := s.hostAt s.secAddr
    s.newNonce.secRun { op := 5, result := r, slot := imNat b 0x30 4, seconds := imNat b 0x34 4 })

/-- DEBUG_CLOSE (R557). -/
def execDebugClose (fn : Nat) (s : State) : Host.Outcome State Fault Refusal :=
  if 8 < fn then .fault .noSuchUnit
  else .next (s.secWrite fn 6 fun s => (s.setReg 0x800040 0).secRun { op := 6, result := 0 })

/-- DEBUG_TOKEN_EXPIRE (R557): a token that counts down reaches 0. -/
def execDebugTokenExpire (s : State) : Host.Outcome State Fault Refusal :=
  if (s.fuses.state = 2 ∨ s.fuses.state = 3) ∧ s.rd 0x800040 2 0 ≠ 0 then .next (s.setReg 0x800040 0) else .next s

/-- The effect of an accepted transition (R554, R561): fuses, zeroisation, the record, and the module reset. -/
def State.lcEffect (s : State) (c : SecCmd) : State :=
  let old := s.fuses.state
  let s := if lcZeroises old c.slot then s.zeroise else s
  let f := s.fuses
  let s := { s with fuses := { f with
    state := c.slot, owner := if old = 0 ∧ c.slot = 1 then some c.key else f.owner, idKey := f.idKey && c.slot != 4 } }
  (s.setReg 0x800040 0).event 0x44 (unitOf 4 0 0xFF) 0xFF old c.slot

/-- Access that an accepted DEBUG_OPEN opens (R557). -/
def State.openDebug (s : State) (c : SecCmd) : State :=
  let secs := if s.fuses.state = 2 ∨ s.fuses.state = 3 then c.seconds else 0xFFFFFFFF
  { (s.setReg 0x800040 (BitVec.ofNat 64 (c.slot + secs * pow2 32))).bump 0x800060 1 with debugClk := 0 }

/-- SEC_CMD_COMPLETE (R566): RESULT is set, BUSY clears and PF0 vector 16 is raised. A staged slot receives its marker (R537); FORM_LOAD
ends with its load; a completed transition ends with a module reset. -/
def execSecCmdComplete (s : State) : Host.Outcome State Fault Refusal :=
  match s.sec with
  | none => .next s
  | some c =>
    if c.op = 3 ∧ s.loading.isSome then .next s
    else
      let ok := c.result == 0
      let s := { s with
        fwMarks := if ok ∧ c.op = 1 then s.fwMarks.set c.slot true else s.fwMarks
        formMarks := if ok ∧ c.op = 2 then s.formMarks.set c.slot 1 else s.formMarks }
      let s := if ok ∧ c.op = 4 then s.lcEffect c else if ok ∧ c.op = 5 then s.openDebug c else s
      let s := if c.op = 3 ∧ c.result = 9 then s.bump 0x800050 1 else s
      let s := { ((s.setFld 0x80003C 15 12 c.result).setFld 0x80003C 11 11 0).tell (.msix 0 16) with sec := none }
      .next (if ok ∧ c.op = 4 then s.beginReset else s)

/-! Attestation (R558 to R560). -/

/-- The bytes of a measurement. -/
def State.measurement (s : State) (i : Nat) : List Byte :=
  let fw := s.flashAt (fwSlotAt (s.rd 0x800008 5 4))
  if i = 1 then sha48 Config.bootRom
  else if i = 2 then (if s.boot = .firmware then sha48 (imBytes fw 0 (fwBody fw)) else List.replicate 48 0)
  else if i = 3 then
    (if s.rd 0x800008 9 8 = 3 then List.replicate 48 0
     else (List.range 6).flatMap fun k => leBytes 8 (s.reg (0x900030 + 8 * k)).toNat)
  else if i = 4 then
    leBytes 1 s.fuses.state ++ leBytes 1 (if s.fuses.owner.isSome && !s.fuses.revoked then 1 else 0) ++ leBytes 1 s.fuses.fwMin ++
      leBytes 1 s.fuses.formMin ++ leBytes 1 (s.rd 0x800040 2 0)
  else if i = 5 then s.mapMeas
  else sha48 Config.madeRecord

/-- Answering an SPDM request. The responder runs with the firmware; without the identity key it answers only GET_VERSION and
GET_CAPABILITIES (R560). -/
def State.answer (s : State) (always : Bool) (a : SpdmAnswer) : State :=
  if s.boot = .firmware ∧ (always ∨ s.fuses.idKey) then s.tell (.spdm a) else s

/-- SPDM_GET_VERSION (R559). -/
def execSpdmGetVersion (s : State) : Host.Outcome State Fault Refusal := .next (s.answer true (.version 1 3))

/-- SPDM_GET_CAPABILITIES (R559). -/
def execSpdmGetCapabilities (s : State) : Host.Outcome State Fault Refusal := .next (s.answer true .capabilities)

/-- SPDM_NEGOTIATE_ALGORITHMS (R559). -/
def execSpdmNegotiateAlgorithms (s : State) : Host.Outcome State Fault Refusal := .next (s.answer false .algorithms)

/-- SPDM_GET_DIGESTS (R559): slot 0. -/
def execSpdmGetDigests (s : State) : Host.Outcome State Fault Refusal := .next (s.answer false (.digests (sha48 Config.certChain)))

/-- SPDM_GET_CERTIFICATE (R560): a part of the chain of slot 0. -/
def execSpdmGetCertificate (off len : Nat) (s : State) : Host.Outcome State Fault Refusal :=
  .next (s.answer false (.certificate ((Config.certChain.drop off).take len)))

/-- SPDM_CHALLENGE (R559). -/
def execSpdmChallenge (nonce : List Byte) (s : State) : Host.Outcome State Fault Refusal :=
  .next (s.answer false (.challengeAuth (Config.sign s.free nonce))).spend

/-- SPDM_GET_MEASUREMENTS (R558, R559): of one index from 1 to 6, or of all, signed. -/
def execSpdmGetMeasurements (index : Nat) (nonce : List Byte) (s : State) : Host.Outcome State Fault Refusal :=
  let ix := if index = 0xFF then [1, 2, 3, 4, 5, 6] else [index]
  if index ≠ 0xFF ∧ (index = 0 ∨ 6 < index) then .next (s.answer false .unsupported)
  else
    let bs := ix.map fun i => (i, s.measurement i)
    .next (s.answer false (.measurements bs (Config.sign s.free (nonce ++ bs.flatMap Prod.snd)))).spend

/-- SPDM_UNSUPPORTED (R559): ERROR UnsupportedRequest. -/
def execSpdmUnsupported (s : State) : Host.Outcome State Fault Refusal := .next (s.answer false .unsupported)

end Sys2Proof.Machine
end

