-- ==== Sys2Proof/Machine/Context.lean ====
section
/-! DEFINITION. Partition commands and context images (R341, R407 to R413, R446, R458). -/
namespace Sys2Proof.Machine
open Sys2Proof

/-- The image that the bytes of a host buffer hold, where another module wrote them: the sections' formats are firmware's own (R409): a
free function of the bytes. -/
opaque decodeImage (bytes : List Byte) : CtxImage

/-! Commands (R407, R416). -/

/-- A command that the state does not accept: RESULT 5 and a record (R407). -/
def State.ignoreCmd (s : State) (p cmd : Nat) : State :=
  (s.setFld (Addr.sch p 4) 7 4 5).event 0x3 (unitOf 4 0 0x20) p cmd (s.pstate p)

/-- A command ends: RESULT, STATE and vector 16 (R407, R509). -/
def State.endCmd (s : State) (p result st : Nat) : State :=
  ((s.setFld (Addr.sch p 4) 7 4 result).setFld (Addr.sch p 4) 2 0 st).raisePart p 16

/-- A write of SCH_PART_CTRL with a command: SLOT and TO_HOST are written, and the command runs in the states that accept it. -/
def State.ctrlWrite (s : State) (fn p cmd : Nat) (value : W32) (ok : Nat → Bool) (run : State → State) : State :=
  let a := Addr.sch p 0
  if !s.reaches fn a || fld value.toNat 3 0 != cmd then s
  else
    let s := s.setReg a (BitVec.ofNat 64 (value.toNat &&& 0x110))
    if (s.part p).isSome && !s.stopped && ok (s.pstate p) then run s else s.ignoreCmd p cmd

/-- The target of a SAVE or a RESTORE as the command finds it. -/
def State.ctxTarget (s : State) (p : Nat) : CtxCmd :=
  { p := p, addr := (s.reg (Addr.sch p 8)).toNat / 4096 * 4096, len := (s.reg (Addr.sch p 0x10)).toNat
    slot := s.rd (Addr.sch p 0) 8 8, toHost := s.rd (Addr.sch p 0) 4 4 == 1 }

/-! SAVE (R409 to R411). -/

/-- Starts and collectives that wait are withdrawn, and their tasks are saved as not started (R436, R458). -/
def State.unstart (s : State) (p : Nat) : State :=
  let tids := (s.starts.filter fun r => r.p == p).map StartRec.tid ++ (s.colls.filter fun c => c.p == p).map CollRec.tid
  let s := tids.foldl State.withdraw s
  { s with tasks := s.tasks.map fun (t : TaskRec) => if tids.contains t.tid ∧ t.phase = .running then
      { t with phase := .ready, mark := 0, words := [] } else t }

/-- A SAVE halts the running tasks of its partition at their next tile boundaries (R411 step 1). -/
def State.raiseSave (s : State) (p : Nat) : State :=
  { s with tasks := s.tasks.map fun (t : TaskRec) =>
      if t.p = p ∧ t.phase = .running then { t with halts := t.halts ++ (s.taskDies t).map fun d => (d, true) } else t }

/-- The halts of a SAVE end. -/
def TaskRec.released (t : TaskRec) : TaskRec := { t with halts := t.halts.filter fun x => !x.2 }

/-- PART_SAVE (R411 step 1). -/
def execPartSave (fn p : Nat) (value : W32) (s : State) : Host.Outcome State Fault Refusal :=
  if 8 < fn ∨ 8 ≤ p then .fault .noSuchUnit
  else .next (s.ctrlWrite fn p 1 value (fun st => st == 0) fun s =>
    let s := ((s.setFld (Addr.sch p 4) 2 0 1).unstart p).raiseSave p
    { s with ctxCmds := s.ctxCmds ++ [s.ctxTarget p] })

/-- Active engines of a list of dies. -/
def State.activeOn (s : State) (ds : List Nat) : Nat := sumOf (ds.map fun d => s.mxeCount d 0)

/-- The entries of a table from key `base`, `n` of them, counted from 0. -/
def sliceOf {w : Nat} (m : Sparse w) (base n : Nat) : Sparse w :=
  (m.filter fun e => base ≤ e.1 && e.1 < base + n).map fun e => (e.1 - base, e.2)

/-- The formation digest in force as bytes. -/
def State.formDigest (s : State) : List Byte := (List.range 6).flatMap fun i => leBytes 8 (s.reg (0x900030 + 8 * i)).toNat

/-- The image of a partition (R409, R410). -/
def State.takeImage (s : State) (p : Nat) : CtxImage :=
  let ds := (List.range 8).filter fun d => (s.dies p).contains d
  let d0 := ds.headD 0
  let mine := (s.tasks.filter fun t => t.p == p).map TaskRec.released
  let tids := mine.map TaskRec.tid
  { fw := (s.reg 0x900088).toNat, grade := s.grade, mxes := s.activeOn ds, dies := ds, digest := s.formDigest
    rings := ((List.range 16).filter fun r => s.enabled p r).map fun r =>
      (s.ring p r, s.reg (Addr.sqBase p r), s.reg (Addr.cqBase p r), s.reg (Addr.ringCfg p r))
    offRings := s.rings.filter fun x => x.p == p && !s.enabled p x.r && !x.kept.isEmpty
    graphs := s.graphs.filter fun g => g.p == p, tasks := mine, narrowDue := s.narrowDue.filter fun x => tids.contains x.1
    books := sliceOf s.maps.cbk (d0 * 224) 224, tables := sliceOf s.maps.ft ((d0 * 2 + s.ftActive d0) * 0x20000) 0x20000
    epoch := s.rd (Addr.ft d0 8) 31 0, seeds := (List.range 16).map fun k => Sparse.get 0 s.maps.seeds (p * 16 + k)
    seeded := s.rd (Addr.rng p 8) 15 0, reuse := sliceOf s.maps.reuse (p * pow2 15) (pow2 15), slots := s.reuseSlots.filter fun x => x.p == p
    keep := ((s.pagesOf p).filter fun e => rtKeep e.2).map Prod.fst
    tsPages := ((s.pagesOf p).filter fun e => (rtState e.2 == 2 || rtState e.2 == 3) && rtTier e.2 == 1).map fun e =>
      (e.1, ds.findIdx fun d => d == rtDie e.2) }

/-- The header of the image of `size` bytes with a DIGEST (R410). The section table's offsets and lengths are firmware's own: free
values, but for sections 8 to 11, whose length is 0. -/
def State.imageHeader (s : State) (img : CtxImage) (size n : Nat) (digest : List Byte) : List Byte :=
  let lineup := (List.range 8).flatMap fun i =>
    leBytes 4 (match img.dies[i]? with
      | some d => sumOf ((List.range 17).map fun k => if s.mxeActive d k then pow2 k else 0)
      | none => 0)
  leBytes 4 0x4B435458 ++ leBytes 4 1 ++ leBytes 4 img.fw ++ leBytes 1 img.grade ++ leBytes 1 img.dies.length ++ leBytes 2 img.mxes ++
    lineup ++ img.digest ++ leBytes 8 size ++ ((List.range 64).map fun i => Config.imageByte n (0x68 + i)) ++
    ((List.range 4).flatMap fun k => ((List.range 4).map fun i => Config.imageByte n (0xA8 + 8 * k + i)) ++ leBytes 4 0) ++ leBytes 8 0 ++ digest

/-- The bytes of the image: the header, the body, and DIGEST over all of them with the field at zero. -/
def State.imageBytes (s : State) (img : CtxImage) (size : Nat) : List Byte :=
  let n := s.free
  let body := (List.range (size - 256)).map fun i => Config.imageByte n (256 + i)
  s.imageHeader img size n (sha48 (s.imageHeader img size n (List.replicate 48 0) ++ body)) ++ body

/-- A page leaves the tile store for HBM, or for the host, or for the other where the first is full. How much of a NARROW page moves
is a free value. -/
def State.evacuate (s : State) (p : Nat) (toHost : Bool) (page : Nat) : State :=
  let a := if toHost then 3 else 2
  let tier := if 0 < s.freeFrames p a 0 then some a else if 0 < s.freeFrames p (5 - a) 0 then some (5 - a) else none
  match tier with
  | none => s
  | some k =>
    let m : MigRec := { page := page, tier := k, die := 0, frame := s.newFrame p k 0, todo := pageBlocks page }
    let narrow := rtNarrow (s.rt page)
    let moved := Config.movedBytes s.free % 262145
    let x := s.spend.copyPass m
    (x.1.switchMig x.2.1).bump (Addr.memp p 0x60) (if narrow then moved else x.2.2)

/-- Step 3 of R411 after the image: the rings are disabled, the work leaves, and every tile-store page moves down, KEEP cleared. -/
def State.leave (s : State) (c : CtxCmd) (img : CtxImage) : State :=
  let s := s.ringsOff c.p
  let tids := img.tasks.map TaskRec.tid
  let s := { s with
    graphs := s.graphs.filter fun g => g.p != c.p
    tasks := s.tasks.filter fun t => t.p != c.p
    narrowDue := s.narrowDue.filter fun x => !tids.contains x.1
    kvWait := s.kvWait.filter fun x => !tids.contains x
    rings := s.rings.map fun (x : RingRec) => if x.p = c.p then { x with kept := [], moderating := false } else x }
  let s := ((s.migs.filter fun m => s.pageOwner m.page == some c.p).map MigRec.page).foldl State.abandonMig s
  let s := img.keep.foldl (fun (s : State) pg => (s.setRt pg (setBits (s.rt pg) 43 43 0)).bump (Addr.keep c.p 0x20) 1) s
  let s := { s with moves := s.moves.filter fun m => s.pageOwner m.page != some c.p }
  (((s.pagesOf c.p).filter fun e => rtState e.2 == 2 && rtTier e.2 == 1).map Prod.fst).foldl (fun (s : State) pg => s.evacuate c.p c.toHost pg) s

/-- Step 3 of R514: the rings are no longer taken; the entries of R400 are written, and the flush of step 4 is asked for. In the fatal
state only the flush follows (R516). -/
def State.removeStep3 (s : State) : State :=
  let s := if s.fatal then s else s.parts.foldl (fun (s : State) x => (s.forgetTasks x.p).endGraphs x.p 0x30) s
  { s.askFlush 1 with removal := 2 }

/-- SAVE_DONE (R411): an image of `size` bytes goes to its target, or is too large for it. Writes in flight, and side-table entries that
wait for a quiesced stack (R368), complete first. -/
def execSaveDone (p size : Nat) (s : State) : Host.Outcome State Fault Refusal :=
  if 8 ≤ p then .fault .noSuchUnit
  else
    match s.ctxCmds.find? fun c => c.p == p with
    | none => .next s
    | some c =>
      if s.pstate p ≠ 1 ∨ size < 256 ∨ s.stopped ∨ (s.flights.any fun f => s.tasks.any fun t => t.tid == f.tid && t.p == p) ∨
          (s.entryWait.any fun x => s.tasks.any fun t => t.tid == x.1 && t.p == p) ||
          (s.tasks.any fun t => t.p == p && t.units.any fun u => u.phase == .issued) then .next s
      else
        let s := { s with ctxCmds := s.ctxCmds.filter fun x => x.p != p }.setReg (Addr.sch p 0x18) (BitVec.ofNat 64 size)
        let room := if c.addr = 0 then 201326592 else c.len
        let s : State := if room < size then
            { s with tasks := s.tasks.map fun (t : TaskRec) => if t.p = p then t.released else t }.endCmd p 4 0
          else
            let s := (List.range 16).foldl (fun (s : State) r => s.writeKept p r (s.ring p r).kept.length) s
            let img := s.takeImage p
            let s := if c.addr = 0 then
                { s with ctxSlots := { p := p, slot := c.slot, img := img } :: s.ctxSlots.filter fun x => !(x.p == p && x.slot == c.slot) }
              else
                let bs := s.imageBytes img size
                { s.hostWrite c.addr bs with hostImages := { bytes := bs, img := img } :: s.hostImages }.spend
            (s.leave c img).endCmd p 0 2
        .next (if s.removal = 1 ∧ s.ctxCmds.isEmpty then s.removeStep3 else s)

/-! RESTORE (R412, R413). -/

/-- PART_RESTORE (R412). -/
def execPartRestore (fn p : Nat) (value : W32) (host : List HostStore) (s : State) : Host.Outcome State Fault Refusal :=
  if 8 < fn ∨ 8 ≤ p then .fault .noSuchUnit
  else .next ((s.hostStores host).ctrlWrite fn p 2 value (fun st => st == 2) fun s =>
    { s.setFld (Addr.sch p 4) 2 0 3 with ctxCmds := s.ctxCmds ++ [s.ctxTarget p] })

/-- The image of a target, or the RESULT that refuses it (R412). -/
def State.findImage (s : State) (c : CtxCmd) : Option CtxImage × Nat :=
  let r : Option CtxImage × Nat :=
    if c.addr = 0 then
      match s.ctxSlots.find? fun x => x.p == c.p && x.slot == c.slot with
      | some x => (some x.img, 0)
      | none => (none, 6)
    else
      let size := s.hostNat (c.addr + 0x60) 8
      if size < 256 ∨ c.len < size then (none, 1)
      else
        let bs := Sparse.getList 0 s.maps.host c.addr size
        if sha48 (bs.take 0xD0 ++ List.replicate 48 0 ++ bs.drop 256) ≠ (bs.drop 0xD0).take 48 then (none, 1)
        else
          let img := match s.hostImages.find? fun x => x.bytes == bs with
            | some x => x.img
            | none => decodeImage bs
          (some { img with fw := bytesNat bs 8 4, grade := bytesNat bs 0xC 1, mxes := bytesNat bs 0xE 2, digest := (bs.drop 0x30).take 48
                           dies := img.dies.take (bytesNat bs 0xD 1) }, 0)
  match r with
  | (some img, _) =>
    if img.fw ≠ (s.reg 0x900088).toNat then (none, 2)
    else if img.dies.length ≠ (s.dies c.p).length then (none, 3)
    else (some img, 0)
  | r => r

/-- The die of the present partition that stands for a die of the saved one: dies correspond in increasing order. -/
def dieFor (old new : List Nat) (d : Nat) : Nat := new.getD (old.findIdx fun x => x == d) d

/-- A saved task under new numbers, on the present dies. Every bank it holds is bank A (R206); a table load whose bank was written
writes its bank again before it swaps (R201). -/
def moveTask (p gbase tbase : Nat) (old new : List Nat) (x : Bool) (t : TaskRec) : TaskRec :=
  { t with
    tid := t.tid + tbase, gid := t.gid + gbase, p := p
    flags := if x then orFlag t.flags 2 else t.flags
    slices := t.slices.map fun (y : SliceRec) => { y with die := dieFor old new y.die }
    mark := if t.isKind 3 3 then min t.mark 1 else t.mark
    vfails := t.vfails.map fun (y : VecFail) => { y with bank := 0, die := dieFor old new y.die }
    halts := t.halts.map fun y => (dieFor old new y.1, y.2)
    units := t.units.map fun (u : UnitRec) => { u with
      die := dieFor old new u.die, heldAt := dieFor old new u.heldAt, bank := u.bank.map fun _ => 0 } }

/-- The restored partition's tables on one of its dies (R53, R206). -/
def State.restoreDie (s : State) (img : CtxImage) (d : Nat) : State :=
  let a := d * 2 * 0x20000
  let s := { s with maps := { s.maps with
    cbk := Sparse.setAll 0 (Sparse.erase (fun k => d * 224 ≤ k && k < d * 224 + 224) s.maps.cbk) (img.books.map fun (e : Nat × BitVec 32) => (d * 224 + e.1, e.2))
    ft := Sparse.setAll 0 (Sparse.erase (fun k => a ≤ k && k < a + 0x20000) s.maps.ft) (img.tables.map fun (e : Nat × BitVec 33) => (a + e.1, e.2)) } }
  (((s.setFtStatus d 0 0 0).setFtStatus d 1 1 0).setFtStatus d 63 32 img.epoch).setFld (Addr.ft d 8) 31 0 img.epoch

/-- Restoring every section, then starting the migrations of section 7 (R277, R412, R413, R446). -/
def State.restore (s : State) (p : Nat) (img : CtxImage) : State :=
  let ds := (List.range 8).filter fun d => (s.dies p).contains d
  let x := img.grade != s.grade || img.mxes != s.activeOn ds
  let gb := s.nextGid
  let tb := s.nextTid
  let s := img.rings.foldl (fun (s : State) q =>
    (((s.setRing { q.1 with p := p }).setReg (Addr.sqBase p q.1.r) q.2.1).setReg (Addr.cqBase p q.1.r) q.2.2.1).setReg
      (Addr.ringCfg p q.1.r) q.2.2.2) s
  let s := img.offRings.foldl (fun (s : State) y => s.setRing { y with p := p }) s
  let s := { s with
    graphs := s.graphs ++ img.graphs.map fun (g : GraphRec) =>
      { g with gid := g.gid + gb, p := p, recompute := g.recompute.map (fun t => t + tb), xgrade := g.xgrade || x }
    readNo := max s.readNo (1 + (img.graphs.map GraphRec.readNo).foldl max 0)
    tasks := s.tasks ++ img.tasks.map (moveTask p gb tb img.dies ds x)
    narrowDue := s.narrowDue ++ img.narrowDue.map fun y => (y.1 + tb, y.2)
    nextGid := gb + 1 + (img.graphs.map GraphRec.gid).foldl max 0
    nextTid := tb + 1 + (img.tasks.map TaskRec.tid).foldl max 0
    reuseSlots := s.reuseSlots.filter (fun y => y.p != p) ++ img.slots.map fun (y : SlotRec) => { y with p := p }
    maps := { s.maps with
      seeds := Sparse.setList 0 s.maps.seeds (p * 16) img.seeds
      reuse := Sparse.setAll 0 (Sparse.erase (fun k => k / pow2 15 == p) s.maps.reuse) (img.reuse.map fun e => (p * pow2 15 + e.1, e.2)) } }
  let s := (ds.foldl (fun (s : State) d => s.restoreDie img d) s).setFld (Addr.rng p 8) 15 0 img.seeded
  let s := if x then (s.setFld (Addr.sch p 4) 3 3 1).bump (Addr.sch p 0x110) 1 else s.setFld (Addr.sch p 4) 3 3 0
  let s := if img.digest = s.formDigest then s.setFld 0x900000 4 4 0
    else (s.setFld 0x900000 4 4 1).event 0x43 (unitOf 4 0 0xFF) p 0 0
  let own := fun pg => rtState (s.rt pg) != 0 && s.pageOwner pg == some p
  let s := (img.keep.filter own).foldl (fun (s : State) pg => s.setRt pg (setBits (s.rt pg) 43 43 1)) s
  (img.tsPages.filter fun y => own y.1).foldl (fun (s : State) y =>
    s.callMove { page := y.1, tier := 1, die := ds.getD y.2 (ds.headD 0), keep := rtKeep (s.rt y.1) }) s

/-- RESTORE_DONE (R412, R413). -/
def execRestoreDone (p : Nat) (s : State) : Host.Outcome State Fault Refusal :=
  if 8 ≤ p then .fault .noSuchUnit
  else
    match s.ctxCmds.find? fun c => c.p == p with
    | none => .next s
    | some c =>
      if s.pstate p ≠ 3 ∨ s.stopped then .next s
      else
        let s := { s with ctxCmds := s.ctxCmds.filter fun x => x.p != p }
        match s.findImage c with
        | (some img, _) => .next ((s.restore p img).endCmd p 0 0)
        | (none, r) => .next (s.endCmd p r 2)

/-- PART_START (R407): RUNNING with no ring enabled. -/
def execPartStart (fn p : Nat) (value : W32) (s : State) : Host.Outcome State Fault Refusal :=
  if 8 < fn ∨ 8 ≤ p then .fault .noSuchUnit
  else .next (s.ctrlWrite fn p 3 value (fun st => st == 2) fun s => (s.ringsOff p).endCmd p 0 0)

/-! RESET (R341, R408). -/

/-- The counters that a reset of the partition clears: those of its blocks (R185, R213, R246, R248, R267, R287, R307, R344, R416, R441,
R466, R501, R533) and of the windows of its dies. -/
def State.partCounters (s : State) (p : Nat) : List Nat :=
  run64 (Addr.sch p 0x40) 16 ++ run64 (Addr.sch p 0xC0) 11 ++ run64 (Addr.reuse p 8) 6 ++ run64 (Addr.memp p 0x40) 13 ++
    run64 (Addr.kv p 8) 6 ++ run64 (Addr.keep p 0x10) 3 ++ run64 (Addr.med p 0) 9 ++ run64 (Addr.coll p 0) 5 ++
    run64 (Addr.rng p 0x10) 3 ++ run64 (Addr.ras p 0) 9 ++ run64 (Addr.syn p 0x10) 3 ++
    (s.dies p).flatMap fun d =>
      ((List.range 17).flatMap fun k => run64 (Addr.mxe d k 0x18) 9) ++ ((List.range 16).flatMap fun k => run64 (Addr.vxe d k 0x10) 4) ++
        ((List.range 8).flatMap fun r => run64 (Addr.atp d r 0x10) 8) ++ run64 (Addr.conv d 8) 6 ++ run64 (Addr.seq d 8) 7 ++
        run64 (Addr.chain d 8) 5 ++ run64 (Addr.ft d 0x10) 8 ++ run64 (Addr.train d 8) 3

/-- A reset of a partition begins (R408): its work ends with ST_PARTITION_RESET, its pages are unmapped, its codebooks, tables, seeds and
reuse slots are those of the formation, and its counters read 0, but for the KEEPs that the reset itself clears (R287, log 131). -/
def State.resetPart (s : State) (p : Nat) : State :=
  let s := (List.range 16).foldl (fun (s : State) r => s.dropKept p r 0x31) (s.forgetTasks p)
  let s := s.endGraphs p 0x31
  let s := { s with
    ctxCmds := s.ctxCmds.filter fun c => c.p != p
    sessions := s.sessions.filter fun x => x.p != p
    kvStuck := s.kvStuck.filter fun x => x.1 != p
    kvFreed := s.kvFreed.filter fun x => x != p }
  let s := s.clearCtrs (s.partCounters p)
  let s := ((s.pagesOf p).map Prod.fst).foldl State.dropPage s
  let s := { s with kvRecs := s.kvRecs.filter fun x => s.pageOwner (x.entry / 262144) != some p }
  let b := s.formation
  let s := (s.dies p).foldl (fun (s : State) d => (s.loadBooks b d).loadFuncs b d) s
  let s := (s.loadSeeds p).clearReuse p
  s.setFld (Addr.sch p 4) 2 0 4

/-- PART_RESET (R407, R408). -/
def execPartReset (fn p : Nat) (value : W32) (s : State) : Host.Outcome State Fault Refusal :=
  if 8 < fn ∨ 8 ≤ p then .fault .noSuchUnit
  else .next (s.ctrlWrite fn p 4 value (fun st => st != 4) fun s => s.resetPart p)

/-- RESET_DONE (R408): the scrub of the partition's frames has ended, and no pseudo-channel is quiesced (R368). -/
def execResetDone (p : Nat) (s : State) : Host.Outcome State Fault Refusal :=
  if 8 ≤ p then .fault .noSuchUnit
  else if s.pstate p ≠ 4 ∨ s.stopped ∨ s.quiescing then .next s
  else
    let mine := s.frames.filter fun f => f.p == p
    let s := mine.foldl State.returnFrame { s with frames := s.frames.filter fun f => f.p != p }
    .next (s.endCmd p 0 0)

end Sys2Proof.Machine
end

