-- ==== Sys2Proof/Machine/HostIf.lean ====
section
/-! DEFINITION. The host interface and the sideband (R504, R505, R510, R511, R514, R529, R530, R587). -/
namespace Sys2Proof.Machine
open Sys2Proof

/-! Removal (R514, R516). -/

/-- Step 2 of R514 and what follows at once: step 3 waits for a SAVE in progress. A formation load is abandoned, and in the fatal state
only the flush follows (R516). -/
def State.prepareRemove (s : State) : State :=
  let s := (s.setFld 0x8 19 19 1).setFld 0x10 0 0 1
  let s := if s.loading.isSome then
      { s.setFld 0x800008 9 8 3 with loading := none, sec := s.sec.map fun (c : SecCmd) => { c with result := 9 } }
    else s
  if (s.ctxCmds.any fun c => s.pstate c.p == 1) && !s.fatal then { s with removal := 1 } else s.removeStep3

/-- PREPARE_REMOVE (R514, R516): through PF0, and once. -/
def execPrepareRemove (fn : Nat) (s : State) : Host.Outcome State Fault Refusal :=
  if 8 < fn then .fault .noSuchUnit
  else if fn ≠ 0 ∨ !s.answers 0x10 ∨ s.dying ∨ s.rd 0x8 19 19 = 1 then .next s
  else .next s.prepareRemove

/-- D3HOT_ENTRY (R510): a VF stays in D0; PF0 prepares its removal. -/
def execD3hotEntry (fn : Nat) (s : State) : Host.Outcome State Fault Refusal :=
  if 8 < fn then .fault .noSuchUnit
  else if fn ≠ 0 ∨ s.boot ≠ .firmware ∨ s.dying ∨ s.rd 0x8 19 19 = 1 then .next s
  else .next s.prepareRemove

/-! Functions (R504, R505, R510). -/

/-- FLR_VF (R510): a reset of partition n − 1 by R408. -/
def execFlrVf (n : Nat) (s : State) : Host.Outcome State Fault Refusal :=
  if n = 0 ∨ 8 < n then .fault .noSuchUnit
  else if s.numVfs < n ∨ s.stopped ∨ (s.part (n - 1)).isNone ∨ s.pstate (n - 1) = 4 then .next s
  else .next (s.resetPart (n - 1))

/-- The PCIe function of a partition with `n` virtual functions (R504). -/
def fnWith (n p : Nat) : Option Nat := if n = 0 then (if p = 0 then some 0 else none) else if p < n then some (p + 1) else none

/-- Steps 1 to 3 of R505 for one partition. The entries are written, and the vectors raised, where the old function still exists and is
a bus master. The spec gives the record no code: one of firmware's own (R578). -/
def State.movePart (s : State) (n : Nat) (master : Bool) (p : Nat) : State :=
  let old := (s.fnOfPart p).getD 0
  let up := master && (old == 0 || old ≤ n)
  let s := s.forgetTasks p
  let s := if up then
      (List.range 16).foldl (fun (s : State) r => if s.enabled p r then s.tell (.msix old r) else s) (s.endGraphs p 0x31)
    else (List.range 16).foldl (fun (s : State) r => s.forgetRing p r) s
  let s := if s.pstate p = 4 then s else s.resetPart p
  (s.ringsOff p).event (0x8000 + Config.moveCode % 0x8000) (unitOf 4 0 0x20) p old n

/-- VF_CONFIG_CHANGE (R505): each partition that moves between functions, or that loses its function, is reset. -/
def execVfConfigChange (n : Nat) (master : Bool) (s : State) : Host.Outcome State Fault Refusal :=
  if 8 < n then .fault .noSuchUnit
  else if s.boot = .off ∨ s.stopped ∨ n = s.numVfs then .next s
  else
    let moved := (s.parts.map PartRec.p).filter fun p => (s.fnOfPart p).isSome && s.fnOfPart p != fnWith n p
    let s := { moved.foldl (fun (s : State) p => s.movePart n master p) s with numVfs := n }
    .next ((List.range 9).foldl State.winReset s)

/-- HOST_COMPLETION_FAULT (R332, R333, R511): a block of the host tier is met as an uncorrectable error; a ring read is tried again at the
next tick. -/
def execHostCompletionFault (fault : HostFault) (s : State) : Host.Outcome State Fault Refusal :=
  if (fault.ring.any fun x => 8 ≤ x.1 || 16 ≤ x.2) ∨ (fault.blk.any fun b => 0x10000000 ≤ b) then .fault .noSuchUnit
  else
    let s := s.bump (if fault.poisoned then 0x110 else 0x118) 1
    let s := match fault.blk with
      | some b => if rtTier (s.rt (b / 64)) = 3 then s.uncorrectable b else s
      | none => s
    match fault.ring with
    | some x => .next ({ s with reading := s.reading.filter fun y => !(y.1 == x.1 && y.2.1 == x.2) }.bump (Addr.sch x.1 0xE0) 1)
    | none => .next s

/-! The sideband (R529, R530, R587). -/

/-- The management service answers: it runs with the boot ROM's successor, firmware, while the supply is on. -/
def State.managed (s : State) : Bool := s.boot == .firmware

/-- SMBUS_FALLBACK (R529). -/
def execSmbusFallback (s : State) : Host.Outcome State Fault Refusal := if s.managed then .next { s with smbus := true } else .next s

/-- The reading of a sensor (R530): the supply's voltage, current and power, the temperatures of the 20 logic dies and of the 8 stacks,
THERM_N, FATAL, FORMATION_READY and the life-cycle state, in an order of the model's own. -/
def State.sensor (s : State) (n : Nat) : Nat :=
  if n = 0 then s.rd 0xA00000 63 48
  else if n = 1 then s.rd 0xA00000 47 32
  else if n = 2 then s.rd 0xA00000 31 16
  else if n < 23 then s.rd (0xA00100 + 8 * (n - 3)) 7 0
  else if n < 31 then s.rd (0x300100 + 8 * (n - 23)) 7 0
  else if n = 31 then s.rd 0xA00000 2 2
  else if n = 32 then s.rd 0x700008 0 0
  else if n = 33 then s.rd 0x8 18 18
  else s.fuses.state

/-- PLDM_GET_SENSOR (R530). -/
def execPldmGetSensor (n : Nat) (s : State) : Host.Outcome State Fault Refusal :=
  if 34 < n then .fault .noSuchUnit else if s.managed then .next (s.tell (.mgmt [s.sensor n])) else .next s

/-- PLDM_SET_POWER_CAP (R587): clamped to 400 to 1,650 W. -/
def execPldmSetPowerCap (w : Nat) (s : State) : Host.Outcome State Fault Refusal :=
  if s.managed then .next (s.setFld 0xA00008 26 16 (max 400 (min 1650 w))) else .next s

/-- PLDM_GET_FRU (R530): the ordering number, the serial number and HIF_IDENT. -/
def execPldmGetFru (s : State) : Host.Outcome State Fault Refusal :=
  if s.managed then .next (s.tell (.mgmt (Config.fruWords ++ [s.identWord.toNat]))) else .next s

end Sys2Proof.Machine
end

