-- ==== Sys2Proof/Machine/Diag.lean ====
section
/-! DEFINITION. Test hold, the traffic generators, self-tests and requalification (R568 to R576, R591, R592). -/
namespace Sys2Proof.Machine
open Sys2Proof

/-! Test hold (R568, R569). -/

/-- RAS_DIAG_STATUS.HOLD and BUSY. -/
def State.held (s : State) : Bool := s.rd 0x709108 0 0 = 1
def State.testing (s : State) : Bool := s.rd 0x709108 1 1 = 1

/-- The RW fields of a register after a write that also carries a trigger (R11). -/
def State.writeRw (s : State) (off : Nat) (v : W64) : State :=
  match regAt off with
  | some d => s.setReg off (writeMasks d (s.reg off) v)
  | none => s

/-- A ring is enabled, or a command of SCH_PART_CTRL runs. -/
def State.inUse (s : State) : Bool :=
  !s.ctxCmds.isEmpty || (List.range 8).any fun p => s.pstate p == 4 || (List.range 16).any fun r => s.enabled p r

/-- DIAG_HOLD (R568): through PF0. FORMATION_READY clears and the scrub begins; while it runs, and in test hold, HOLD is already asked
for. -/
def execDiagHold (fn : Nat) (value : W32) (s : State) : Host.Outcome State Fault Refusal :=
  if 8 < fn then .fault .noSuchUnit
  else if !s.reaches fn 0x709100 || !bit value.toNat 0 then .next s
  else
    let s := s.writeRw 0x709100 (value.setWidth 64)
    if s.held || s.holding || s.stopped then .next s
    else if s.inUse then .next (s.setFld 0x709108 7 4 1)
    else .next { (s.endWork.setFld 0x8 18 18 0).setFld 0x709108 7 4 0 with parts := [], holding := true }

/-- TEST_HOLD_SCRUB_DONE (R568): every HBM frame, tile store bank and reserve slot has been scrubbed, and HOLD reads 1. -/
def execTestHoldScrubDone (s : State) : Host.Outcome State Fault Refusal :=
  if s.holding ∧ !s.stopped then .next ({ s.scrubAll with holding := false }.setFld 0x709108 0 0 1) else .next s

/-! HBM traffic generators (R570 to R574). -/

/-- One output of the warm-up generator (R303). -/
def warmNext (x : W64) : W64 :=
  let x := x ^^^ (x <<< 13)
  let x := x ^^^ (x >>> 7)
  x ^^^ (x <<< 17)

/-- A draw of a control core (R303), counted in RNG_WARMUP_DRAWS. -/
def State.warmDraw (s : State) (core : Nat) : State × W64 :=
  let x := warmNext (s.warm.getD core 0)
  ({ s with warm := s.warm.set core x }.setReg 0x600808 (s.reg 0x600808 + 1), x)

/-- The seed with which a generator starts (R573). -/
def State.tgSeed (s : State) (ch core : Nat) : State × W64 :=
  let seed := s.reg (Addr.tg ch 0x10)
  if s.rd (Addr.tg ch 0) 10 8 = 3 ∧ seed = 0 then s.warmDraw core else (s, seed)

/-- HBM_TG_START (R570, R572, R573): ignored outside test hold, while BUSY, and where FIRST is above LAST. -/
def execHbmTgStart (fn ch : Nat) (value : W64) (core : Nat) (s : State) : Host.Outcome State Fault Refusal :=
  if 8 < fn ∨ 256 ≤ ch ∨ 8 ≤ core then .fault .noSuchUnit
  else if !s.reaches fn (Addr.tg ch 0) || getBits value 0 0 == 0 then .next s
  else
    let s := s.writeRw (Addr.tg ch 0) value
    if !s.held || s.stopped || s.rd (Addr.tg ch 0x18) 0 0 == 1 || decide (s.rd (Addr.tg ch 8) 54 32 < s.rd (Addr.tg ch 8) 22 0) then .next s
    else
      let r := s.tgSeed ch core
      let s := ((r.1).setReg (Addr.tg ch 0x18) 1).setReg (Addr.tg ch 0x20) 0
      .next { s with tgSeeds := (ch, r.2) :: s.tgSeeds.filter fun x => x.1 != ch }

/-- HBM_TG_STOP (R572): the run ends at the next line. -/
def execHbmTgStop (fn ch : Nat) (value : W64) (s : State) : Host.Outcome State Fault Refusal :=
  if 8 < fn ∨ 256 ≤ ch then .fault .noSuchUnit
  else if !s.reaches fn (Addr.tg ch 0) || getBits value 1 1 == 0 then .next s
  else
    let s := s.writeRw (Addr.tg ch 0) value
    if s.rd (Addr.tg ch 0x18) 0 0 = 1 ∧ !s.tgStops.contains ch then .next { s with tgStops := ch :: s.tgStops } else .next s

/-- HBM_TG_RUN_DONE (R574): a run of LOOPS = 0 ends by STOP alone. A trip pauses the generators until the next tick (R592). -/
def execHbmTgRunDone (ch : Nat) (res : TgResult) (s : State) : Host.Outcome State Fault Refusal :=
  if 256 ≤ ch then .fault .noSuchUnit
  else if s.rd (Addr.tg ch 0x18) 0 0 = 0 ∨ s.stopped ∨ s.tripped ∨ (s.rd (Addr.tg ch 0) 31 24 = 0 ∧ !s.tgStops.contains ch) then .next s
  else
    let s := ((s.bump (Addr.tg ch 0x28) res.sectors).bump (Addr.tg ch 0x30) res.mismatch).bump (Addr.tg ch 0x38) res.corr
    let s := s.setReg (Addr.tg ch 0x18) (BitVec.ofNat 64 (2 + (if res.mismatch = 0 then 0 else 4) + res.loops % 256 * pow2 32))
    let s := match res.first with
      | some w => s.setReg (Addr.tg ch 0x20) (w &&& 0x3FFFFFFFFC0#64)
      | none => s
    .next { s with tgStops := s.tgStops.filter fun x => x != ch }

/-! Self-tests (R575, R576, R592). -/

/-- DIAG_RUN (R575, R591): through PF0; ignored outside test hold and while BUSY. -/
def execDiagRun (fn : Nat) (value : W32) (s : State) : Host.Outcome State Fault Refusal :=
  if 8 < fn then .fault .noSuchUnit
  else if !s.reaches fn 0x709100 || !bit value.toNat 1 then .next s
  else
    let s := s.writeRw 0x709100 (value.setWidth 64)
    if !s.held || s.testing || s.stopped then .next s
    else
      let s := ((s.setFld 0x709108 47 16 0).setFld 0x709108 7 4 0).setFld 0x709108 1 1 1
      .next { s with diag := some (fld value.toNat 15 8, bit value.toNat 2) }

/-- What stops a run (R592): THERM_N, PREPARE_REMOVE, the fatal state. -/
def State.diagStop (s : State) : Bool := s.rd 0xA00000 2 2 == 1 || s.rd 0x8 19 19 == 1 || s.fatal

/-- DIAG_ABORT (R592). -/
def execDiagAbort (s : State) : Host.Outcome State Fault Refusal :=
  if s.testing ∧ s.diagStop then .next { (s.setFld 0x709108 1 1 0).setFld 0x709108 7 4 2 with diag := none } else .next s

/-- The entry of the disabled-unit map that stands for a unit number (R552, R600): MXEs, VXEs, codec cores, pseudo-channels, and the
tile store frame that a bank's failing address lies in. -/
def diagEntry (f : DiagFail) : Option (Nat × Nat × Nat) :=
  let cls := f.unitId / 4096
  let die := f.unitId / 256 % 16
  let u := f.unitId % 256
  if cls = 0 then
    if u < 17 then some (0, die, u)
    else if 0x20 ≤ u ∧ u < 0x30 then some (1, die, u - 0x20)
    else if 0x50 ≤ u ∧ u < 0x70 then some (4, die, f.place / 262144 % 1024)
    else none
  else if cls = 3 ∧ u < 16 then some (2, 0, u)
  else if cls = 1 ∧ u < 64 then some (5, 0, 8 * u + die % 8)
  else none

/-- The tests that cover an entry of the map (R575). -/
def coverOf (what : Nat) : List Nat :=
  if what = 0 then [1, 3] else if what = 1 then [2, 4] else if what = 2 then [5] else if what = 4 then [0] else [7]

/-- The entry passes every test that covers it: they all ran, and none found it. A frame of HBM lies in every pseudo-channel. -/
def entryPasses (tests : Nat) (fails : List DiagFail) (e : DisEntry) : Bool :=
  (coverOf e.what).all fun k => bit tests k && !(fails.any fun f => f.test == k &&
    (if e.what = 3 then f.unitId / 4096 == 1 else (diagEntry f) == some (e.what, e.die, e.idx)))

/-- The UNIT number of an entry (R600): of the residency table for a frame of HBM, of its die for one of the tile store. -/
def DisEntry.unitNo (e : DisEntry) : Nat :=
  if e.what = 0 then unitOf 0 e.die e.idx
  else if e.what = 1 then unitOf 0 e.die (0x20 + e.idx)
  else if e.what = 2 then unitOf 3 0 e.idx
  else if e.what = 3 then unitOf 4 0 0x21
  else if e.what = 4 then unitOf 0 e.die 0xFF
  else unitOf 1 (e.idx % 8) (e.idx / 8)

/-- What REQUAL_RETURN names in ARG0: the unit, or the frame. -/
def DisEntry.argNo (e : DisEntry) : Nat := if e.what = 3 ∨ e.what = 4 then e.idx else e.unitNo

/-- Requalification (R576): failing units are added, entries of earlier boots that pass are removed. -/
def State.requalify (s : State) (tests : Nat) (fails : List DiagFail) : State :=
  let back := s.disMap.filter fun e => e.boot < s.sb.boot && entryPasses tests fails e
  let s := back.foldl (fun (s : State) e =>
    (s.event 0x61 e.unitNo 0xFF e.argNo 0).setFld 0x709108 47 32 (s.rd 0x709108 47 32 + 1)) s
  let s := { s with disMap := s.disMap.filter fun e => !back.contains e }
  let s := (fails.filterMap diagEntry).foldl (fun (s : State) x => s.mapAdd x.1 x.2.1 x.2.2) s
  s.setFld 0x200018 47 24 0

/-- DIAG_RUN_COMPLETE (R575, R576): the failures found by the tests that ran, on units that are not fused off. A trip
pauses the run until the next tick (R592). -/
def execDiagRunComplete (fails : List DiagFail) (s : State) : Host.Outcome State Fault Refusal :=
  match s.diag with
  | none => .next s
  | some (tests, requal) =>
    if s.stopped || s.tripped || s.diagStop then .next s
    else
      let fs := fails.filter fun f => f.test < 8 && bit tests f.test && !((diagEntry f).any fun x => s.fused x.1 x.2.1 x.2.2)
      let s := fs.foldl (fun (s : State) f =>
        (s.event 0x60 f.unitId 0xFF f.test f.place).setFld 0x709108 31 16 (s.rd 0x709108 31 16 + 1)) s
      let s := if requal then s.requalify tests fs else s
      .next { s.setFld 0x709108 1 1 0 with diag := none }

end Sys2Proof.Machine
end

