-- ==== Sys2Proof/Machine/Power.lean ====
section
/-! DEFINITION. Temperature and power limits (R586 to R588, R590). -/
namespace Sys2Proof.Machine
open Sys2Proof

/-- The record's UNIT for die `n` of PWR_DIE_TEMP, or stack `n` − 20 (R600): a stack under its base die. -/
def thermUnit (n : Nat) : Nat :=
  if n < 8 then unitOf 0 n 0xFF
  else if n < 16 then unitOf 1 (n - 8) 0xFF
  else if n < 18 then unitOf 2 (n - 16) 0xFF
  else if n = 18 then unitOf 3 0 0xFF
  else if n = 19 then unitOf 4 0 0xFF
  else unitOf 1 (n - 20) 0xFF

/-- A new reading of a die's or a stack's temperature: live, and the highest since reset (R375, R589). -/
def State.setTemp (s : State) (n temp : Nat) : State :=
  if n < 20 then
    let a := 0xA00100 + 8 * n
    (s.setFld a 7 0 temp).setFld a 15 8 (max (s.rd a 15 8) (temp % 256))
  else s.setFld (0x300100 + 8 * (n - 20)) 7 0 temp

/-- CRIT_C or CRIT_HBM_C, and WARN_C or WARN_HBM_C (R590). -/
def State.critOf (s : State) (n : Nat) : Nat := if n < 20 then s.rd 0xA00010 23 16 else s.rd 0xA00010 31 24
def State.warnOf (s : State) (n : Nat) : Nat := if n < 20 then s.rd 0xA00010 7 0 else s.rd 0xA00010 15 8

/-- THERMAL_CRITICAL (R586): THERM_N is asserted, the thermal cap is 400 W at once, and a record is written. -/
def execThermalCritical (n temp : Nat) (s : State) : Host.Outcome State Fault Refusal :=
  if 28 ≤ n then .fault .noSuchUnit
  else if s.boot ≠ .firmware ∨ temp < s.critOf n then .next s
  else
    let s := ((s.setTemp n temp).setFld 0xA00000 2 2 1).setFld 0xA0000C 26 16 400
    .next ((s.event 0x51 (thermUnit n) 0xFF n temp).tell (.pin "THERM_N" false))

/-- The readings of the twenty dies and the eight stacks, in order. -/
def State.setTemps (s : State) (dies hbms : List Nat) : State :=
  (List.range 28).foldl (fun (s : State) n => s.setTemp n ((dies.take 20 ++ hbms).getD n 0)) s

/-- THERM_N_DEASSERT (R586): every reading lies at least 10 °C below its critical value. -/
def execThermNDeassert (dieTemps stackTemps : List Nat) (s : State) : Host.Outcome State Fault Refusal :=
  let ts := dieTemps ++ stackTemps
  if dieTemps.length ≠ 20 ∨ stackTemps.length ≠ 8 then .fault .noSuchUnit
  else if s.rd 0xA00000 2 2 = 0 ∨ !((List.range 28).all fun n => ts.getD n 0 + 10 ≤ s.critOf n) then .next s
  else .next (((s.setTemps dieTemps stackTemps).setFld 0xA00000 2 2 0).tell (.pin "THERM_N" true))

/-- GRANT_EXHAUSTED (R587): with a grant below 64, the dies stop issuing outside real-time windows until the next tick. -/
def execGrantExhausted (s : State) : Host.Outcome State Fault Refusal :=
  if s.rd 0xA00000 15 8 = 64 ∨ s.boot ≠ .firmware then .next s else .next { s with powerHold := true }

/-- POWER_TRIP (R588): the supply power over 20 µs exceeds 1.1 times the effective cap. -/
def execPowerTrip (w : Nat) (s : State) : Host.Outcome State Fault Refusal :=
  let c := s.rd 0xA0000C 10 0
  if s.boot ≠ .firmware ∨ 10 * w ≤ 11 * c then .next s
  else
    let s := (if s.tripped then s else s.bump 0xA00030 1).event 0x52 (unitOf 4 0 0xFF) 0xFF c w
    .next { s.setFld 0xA00000 3 3 1 with tripped := true }

end Sys2Proof.Machine
end

