-- ==== Sys2Proof/Machine/Stall.lean ====
section
/-! DEFINITION. What ready work waits for (R16, R24, R139, R331, R363, R367): the stall causes that hold on a die, read from the state. -/
namespace Sys2Proof.Machine
open Sys2Proof

/-! Causes of blocks and pages. -/

/-- The pseudo-channels that hold a block while its page lies in HBM and that are quiesced, by their states: 6 for a training, 7 for a
repair (R363, R367). They stand in place of STALL_HBM_LATE (DEDUCED, log 134). -/
def State.quietCauses (s : State) (blk : Nat) : List Nat :=
  (s.blockPlaces blk).filterMap fun x => if s.pcState x.1 = 1 then some 6 else if s.pcState x.1 = 2 then some 7 else none

/-- The causes under which a unit waits for a block (R24, R139, R331). -/
def State.blockCauses (s : State) (blk : Nat) : List Nat :=
  let e := s.rt (blk / 64)
  if rtState e ≤ 1 then [1]
  else if !s.readable (blk / 64) then [4]
  else if rtTier e = 1 then [1]
  else if rtTier e = 3 then [3]
  else if (s.quietCauses blk).isEmpty then [2] else s.quietCauses blk

/-- The causes of blocks whose pages the tile DMA cannot read where they lie. -/
def State.lateCauses (s : State) (blks : List Nat) : List Nat := (blks.filter fun b => !s.readable (b / 64)).flatMap s.blockCauses

/-- A cause that holds where a condition fails. -/
def causeUnless (ok : Bool) (n : Nat) : List Nat := if ok then [] else [n]

/-! Causes of units. -/

/-- A running tile of a product waits for the bytes of its next chunk, when that is its engine's next one, or for space for a spill that
its engine needs (R135, R139). -/
def State.openTileCauses (s : State) (t : TaskRec) (u : UnitRec) : List Nat :=
  (if t.chunkTurn u && !u.spilled then ((s.chunkNeeds t u).filter fun b => !u.arrived.contains b).flatMap s.blockCauses else []) ++
    causeUnless (u.spilled || !s.slotNeeded t u || s.spillRoom t u) 1

/-- A tile whose chunks are summed waits for bytes that its store needs, for its parts (R131), or for space (R131, R174). -/
def State.summedTileCauses (s : State) (t : TaskRec) (u : UnitRec) : List Nat :=
  ((s.needed t u).filter fun b => !u.arrived.contains b).flatMap s.blockCauses ++
    (if u.part ≠ 0 then causeUnless (s.partRoom t u) 1
     else causeUnless (s.stageRoom t u) 1 ++ causeUnless ((t.parts u).all fun v => v.phase == .drained) 0)

/-- An attention unit at work waits for the bytes of its next key block, or at its end for the last ones and for frames of its output
(R322). -/
def State.openAttnCauses (s : State) (t : TaskRec) (u : UnitRec) : List Nat :=
  if u.phase = .issued then ((s.keyNeeds t u).filter fun b => !u.arrived.contains b).flatMap s.blockCauses
  else (s.atAwaited t u).flatMap s.blockCauses ++ causeUnless (s.canWriteAll u.die (s.atPages t u)) 4

/-- A unit that is not at work waits after a foul or a failed check, for pages (R24), or for the space of its gathered rows (R233). -/
def State.idleUnitCauses (s : State) (t : TaskRec) (u : UnitRec) : List Nat :=
  let x := s.atArmed t u u.die
  (if u.phase = .abandoned then [9] else if u.why = 0 then [] else [u.why]) ++
    (if t.f 0 1 = 0 then s.lateCauses (s.issueNeeds t u)
     else s.lateCauses (s.atAwaited t x) ++
       causeUnless (s.hasRoom t.p u.die (s.stagingBytes t u - (if u.heldAt == u.die then u.held else 0))) 1)

/-- The causes under which a unit of a running product or attention task waits. -/
def State.unitCauses (s : State) (t : TaskRec) (u : UnitRec) : List Nat :=
  match u.phase with
  | .issued => if t.f 0 1 = 0 then s.openTileCauses t u else s.openAttnCauses t u
  | .summed => if t.f 0 1 = 0 then s.summedTileCauses t u else s.openAttnCauses t u
  | .staged => causeUnless ((t.rowTiles u.b u.rb).all fun v => v.phase == .staged || v.phase == .stored) 0
  | .todo | .halted | .failed | .escalate | .abandoned => if (t.sliceOn u.die).isSome then s.idleUnitCauses t u else []
  | .drained | .stored | .skipped | .done => []

/-! Causes of tasks. -/

/-- The task holds a unit on a die that is not at work. -/
def TaskRec.idleOn (t : TaskRec) (d : Nat) : Bool :=
  t.units.any fun u => u.die == d && (u.phase == .todo || u.phase == .halted || u.phase == .failed || u.phase == .escalate || u.phase == .abandoned)

/-- Work of the task on a die that has not been issued is held for its epoch (R204), or by the power limits (R587, R588). -/
def State.heldCauses (s : State) (t : TaskRec) (d : Nat) : List Nat :=
  if t.phase = .ready ∨ t.idleOn d then
    causeUnless (!s.epochAhead t d) 10 ++ causeUnless (t.slot != 0 || (!s.powerHold && !s.tripped)) 12
  else []

/-- A task that runs in one step waits for pages, for requests in a hold queue (R363, R367), for frames of its output (R322), or to run
again after a foul or a lane error. -/
def State.stepCauses (s : State) (t : TaskRec) : List Nat :=
  if t.f 0 1 ≤ 1 then []
  else
    s.lateCauses (rngBlocks (s.taskReads t)) ++
      ((s.hbmHold ++ s.hbmWait).filter fun q => q.src == .task t.tid).flatMap (fun q =>
        if s.pcState q.pc = 1 then [6] else if s.pcState q.pc = 2 then [7] else []) ++
      causeUnless (s.canWriteAll ((s.taskDies t).headD 0) (rngPages (s.taskWrites t))) 4 ++
      causeUnless t.fouls.isEmpty 8 ++ causeUnless t.vfails.isEmpty 9

/-- A task at work on something else than units: a table load waits for the inactive bank (R201), a START for its members (R457), a
collective for its peers (R520, R525), and a store for frames or for the end of a hold (R327). -/
def State.workCauses (s : State) (t : TaskRec) (d : Nat) : List Nat :=
  causeUnless (!(t.isKind 3 3 && s.inactiveBound t.p)) 10 ++ causeUnless (!t.isKind 5 0x20) 13 ++
    causeUnless (!(t.f 0 1 == 5 && decide (t.f 1 1 ≤ 2))) 11 ++
    causeUnless ((s.flights.filter fun f => f.tid == t.tid && f.die == d).all s.flightFits) 4

/-- The causes under which a task's work waits on a die; a task that waits for a page of its pool is stalled there (R236). -/
def State.taskCauses (s : State) (t : TaskRec) (d : Nat) : List Nat :=
  match t.phase with
  | .stalled => [5]
  | .ready => s.heldCauses t d ++ s.stepCauses t
  | .running => s.heldCauses t d ++ s.workCauses t d ++ (t.units.filter fun u => u.die == d).flatMap (s.unitCauses t)
  | .fresh | .waiting | .ended | .done => []

/-! Counting (R16). -/

/-- A ring read of the partition's tick is late, and the die has no work but what its entries would bring (R32; DESIGN CHOICE, log 134). -/
def State.readLate (s : State) (p d : Nat) : Bool :=
  (s.reading.any fun x => x.1 == p && x.2.2) &&
    !(s.tasks.any fun t => t.p == p && (s.taskDies t).contains d && (t.live || t.phase == .stalled))

/-- The causes that hold on a die. -/
def State.stallCauses (s : State) (p d : Nat) : List Nat :=
  (s.tasks.filter fun t => t.p == p && (s.taskDies t).contains d).flatMap (fun t => s.taskCauses t d) ++ causeUnless (!s.readLate p d) 3

/-- The stall cause of a clock: the lowest one that holds, STALL_DEP only when no other does (R16). -/
def stallCause (causes : List Nat) : Option Nat :=
  match (List.range 14).find? fun n => n != 0 && causes.contains n with
  | some n => some n
  | none => if causes.contains 0 then some 0 else none

/-- Counting the clocks in which a die's ready work waited; each die counts once. -/
def State.countWaits (s : State) (ws : List StallWait) : State :=
  let ns := (List.range 8).filterMap fun d => (ws.find? fun w => w.d == d).bind fun w =>
    (s.dieOwner d).bind fun p => (stallCause (s.stallCauses p d)).map fun n => (p, n, w.clocks)
  if s.stopped then s else ns.foldl (fun (s : State) x => s.bump (Addr.stall x.1 x.2.1) x.2.2) s

end Sys2Proof.Machine
end

