-- ==== Sys2Proof/Machine/Units.lean ====
section
/-! DEFINITION. The issue of units (R16, R124, R204, R402, R403), the arrival of operand blocks (R137, R138, R146, R355, R427, R429), and
eviction and promotion by age (R321, R323, R324). -/
namespace Sys2Proof.Machine
open Sys2Proof

/-! Issue (R16, R403). -/

/-- The pipeline of a die that an engine serves. -/
def State.pipeOf (s : State) (d k : Nat) : Option Nat :=
  (List.range 8).find? fun r => s.pipeUp d r && (s.rd (Addr.atp d r 0) 23 16 == k || s.rd (Addr.atp d r 0) 15 8 == k)

/-- The unit can be issued to engine k of die d now, but for its epoch. -/
def State.unitFits (s : State) (t : TaskRec) (u : UnitRec) (d k : Nat) : Bool :=
  if t.f 0 1 = 0 then u.die == d && (u.phase == .todo || u.phase == .halted) && s.tileReady t u k && s.engineOk t u k
  else ((s.pipeOf d k).map (s.attnFits t u d)).getD false

/-- The first unit of a task that fits. -/
def State.nextUnit (s : State) (t : TaskRec) (d k : Nat) : Option UnitRec := t.units.find? fun u => s.unitFits t u d k

/-- Work bound to a slot in its window goes in the order of submission (R402), other work by R403. -/
def State.pickTask (s : State) (ts : List TaskRec) : Option TaskRec :=
  match ts.find? fun t => t.slot != 0 with
  | some t => some t
  | none => s.firstTask ts

/-- Issuing a unit of a task. -/
def State.issueUnit (s : State) (t : TaskRec) (d k : Nat) : State :=
  match s.nextUnit t d k with
  | none => s
  | some u =>
    if t.f 0 1 = 0 then s.issueTile t u k
    else match s.pipeOf d k with
      | some r => s.issueAttn t u d r
      | none => s

/-- UNIT_ISSUE (R16, R204, R402, R403): units held for their epoch are counted and passed over. -/
def execUnitIssue (d k : Nat) (waits : List StallWait) (s : State) : Host.Outcome State Fault Refusal :=
  if 8 ≤ d ∨ 17 ≤ k ∨ (waits.any fun w => 8 ≤ w.d) then .fault .noSuchUnit
  else
    let s := s.countWaits waits
    if s.stopped then .next s
    else
      let fit := s.tasks.filter fun t => (s.nextUnit t d k).isSome
      let held := fit.filter fun t => s.epochAhead t d
      let s := held.foldl (fun (s : State) t => match s.nextUnit t d k with
        | some u => s.holdEpoch t { u with die := d }
        | none => s) s
      match s.pickTask (fit.filter fun t => !s.epochAhead t d) with
      | some t => .next (s.issueUnit t d k)
      | none => .next s

/-! Arrivals (R137, R355, R427, R429). -/

/-- The reader of a block: a home die's checker over the narrow path, else a compute die. -/
def foulReader (narrow : Bool) (blk die : Nat) : Nat := if narrow then unitOf 1 (blk % 8) 0x41 else unitOf 0 die 0x45

/-- The counter of the path that delivered a block, and its number in a foul record (R427, R578). -/
def State.foulPath (s : State) (p blk : Nat) (narrow : Bool) : Nat × Nat :=
  if narrow then (Addr.ras p 0x10, 2) else (s.foulAddr p blk, s.foulPathNo p blk)

/-- The block holds the length word of a vector program, which comes through the narrow path (R356), and nothing else that it reads. -/
def State.wordBlock (s : State) (t : TaskRec) (blk : Nat) : Bool :=
  t.isKind 2 0 && t.lenEn && (blocksOf (t.f 0x80 8) 4).contains blk &&
    !((s.vecLive t).any fun x => (runBlocks (s.vecRuns t x)).contains blk)

/-- A foul in an input of unit `uid` of a task that runs in one step, met before its run (R421, R427): counted and recorded;
the task ends when FOUL_RETRIES attempts of one unit have each found one. -/
def State.taskFoul (s : State) (t : TaskRec) (uid blk : Nat) : State :=
  let narrow := s.wordBlock t blk
  let c := s.foulPath t.p blk narrow
  let s := (s.bump c.1 1).event 0x20 (foulReader narrow blk ((s.taskDies t).headD 0)) t.p blk c.2
  if s.foulRetries ≤ t.fouls.count uid + 1 then s.endTask t.tid 0x20
  else s.updTask t.tid fun t => { t with fouls := uid :: t.fouls }

/-- The blocks that a task of the kinds that run in one step fetches. -/
def State.stepNeeds (s : State) (t : TaskRec) : List Nat := if t.isKind 2 0 then s.vecNeeds t else rngBlocks (s.taskReads t)

/-- An arrival for a ready task of the kinds that run in one step: a good block changes nothing until its run reads it. -/
def State.arriveTask (s : State) (t : TaskRec) (uid blk : Nat) (mismatch : Bool) : State :=
  if t.phase ≠ .ready ∨ !(t.f 0 1 == 2 || t.f 0 1 == 3) ∨ !(s.stepNeeds t).contains blk ∨ (!s.lost blk ∧ !s.readable (blk / 64)) then s
  else if s.lost blk then s.lostInput t blk
  else if mismatch || s.crcBad blk then s.taskFoul t uid blk
  else s

/-- The runs of A, with its chain's arguments, and of B that the chunks of an attempt read, chunk by chunk (R252). -/
def State.runsSide (s : State) (t : TaskRec) (u : UnitRec) (isA : Bool) : List (Nat × Nat) :=
  (List.range (u.last - u.start)).flatMap fun i =>
    let k := t.chunkSpan u (u.start + i)
    if isA then s.runsA t u k.1 k.2 ++ s.runsPro t u k.1 k.2 else s.runsB t u k.1 k.2

/-- The runs that a tile's attempt reads beside A and B. -/
def State.runsOther (s : State) (t : TaskRec) (u : UnitRec) : List (Nat × Nat) := t.runsC u ++ s.runsEpi t u

/-- The other units that take a block as it comes (R127, R137): of B every tile of the task that is open on the die at the same column
tile and chunk, of A the open tiles of the row block's group, each where nothing else that it needs lies in the block. -/
def State.sharers (s : State) (t : TaskRec) (u : UnitRec) (blk : Nat) : List UnitRec :=
  let inA := fun v => (runBlocks (s.runsSide t v true)).contains blk
  let inB := fun v => (runBlocks (s.runsSide t v false)).contains blk
  let other := fun v => (runBlocks (s.runsOther t v)).contains blk
  let mate := fun (v : UnitRec) =>
    v.uid != u.uid && v.die == u.die && v.phase == .issued && !v.arrived.contains blk && !other v &&
      ((v.ct == u.ct && v.next == u.next && inB u && inB v && !inA v) ||
       (sameRow u v && v.eng == u.eng && v.ct / t.group v == u.ct / t.group u && inA u && inA v && !inB v))
  t.units.filter mate

/-- The runs that an attempt of a unit reads. -/
def State.unitRuns (s : State) (t : TaskRec) (u : UnitRec) : List (Nat × Nat) :=
  if t.f 0 1 = 1 then s.atRuns t u else s.runsSide t u true ++ s.runsSide t u false ++ s.runsOther t u

/-- Of a transposed A the runs that pass the transposer (R138). -/
def State.runsTrans (s : State) (t : TaskRec) (u : UnitRec) : List (Nat × Nat) :=
  if t.f 0 1 ≠ 0 ∨ !t.aTrans then []
  else (List.range (u.last - u.start)).flatMap fun i => s.runsA t u (t.chunkSpan u (u.start + i)).1 (t.chunkSpan u (u.start + i)).2

/-- A block holds keys or values that the base dies gather through the narrow path (R233, R356). -/
def State.gathered (s : State) (t : TaskRec) (u : UnitRec) (blk : Nat) : Bool :=
  t.f 0 1 == 1 && t.aOp != 0 && (runBlocks (s.atRunsKeys t u)).contains blk

/-- The units that take a block, which their slice has now read. -/
def TaskRec.take (t : TaskRec) (die blk : Nat) (uids : List Nat) : TaskRec :=
  { t with
    units := t.units.map fun (v : UnitRec) => if uids.contains v.uid then { v with arrived := v.arrived ++ [blk] } else v
    slices := t.slices.map fun (x : SliceRec) => if x.die = die ∧ !x.seen.contains blk then { x with seen := x.seen ++ [blk] } else x }

/-- A good block comes to the units that take it; what the tile DMA moves for it counts once, and a gathered one counts nothing there
(R137, R146, R252, R355, log 129). -/
def State.deliver (s : State) (t : TaskRec) (u : UnitRec) (blk : Nat) : State :=
  let seen := t.slices.any fun x => x.die == u.die && x.seen.contains blk
  let trans := s.runsTrans t u
  let n := if s.gathered t u blk then 0 else s.dmaBytes seen blk (s.unitRuns t u)
  let m := if (runBlocks trans).contains blk then s.dmaBytes seen blk trans else 0
  let us := if t.f 0 1 = 0 then (s.sharers t u blk).map UnitRec.uid else []
  (((s.blockRead u.die blk).bump (Addr.seq u.die 0x30) n).bump (Addr.seq u.die 0x38) m).updTask t.tid fun t => t.take u.die blk (u.uid :: us)

/-- An arrival for a unit of a product or an attention task: a lost block and a foul end the attempt, and a page that cannot be read
where it lies brings nothing (R24). A foul that an attempt meets whose check has failed already counts and does no more (R436). -/
def State.arriveUnit (s : State) (t : TaskRec) (u : UnitRec) (blk : Nat) (mismatch : Bool) : State :=
  if u.phase = .failed ∧ u.why = 9 ∧ mismatch ∧ !u.arrived.contains blk ∧ (s.unitNeeds t u).contains blk ∧ s.readable (blk / 64) then
    let narrow := s.gathered t u blk
    let c := s.foulPath t.p blk narrow
    (s.bump c.1 1).event 0x20 (foulReader narrow blk u.die) t.p blk c.2
  else if (u.phase ≠ .issued ∧ u.phase ≠ .summed) ∨ 1 < t.f 0 1 ∨ u.arrived.contains blk ∨ !(s.unitNeeds t u).contains blk then s
  else if s.lost blk then s.lostInput t blk
  else if !s.readable (blk / 64) then s
  else if mismatch || s.crcBad blk then
    let narrow := s.gathered t u blk
    let c := s.foulPath t.p blk narrow
    s.failFoul t u blk c.1 c.2 (foulReader narrow blk u.die)
  else s.deliver t u blk

/-- OPERAND_BLOCK_ARRIVE (R355, R427, R429). -/
def execOperandBlockArrive (tid uid blk : Nat) (mismatch : Bool) (s : State) : Host.Outcome State Fault Refusal :=
  match s.task tid with
  | none => .next s
  | some t =>
    match t.unit uid with
    | none => .next (s.arriveTask t uid blk mismatch)
    | some u => .next (s.arriveUnit t u blk mismatch)

/-! Eviction and promotion (R321, R323, R324). -/

/-- A page that firmware may evict from its tier. -/
def State.evictable (s : State) (page : Nat) : Bool :=
  let e := s.rt page
  rtState e == 2 && (rtTier e == 1 || rtTier e == 2) && !rtKeep e && !rtPin e && rtPlace e != 3 &&
    (rtTier e == 1 || !(s.tasks.any fun t => t.p == rtPart e && t.phase != .fresh && t.phase != .done && (s.taskPages t).contains page))

/-- The page is the first to go of its pool: the largest AGE, then the lowest number. -/
def State.oldest (s : State) (page : Nat) : Bool :=
  let e := s.rt page
  ((s.pagesOf (rtPart e)).filter fun x => s.evictable x.1 && rtTier x.2 == rtTier e && (rtTier e != 1 || rtDie x.2 == rtDie e)).all fun x =>
    rtAge x.2 < rtAge e || (rtAge x.2 == rtAge e && page ≤ x.1)

/-- EVICTION (R321, R323): from LOW until HIGH is reached, and from a tile store that has no free frame. -/
def execEviction (page : Nat) (s : State) : Host.Outcome State Fault Refusal :=
  if 4194304 ≤ page then .fault .noSuchUnit
  else
    let e := s.rt page
    let pool := (rtPart e, rtTier e, if rtTier e = 1 then rtDie e else 0)
    let low := s.belowMark pool.1 pool.2.1 pool.2.2 false
    let high := s.belowMark pool.1 pool.2.1 pool.2.2 true
    let open_ := s.evicting.contains pool
    let s := if high then s else { s with evicting := s.evicting.filter fun x => x != pool }
    let full := rtTier e = 1 ∧ s.freeFrames pool.1 1 pool.2.2 = 0
    if s.stopped ∨ !s.evictable page ∨ !s.oldest page ∨ !(low || (open_ && high) || decide full) then .next s
    else
      let s := if low && !open_ then { s with evicting := pool :: s.evicting } else s
      .next (s.startMig page (rtTier e + 1) 0 true)

/-- PROMOTION (R324): from HBM into the tile store of a die that accessed the page in the previous frame. -/
def execPromotion (page die : Nat) (s : State) : Host.Outcome State Fault Refusal :=
  if 4194304 ≤ page ∨ 8 ≤ die then .fault .noSuchUnit
  else
    let e := s.rt page
    if s.stopped ∨ rtState e ≠ 2 ∨ rtTier e ≠ 2 ∨ 1 < rtPlace e ∨ rtKeep e ∨ !(s.touchedPrev.contains (page, die)) ∨
        !s.aboveMark (rtPart e) 1 die (rtPlace e = 0) then .next s
    else .next (s.startMig page 1 die false)

end Sys2Proof.Machine
end

