-- ==== Sys2Proof/Machine/Frame.lean ====
section
/-! DEFINITION. The frame tick and the idle poll (R29 to R33, R417, R459, R460, R586 to R588). -/
namespace Sys2Proof.Machine
open Sys2Proof

/-! Step 1 of R29: the accounts. -/

/-- The scheduler latches the tenants' counts: each register of the accounting windows rises by the charges of the closing frame
(R417). -/
def State.latchAccounts (s : State) : State :=
  let s := s.maps.acct.foldl (fun (s : State) x => s.setCtr x.1 (s.ctr x.1 + x.2)) s
  { s with maps := { s.maps with acct := [] } }

/-! Step 2: the age sweep (R30). -/

/-- One more frame of age, up to 255. -/
def agedEntry (e : W64) : W64 := if rtState e = 0 then e else setBits e 63 56 (min 255 (rtAge e + 1))

/-- The age sweep over every mapped page. -/
def State.ageSweep (s : State) : State :=
  (s.maps.rt.map Prod.fst).foldl (fun (s : State) page => s.setRt page (agedEntry (s.rt page))) s

/-! Step 3: the ring reads (R29, R33). -/

/-- Issuing a series of producer-index reads, `clocks` after the last tick; a read that has not completed is not issued again. -/
def State.issueReads (s : State) (atTick : Bool) (clocks : Nat) : State :=
  let new := (List.range 8).flatMap fun p => (List.range 16).filterMap fun r =>
    if s.serving p && s.enabled p r && !(s.reading.any fun x => x.1 == p && x.2.1 == r) then some (p, r, atTick) else none
  { s with
    reading := s.reading ++ new
    readNo := s.readNo + 1
    readClk := s.tickClk + clocks }

/-- A real-time slot remains in the frame, `clocks` after its tick. -/
def State.slotLeft (s : State) (clocks : Nat) : Bool :=
  (List.range 64).any fun i => s.slotValid i && decide (clocks <
    (s.rd (0x100100 + 8 * i) 31 16 + s.rd (0x100100 + 8 * i) 47 32) * 2500)

/-- The module is idle (R33): no task is ready or running, and no real-time slot remains. A task that is stalled on an allocation of
key-value pages, or whose outcome stands while its outputs are not durable, counts as running here (DESIGN CHOICE, log 123). -/
def State.idleAt (s : State) (clocks : Nat) : Bool :=
  (s.tasks.all fun t => t.phase == .fresh || t.phase == .waiting || t.phase == .done) && !s.slotLeft clocks

/-! What the closing frame reports. -/

/-- The clocks in which a completion ring of a partition was full (R397). -/
def State.countFull (s : State) (xs : List (Nat × Nat)) : State :=
  xs.foldl (fun (s : State) x => s.bump (Addr.sch x.1 0xE8) x.2) s

/-- Frames for which the condition of R240 has held. -/
def State.kvTick (s : State) : State :=
  { s with
    kvStuck := ((List.range 8).filter fun p => s.kvLocked p).map fun p => (p, s.kvFrames p + 1)
    kvFreed := [] }

/-! Temperatures and power (R586 to R588). -/

/-- Some die or stack reaches its warning value. -/
def State.anyWarn (s : State) (temps : List Nat) : Bool := (List.range 28).any fun n => decide (s.warnOf n ≤ temps.getD n 0)

/-- Every reading lies at least 5 °C below its warning value. -/
def State.allCool (s : State) (temps : List Nat) : Bool := (List.range 28).all fun n => decide (temps.getD n 0 + 5 ≤ s.warnOf n)

/-- The step of the thermal cap at a tick, with the frame in warning counted, and a record for each die or stack that reaches its
warning value as the warning begins (R586). -/
def State.thermStep (s : State) (temps : List Nat) : State :=
  let cap := s.rd 0xA0000C 26 16
  if s.anyWarn temps then
    let hot := (List.range 28).filter fun n => decide (s.warnOf n ≤ temps.getD n 0)
    let s := if s.rd 0xA00000 1 1 = 1 then s
      else hot.foldl (fun (s : State) n => s.event 0x50 (thermUnit n) 0xFF n (temps.getD n 0)) s
    ((s.setFld 0xA00000 1 1 1).setFld 0xA0000C 26 16 (max 400 (cap - 50))).bump 0xA00040 1
  else
    let s := s.setFld 0xA00000 1 1 0
    if s.allCool temps then s.setFld 0xA0000C 26 16 (min 1650 (cap + 10)) else s

/-- A cap clamped to 400 to 1,650 W (R587). -/
def clampCap (w : Nat) : Nat := min 1650 (max 400 w)

/-- The host's, the sideband's and the thermal cap, clamped. -/
def State.caps (s : State) : Nat × Nat × Nat :=
  (clampCap (s.rd 0xA00008 10 0), clampCap (s.rd 0xA00008 26 16), clampCap (s.rd 0xA0000C 26 16))

/-- The least of three caps, and which one it is: 0 none below 1,650 W, 1 host, 2 sideband, 3 thermal (R590). -/
def leastCap (h b t : Nat) : Nat × Nat :=
  let c := min h (min b t)
  (c, if c = 1650 then 0 else if h = c then 1 else if b = c then 2 else 3)

/-- The effective cap takes effect at the tick (R587). -/
def State.capStep (s : State) : State :=
  let x := s.caps
  let c := leastCap x.1 x.2.1 x.2.2
  (s.setFld 0xA0000C 10 0 c.1).setFld 0xA0000C 13 12 c.2

/-- The grant of the next frame, from the grant `g`, the effective cap `c` and the power `p` of the last frame (R587). -/
def nextGrant (g c p : Nat) : Nat := if p = 0 then 64 else min 64 (max 4 (g * c / p))

/-- The grant and the counts that go with it (R587, R588, R589). A trip and a used share hold issue no longer. -/
def State.grantStep (s : State) (p : Nat) : State :=
  let g := s.rd 0xA00000 15 8
  let c := s.rd 0xA0000C 10 0
  let g2 := nextGrant g c p
  let s := if g = 4 ∧ c < p then s.bump 0xA00038 1 else s
  let s := if g2 < 64 then s.bump 0xA00028 1 else s
  let s := ((s.setFld 0xA00000 15 8 g2).setFld 0xA00000 0 0 (if g2 < 64 then 1 else 0)).setFld 0xA00000 3 3 0
  { s with
    powerHold := false
    tripped := false }

/-- The readings of the closing frame, and what the tick makes of them. -/
def State.powerTick (s : State) (env : TickEnv) : State :=
  let temps := env.dieTemps.take 20 ++ env.stackTemps
  let s := s.setTemps env.dieTemps env.stackTemps
  let s := ((s.setFld 0xA00000 63 48 env.vin).setFld 0xA00000 47 32 env.iin).setFld 0xA00000 31 16 env.power
  ((s.thermStep temps).capStep.grantStep env.power).bump 0xA00020 env.energy

/-- A debug token counts down in seconds of the arithmetic clock, 2.5 GHz (R557). -/
def State.debugTick (s : State) (clocks : Nat) : State :=
  if s.rd 0x800040 2 0 = 0 ∨ !(s.fuses.state == 2 || s.fuses.state == 3) then s
  else
    let n := (s.debugClk + clocks) / 2500000000
    let left := s.rd 0x800040 63 32
    let s := { s with debugClk := (s.debugClk + clocks) % 2500000000 }
    if left ≤ n then s.setReg 0x800040 0 else s.setFld 0x800040 63 32 (left - n)

/-- SYN_GCOUNT at the tick: the clocks of the frame that no exchange has counted already. -/
def State.gcTick (s : State) (clocks : Nat) : State :=
  s.setGcount (s.gcount + (clocks - s.gcAhead)) 0

/-- The frame tick falls `clocks` after the last one (R459, R460): at the end of the period, moved by the error under FSYNC, or where
SYN_GCOUNT meets PHASE. The place of the first tick of a formation under LOCAL and FSYNC is open (log 155). -/
def State.tickDue (s : State) (clocks : Nat) : Bool :=
  if s.rd 0x900020 59 58 = 2 then
    let n := clocks - s.gcAhead
    1 ≤ n && n ≤ s.period && (s.gcount + n) % s.period == s.rd 0x900020 47 16 % s.period
  else s.reg 0x100008 == 0 || (clocks : Int) == s.period + (if s.rd 0x900020 59 58 = 1 then s.fsync.move else 0)

/-- FRAME_TICK (R29). Ticks go on in test hold (R592); without a formation and outside test hold there is none (log 157). -/
def execFrameTick (env : TickEnv) (s : State) : Host.Outcome State Fault Refusal :=
  if env.dieTemps.length ≠ 20 ∨ env.stackTemps.length ≠ 8 ∨ (env.waits.any fun w => 8 ≤ w.d) ∨
      (env.cqFull.any fun x => 8 ≤ x.1) then .fault .noSuchUnit
  else if s.boot ≠ .firmware ∨ !(s.ready || s.held) ∨ !s.tickDue env.clocks then .next s
  else
    let s := (s.countWaits env.waits).countFull env.cqFull
    let s := (s.setReg 0x100008 (s.reg 0x100008 + 1)).latchAccounts
    let s := s.kvTick.fsyncTick.retryMoves
    let s := { s with
      tickClk := s.tickClk + env.clocks
      touchedPrev := s.touched
      touched := []
      hbmPcs := s.hbmPcs.map fun (x : HbmPcRec) => { x with corr := 0 } }
    let s := ((s.gcTick env.clocks).debugTick env.clocks).powerTick env
    .next (s.ageSweep.issueReads true 0)

/-- IDLE_POLL (R33): while the module is idle, the ring reads are issued again. -/
def execIdlePoll (clocks : Nat) (s : State) : Host.Outcome State Fault Refusal :=
  if s.boot ≠ .firmware ∨ !s.ready ∨ !s.idleAt clocks then .next s
  else .next (s.issueReads false clocks)

end Sys2Proof.Machine
end

