-- ==== Sys2Proof/Machine/Dispatch.lean ====
section
/-! DEFINITION. The effect of each command on everything but the queue: one arm per row of the opcode table. -/
namespace Sys2Proof.Machine

/-- The command `i` in the state `s`. -/
def exec (i : Instr) (s : State) : Host.Outcome State Fault Refusal :=
  match i with
  -- Registers (00, 05, 11, 17, 19)
  | .registerWrite fn off bytes value => Sys2Proof.Machine.execRegisterWrite fn off bytes value s
  | .badRegisterAccess fn off bytes isWrite => Sys2Proof.Machine.execBadRegisterAccess fn off bytes isWrite s
  | .snapTake fn off => Sys2Proof.Machine.execSnapTake fn off s
  | .memRtSnapTake fn => Sys2Proof.Machine.execMemRtSnapTake fn s
  | .rasSbSnapTake fn => Sys2Proof.Machine.execRasSbSnapTake fn s
  | .rasSnapAllTake fn => Sys2Proof.Machine.execRasSnapAllTake fn s
  -- Frames, rings, graphs and tasks (01, 13)
  | .frameTick env => Sys2Proof.Machine.execFrameTick env s
  | .idlePoll clocks => Sys2Proof.Machine.execIdlePoll clocks s
  | .ringReadComplete p r host => Sys2Proof.Machine.execRingReadComplete p r host s
  | .graphAdmit p r seq fault => Sys2Proof.Machine.execGraphAdmit p r seq fault s
  | .backlogAdmit p fault => Sys2Proof.Machine.execBacklogAdmit p fault s
  | .taskAdmit tid fault => Sys2Proof.Machine.execTaskAdmit tid fault s
  | .taskReady tid => Sys2Proof.Machine.execTaskReady tid s
  | .depFailed tid clocks => Sys2Proof.Machine.execDepFailed tid clocks s
  | .unitIssue d k waits => Sys2Proof.Machine.execUnitIssue d k waits s
  | .virtualTimeUpdate p => Sys2Proof.Machine.execVirtualTimeUpdate p s
  | .sliceStart tid d clocks expect fault => Sys2Proof.Machine.execSliceStart tid d clocks expect fault s
  | .sliceHalt tid d reads => Sys2Proof.Machine.execSliceHalt tid d reads s
  | .rtSlotHaltRaise slot => Sys2Proof.Machine.execRtSlotHaltRaise slot s
  | .unitHaltAtBoundary tid uid read => Sys2Proof.Machine.execUnitHaltAtBoundary tid uid read s
  | .rtSlotBegin slot => Sys2Proof.Machine.execRtSlotBegin slot s
  | .rtWindowEndHalt slot => Sys2Proof.Machine.execRtWindowEndHalt slot s
  | .taskComplete tid clocks => Sys2Proof.Machine.execTaskComplete tid clocks s
  | .completionEntryWrite p r => Sys2Proof.Machine.execCompletionEntryWrite p r s
  | .msixModerationExpire p r => Sys2Proof.Machine.execMsixModerationExpire p r s
  | .ringEnable fn p r value host => Sys2Proof.Machine.execRingEnable fn p r value host s
  | .ringDisable fn p r value => Sys2Proof.Machine.execRingDisable fn p r value s
  | .partSave fn p value => Sys2Proof.Machine.execPartSave fn p value s
  | .saveDone p size => Sys2Proof.Machine.execSaveDone p size s
  | .partRestore fn p value host => Sys2Proof.Machine.execPartRestore fn p value host s
  | .restoreDone p => Sys2Proof.Machine.execRestoreDone p s
  | .partStart fn p value => Sys2Proof.Machine.execPartStart fn p value s
  | .partReset fn p value => Sys2Proof.Machine.execPartReset fn p value s
  | .resetDone p => Sys2Proof.Machine.execResetDone p s
  | .preemptTask tid => Sys2Proof.Machine.execPreemptTask tid s
  -- Products (02, 03, 04, 14)
  | .product tid => Sys2Proof.Machine.execProduct tid s
  | .tileIssue tid uid k => Sys2Proof.Machine.execTileIssue tid uid k s
  | .operandBlockArrive tid uid blk mismatch => Sys2Proof.Machine.execOperandBlockArrive tid uid blk mismatch s
  | .chunkComplete tid uid env => Sys2Proof.Machine.execChunkComplete tid uid env s
  | .scorebookMirrorCopy => Sys2Proof.Machine.execScorebookMirrorCopy s
  | .engineHang tid uid late => Sys2Proof.Machine.execEngineHang tid uid late s
  | .tileReexecute tid uid k => Sys2Proof.Machine.execTileReexecute tid uid k s
  | .accumSpill tid uid read => Sys2Proof.Machine.execAccumSpill tid uid read s
  | .accumReload tid uid => Sys2Proof.Machine.execAccumReload tid uid s
  | .tileDrain tid uid env => Sys2Proof.Machine.execTileDrain tid uid env s
  | .tileStoreComplete tid uid => Sys2Proof.Machine.execTileStoreComplete tid uid s
  | .escalatedRerun tid uid k => Sys2Proof.Machine.execEscalatedRerun tid uid k s
  | .splitkReduce tid uid env => Sys2Proof.Machine.execSplitkReduce tid uid env s
  | .mxeRetire d k gen => Sys2Proof.Machine.execMxeRetire d k gen s
  | .writeAtCheckpoint k => Sys2Proof.Machine.execWriteAtCheckpoint k s
  | .applyPass tid b rb env => Sys2Proof.Machine.execApplyPass tid b rb env s
  | .applyRepeat tid b rb env => Sys2Proof.Machine.execApplyRepeat tid b rb env s
  -- Vector programs and transfers (05, 06, 08, 09, 10, 13)
  | .vectorProgram tid env => Sys2Proof.Machine.execVectorProgram tid env s
  | .convert tid => Sys2Proof.Machine.execConvert tid s
  | .codebookLoad tid => Sys2Proof.Machine.execCodebookLoad tid s
  | .ftLoad tid => Sys2Proof.Machine.execFtLoad tid s
  | .ftBankWrite tid => Sys2Proof.Machine.execFtBankWrite tid s
  | .ftBankSwap tid => Sys2Proof.Machine.execFtBankSwap tid s
  | .seedLoad tid => Sys2Proof.Machine.execSeedLoad tid s
  | .rngFill tid => Sys2Proof.Machine.execRngFill tid s
  | .reuseGate tid vxe => Sys2Proof.Machine.execReuseGate tid vxe s
  | .finiteCheck tid vxe => Sys2Proof.Machine.execFiniteCheck tid vxe s
  -- Attention (07)
  | .attend tid => Sys2Proof.Machine.execAttend tid s
  | .attendPaged tid => Sys2Proof.Machine.execAttendPaged tid s
  | .appendAttend tid => Sys2Proof.Machine.execAppendAttend tid s
  | .kvAllocRetry tid => Sys2Proof.Machine.execKvAllocRetry tid s
  | .kvRelease tid => Sys2Proof.Machine.execKvRelease tid s
  | .kvDeadlockBreak p => Sys2Proof.Machine.execKvDeadlockBreak p s
  | .attentionKeyBlock tid uid wait env => Sys2Proof.Machine.execAttentionKeyBlock tid uid wait env s
  | .attentionUnitFinal tid uid env => Sys2Proof.Machine.execAttentionUnitFinal tid uid env s
  -- Memory tiers (11)
  | .map tid => Sys2Proof.Machine.execMap tid s
  | .unmap tid => Sys2Proof.Machine.execUnmap tid s
  | .hint tid => Sys2Proof.Machine.execHint tid s
  | .migrationStart page tier die => Sys2Proof.Machine.execMigrationStart page tier die s
  | .migrationPassEnd page stored uncorr => Sys2Proof.Machine.execMigrationPassEnd page stored uncorr s
  | .sourceFrameReturn page => Sys2Proof.Machine.execSourceFrameReturn page s
  | .eviction page => Sys2Proof.Machine.execEviction page s
  | .promotion page die => Sys2Proof.Machine.execPromotion page die s
  | .narrowing tid => Sys2Proof.Machine.execNarrowing tid s
  | .hpoolBaseWrite fn p value => Sys2Proof.Machine.execHpoolBaseWrite fn p value s
  | .hpoolCountWrite fn p value host => Sys2Proof.Machine.execHpoolCountWrite fn p value host s
  | .shrinkDone p => Sys2Proof.Machine.execShrinkDone p s
  | .bar2Read fn off len uncorr => Sys2Proof.Machine.execBar2Read fn off len uncorr s
  | .bar2Write fn off data => Sys2Proof.Machine.execBar2Write fn off data s
  -- HBM (12)
  | .hbmRequest pc arrivals => Sys2Proof.Machine.execHbmRequest pc arrivals s
  | .narrowPathRequest p blk sectors errs mismatch => Sys2Proof.Machine.execNarrowPathRequest p blk sectors errs mismatch s
  | .patrolScrub pc line errs => Sys2Proof.Machine.execPatrolScrub pc line errs s
  | .retrainStart pc cause => Sys2Proof.Machine.execRetrainStart pc cause s
  | .retrainComplete pc clocks ok => Sys2Proof.Machine.execRetrainComplete pc clocks ok s
  | .repairGo fn => Sys2Proof.Machine.execRepairGo fn s
  | .repairStart pc row => Sys2Proof.Machine.execRepairStart pc row s
  | .repairComplete pc clocks errs => Sys2Proof.Machine.execRepairComplete pc clocks errs s
  -- Recovery (14)
  | .taskReexecute tid => Sys2Proof.Machine.execTaskReexecute tid s
  | .controlCoreFault core exception waiting pages second => Sys2Proof.Machine.execControlCoreFault core exception waiting pages second s
  | .coreRestartComplete core => Sys2Proof.Machine.execCoreRestartComplete core s
  | .linkTimeout tid => Sys2Proof.Machine.execLinkTimeout tid s
  -- Starts and time (15)
  | .start tid => Sys2Proof.Machine.execStart tid s
  | .startMessage msg => Sys2Proof.Machine.execStartMessage msg s
  | .huddleArrival msg => Sys2Proof.Machine.execHuddleArrival msg s
  | .huddleRelease msg => Sys2Proof.Machine.execHuddleRelease msg s
  | .whistleCount msg => Sys2Proof.Machine.execWhistleCount msg s
  | .whistleRelease tid => Sys2Proof.Machine.execWhistleRelease tid s
  | .startTimeout tid => Sys2Proof.Machine.execStartTimeout tid s
  | .startWithdrawal msg => Sys2Proof.Machine.execStartWithdrawal msg s
  | .timingMessage msg => Sys2Proof.Machine.execTimingMessage msg s
  | .gcSlew clocks => Sys2Proof.Machine.execGcSlew clocks s
  | .fsyncEdge stamp => Sys2Proof.Machine.execFsyncEdge stamp s
  -- Video codec (16)
  | .codecOpen tid => Sys2Proof.Machine.execCodecOpen tid s
  | .codecDecode tid within => Sys2Proof.Machine.execCodecDecode tid within s
  | .codecEncode tid => Sys2Proof.Machine.execCodecEncode tid s
  | .codecKeyRequest tid => Sys2Proof.Machine.execCodecKeyRequest tid s
  | .codecRelease tid => Sys2Proof.Machine.execCodecRelease tid s
  | .codecFlush tid => Sys2Proof.Machine.execCodecFlush tid s
  | .codecResume tid => Sys2Proof.Machine.execCodecResume tid s
  | .codecClose tid => Sys2Proof.Machine.execCodecClose tid s
  | .codecPicture tid pic => Sys2Proof.Machine.execCodecPicture tid pic s
  -- Host core callbacks (13)
  | .hostCallback tid => Sys2Proof.Machine.execHostCallback tid s
  | .callbackDone tid value => Sys2Proof.Machine.execCallbackDone tid value s
  -- Collectives and links (17)
  | .allReduce tid => Sys2Proof.Machine.execAllReduce tid s
  | .allGather tid => Sys2Proof.Machine.execAllGather tid s
  | .reduceScatter tid => Sys2Proof.Machine.execReduceScatter tid s
  | .collBlockReceive tid blk => Sys2Proof.Machine.execCollBlockReceive tid blk s
  | .collBlockAck tid member idx => Sys2Proof.Machine.execCollBlockAck tid member idx s
  | .collRouteChange tid => Sys2Proof.Machine.execCollRouteChange tid s
  | .flitReceive k f stall => Sys2Proof.Machine.execFlitReceive k f stall s
  | .nakReceive k ack => Sys2Proof.Machine.execNakReceive k ack s
  | .ackTimeout k => Sys2Proof.Machine.execAckTimeout k s
  | .portTrained k partner rate => Sys2Proof.Machine.execPortTrained k partner rate s
  | .portRetrainTimer k => Sys2Proof.Machine.execPortRetrainTimer k s
  | .linkPortDown k => Sys2Proof.Machine.execLinkPortDown k s
  -- Power, resets and the host interface (17, 18, 19)
  | .pwrenRise => Sys2Proof.Machine.execPwrenRise s
  | .pwrenFall programmed => Sys2Proof.Machine.execPwrenFall programmed s
  | .supplyLoss programmed => Sys2Proof.Machine.execSupplyLoss programmed s
  | .perstNAssert => Sys2Proof.Machine.execPerstNAssert s
  | .pcieLinkUp gen width => Sys2Proof.Machine.execPcieLinkUp gen width s
  | .pcieLinkDown => Sys2Proof.Machine.execPcieLinkDown s
  | .flrPf0 => Sys2Proof.Machine.execFlrPf0 s
  | .flrVf n => Sys2Proof.Machine.execFlrVf n s
  | .d3hotEntry fn => Sys2Proof.Machine.execD3hotEntry fn s
  | .vfConfigChange n master => Sys2Proof.Machine.execVfConfigChange n master s
  | .hostCompletionFault fault => Sys2Proof.Machine.execHostCompletionFault fault s
  | .prepareRemove fn => Sys2Proof.Machine.execPrepareRemove fn s
  | .smbusFallback => Sys2Proof.Machine.execSmbusFallback s
  | .pldmGetSensor n => Sys2Proof.Machine.execPldmGetSensor n s
  | .pldmSetPowerCap w => Sys2Proof.Machine.execPldmSetPowerCap w s
  | .pldmGetFru => Sys2Proof.Machine.execPldmGetFru s
  -- Attestation and security (18)
  | .spdmGetVersion => Sys2Proof.Machine.execSpdmGetVersion s
  | .spdmGetCapabilities => Sys2Proof.Machine.execSpdmGetCapabilities s
  | .spdmNegotiateAlgorithms => Sys2Proof.Machine.execSpdmNegotiateAlgorithms s
  | .spdmGetDigests => Sys2Proof.Machine.execSpdmGetDigests s
  | .spdmGetCertificate off len => Sys2Proof.Machine.execSpdmGetCertificate off len s
  | .spdmChallenge nonce => Sys2Proof.Machine.execSpdmChallenge nonce s
  | .spdmGetMeasurements index nonce => Sys2Proof.Machine.execSpdmGetMeasurements index nonce s
  | .spdmUnsupported => Sys2Proof.Machine.execSpdmUnsupported s
  | .stageFw fn host => Sys2Proof.Machine.execStageFw fn host s
  | .stageForm fn host => Sys2Proof.Machine.execStageForm fn host s
  | .formLoad fn slot => Sys2Proof.Machine.execFormLoad fn slot s
  | .formationLoad kat => Sys2Proof.Machine.execFormationLoad kat s
  | .lcTransition fn host => Sys2Proof.Machine.execLcTransition fn host s
  | .debugOpen fn host => Sys2Proof.Machine.execDebugOpen fn host s
  | .debugClose fn => Sys2Proof.Machine.execDebugClose fn s
  | .debugTokenExpire => Sys2Proof.Machine.execDebugTokenExpire s
  | .secCmdComplete => Sys2Proof.Machine.execSecCmdComplete s
  -- Diagnostics, scorebook and physical limits (19)
  | .diagHold fn value => Sys2Proof.Machine.execDiagHold fn value s
  | .diagRun fn value => Sys2Proof.Machine.execDiagRun fn value s
  | .diagRunComplete fails => Sys2Proof.Machine.execDiagRunComplete fails s
  | .diagAbort => Sys2Proof.Machine.execDiagAbort s
  | .hbmTgStart fn ch value core => Sys2Proof.Machine.execHbmTgStart fn ch value core s
  | .hbmTgStop fn ch value => Sys2Proof.Machine.execHbmTgStop fn ch value s
  | .hbmTgRunDone ch res => Sys2Proof.Machine.execHbmTgRunDone ch res s
  | .scorebookFlush unreadable => Sys2Proof.Machine.execScorebookFlush unreadable s
  | .flushComplete => Sys2Proof.Machine.execFlushComplete s
  | .segmentEraseDone => Sys2Proof.Machine.execSegmentEraseDone s
  | .thermalCritical n temp => Sys2Proof.Machine.execThermalCritical n temp s
  | .grantExhausted => Sys2Proof.Machine.execGrantExhausted s
  | .powerTrip w => Sys2Proof.Machine.execPowerTrip w s
  | .thermNDeassert dieTemps stackTemps => Sys2Proof.Machine.execThermNDeassert dieTemps stackTemps s
  | .coreRestartTimeout core => Sys2Proof.Machine.execCoreRestartTimeout core s
  | .pcControllerFault pc => Sys2Proof.Machine.execPcControllerFault pc s
  | .callbackQueueRoom tid consumer => Sys2Proof.Machine.execCallbackQueueRoom tid consumer s
  | .testHoldScrubDone => Sys2Proof.Machine.execTestHoldScrubDone s
  | .supplyReturn => Sys2Proof.Machine.execSupplyReturn s

end Sys2Proof.Machine
end

