-- ==== Sys2Proof/Safety.lean ====
section
/-! DEFINITION. The terms in which claims speak: what counts as a sound state, what a command leaves unchanged, and what it
says to the outside. -/
namespace Sys2Proof.Machine
open Sys2Proof

/-- Every sparse table is in canonical form, so that equal contents are equal data. -/
def Maps.wf (m : Maps) : Bool :=
  Sparse.wf 0 m.dev && Sparse.wf 0 m.host && Sparse.wf 0 m.flash && Sparse.wf 0 m.rt && Sparse.wf 0 m.side &&
    Sparse.wf 0 m.reg && Sparse.wf 0 m.ctr && Sparse.wf 0 m.snap && Sparse.wf 0 m.acct && Sparse.wf 0 m.cbk &&
    Sparse.wf 0 m.ft && Sparse.wf 0 m.seeds && Sparse.wf 0 m.reuse

/-- Every waiting command names units that the part has. -/
def State.queueWf (s : State) : Bool := s.pending.all Instr.wellFormed

/-- One byte of host memory. -/
def State.hostByte (s : State) (a : Nat) : Byte := Sparse.get 0 s.maps.host a

/-- The snapshot copy of a register of type SNAP. -/
def State.snapOf (s : State) (a : Nat) : W64 := Sparse.get 0 s.maps.snap a

/-- The groups of state of the module. Each field of the state belongs to one of them. -/
inductive Group where
  | queue | mem | host | flash | pages | side | regs | ctrs | snaps | acct | books | tables | seeds | reuse
  | rings | graphs | tasks | tenants | flights | engs | moves | touch | hbm | kv | sb | clock | starts | ports
  | colls | rounds | codec | ctx | life | parts | power | diag | outs | free
deriving DecidableEq, Repr

/-- A group of the state is the same in two states. Memory is read byte by byte, a table entry by entry. -/
def Group.same (g : Group) (s t : State) : Prop :=
  match g with
  | .queue => t.pending = s.pending
  | .mem => ∀ a, t.devByte a = s.devByte a
  | .host => ∀ a, t.hostByte a = s.hostByte a
  | .flash => t.maps.flash = s.maps.flash
  | .pages => ∀ p, t.rt p = s.rt p
  | .side => ∀ b, t.side b = s.side b
  | .regs => ∀ a, t.reg a = s.reg a
  | .ctrs => ∀ a, t.ctr a = s.ctr a
  | .snaps => ∀ a, t.snapOf a = s.snapOf a
  | .acct => t.maps.acct = s.maps.acct
  | .books => t.maps.cbk = s.maps.cbk
  | .tables => t.maps.ft = s.maps.ft
  | .seeds => t.maps.seeds = s.maps.seeds
  | .reuse => t.maps.reuse = s.maps.reuse ∧ t.reuseSlots = s.reuseSlots
  | .rings => t.rings = s.rings ∧ t.reading = s.reading ∧ t.readNo = s.readNo ∧ t.readClk = s.readClk
  | .graphs => t.graphs = s.graphs ∧ t.nextGid = s.nextGid
  | .tasks => t.tasks = s.tasks ∧ t.nextTid = s.nextTid ∧ t.slotsOn = s.slotsOn ∧ t.shared = s.shared
  | .tenants => t.tenants = s.tenants
  | .flights => t.flights = s.flights
  | .engs => t.engs = s.engs ∧ t.coreErrs = s.coreErrs
  | .moves => t.migs = s.migs ∧ t.frames = s.frames ∧ t.badFrames = s.badFrames ∧ t.sick = s.sick ∧ t.evicting = s.evicting ∧
      t.hostSkips = s.hostSkips ∧ t.hbmSpare = s.hbmSpare ∧ t.narrowDue = s.narrowDue ∧ t.moves = s.moves ∧ t.entryWait = s.entryWait
  | .touch => t.touched = s.touched ∧ t.touchedPrev = s.touchedPrev ∧ t.lastDies = s.lastDies
  | .hbm => t.hbmRows = s.hbmRows ∧ t.hbmPcs = s.hbmPcs ∧ t.hbmDue = s.hbmDue ∧ t.hbmHold = s.hbmHold ∧ t.hbmWait = s.hbmWait
  | .kv => t.kvRecs = s.kvRecs ∧ t.kvStuck = s.kvStuck ∧ t.kvFreed = s.kvFreed ∧ t.kvWait = s.kvWait
  | .sb => t.sb = s.sb
  | .clock => t.tickClk = s.tickClk ∧ t.gcAcquired = s.gcAcquired ∧ t.gcOffset = s.gcOffset ∧ t.gcAhead = s.gcAhead ∧
      t.fsync = s.fsync
  | .starts => t.starts = s.starts ∧ t.startMsgs = s.startMsgs
  | .ports => t.ports = s.ports ∧ t.routes = s.routes
  | .colls => t.colls = s.colls
  | .rounds => t.rounds = s.rounds
  | .codec => t.sessions = s.sessions
  | .ctx => t.ctxCmds = s.ctxCmds ∧ t.ctxSlots = s.ctxSlots ∧ t.hostImages = s.hostImages
  | .life => t.boot = s.boot ∧ t.fuses = s.fuses ∧ t.fwMarks = s.fwMarks ∧ t.formMarks = s.formMarks ∧ t.sec = s.sec ∧
      t.loading = s.loading ∧ t.dying = s.dying ∧ t.removal = s.removal ∧ t.mapMeas = s.mapMeas ∧ t.debugClk = s.debugClk
  | .parts => t.parts = s.parts ∧ t.grade = s.grade ∧ t.numVfs = s.numVfs ∧ t.fusedOff = s.fusedOff ∧ t.disMap = s.disMap
  | .power => t.pwren = s.pwren ∧ t.supply = s.supply ∧ t.smbus = s.smbus ∧ t.powerHold = s.powerHold ∧ t.tripped = s.tripped
  | .diag => t.tgSeeds = s.tgSeeds ∧ t.tgStops = s.tgStops ∧ t.warm = s.warm ∧ t.holding = s.holding ∧ t.diag = s.diag
  | .outs => t.outs = s.outs
  | .free => t.free = s.free

/-- Between `s` and `t` nothing changes but what lies in the groups of the list. -/
def Keeps (gs : List Group) (s t : State) : Prop := ∀ g : Group, g ∉ gs → g.same s t

/-- No live register but those in the list differs. -/
def RegsBut (as : List Nat) (s t : State) : Prop := ∀ a, a ∉ as → t.reg a = s.reg a

/-- No counter but those in the list differs. -/
def CtrsBut (as : List Nat) (s t : State) : Prop := ∀ a, a ∉ as → t.ctr a = s.ctr a

/-- No byte of the device virtual range but those in the list differs. -/
def MemBut (as : List Nat) (s t : State) : Prop := ∀ a, a ∉ as → t.devByte a = s.devByte a

/-- The counters that reading a block can move: bytes of COMPRESS pages in host, and bytes of PLACE = 3 pages used in place. -/
def hostCtrs : List Nat := (List.range 8).flatMap fun p => [0x70, 0x78, 0xA0].map (Addr.memp p)

/-- No entry of the residency table differs but in its AGE, which an access clears (R30). -/
def AgesOnly (s t : State) : Prop := ∀ pg, t.rt pg = s.rt pg ∨ t.rt pg = setBits (s.rt pg) 63 56 0

/-- No task but the one named differs, and none comes or goes. -/
def TasksBut (tid : Nat) (s t : State) : Prop :=
  t.tasks.map TaskRec.tid = s.tasks.map TaskRec.tid ∧ ∀ x ∈ t.tasks, x.tid ≠ tid → x ∈ s.tasks

/-- The module says `os` to the outside, after what it has said before. -/
def Says (os : List Out) (s t : State) : Prop := t.outs = s.outs ++ os

/-- The counter of events that a flush drops (R580): the one counter that writing a record can move. -/
def dropped : Nat := 0x709048

/-! What the statements say of graphs, tasks and units. -/

/-- No block is lost and every block passes its check. -/
def State.memGood (s : State) : Prop := ∀ b, s.lost b = false ∧ s.crcBad b = false

/-- A task that runs in one step can do so now: the blocks that it reads lie where they can be read (R24), and the pages that it writes have
frames or can take them, with no writes held (R322, R327). -/
def State.CanStep (s : State) (x : TaskRec) (ins : List Nat) (outs : List Rng) : Prop :=
  (∀ b ∈ ins, s.readable (b / 64) = true) ∧ s.canWriteAll ((s.taskDies x).headD 0) (rngPages outs) = true

/-- The task table, the dependence array and the argument block of a graph lie in mapped pages and keep R382. -/
def State.tablesOk (s : State) (g : GraphRec) : Prop :=
  s.rangeFault g.p (s.devNat (g.addr + 0x10) 8) (16 * s.devNat g.addr 2) = none ∧
    s.rangeFault g.p (s.devNat (g.addr + 0x18) 8) (2 * s.devNat (g.addr + 0x20) 4) = none ∧
    (s.argBlock g ≠ 0 → s.rangeFault g.p (s.argBlock g) 64 = none) ∧
    (∀ i, i < s.devNat g.addr 2 → s.entryOk g i = true) ∧ s.depsOk g (s.devNat g.addr 2) = true

/-- The graph stands in the task table: its record is admitted, each entry of its table is one fresh task with the
dependences that the table gives, and no task has gone. -/
def Admitted (g : GraphRec) (s t : State) : Prop :=
  (∃ h ∈ t.graphs, h.gid = g.gid ∧ h.phase = .admitted ∧ h.ntasks = s.devNat g.addr 2 ∧ h.tenant = s.devNat (g.addr + 4) 1 ∧
    h.slot = s.devNat (g.addr + 5) 1 ∧
    h.deadline = if s.devNat (g.addr + 8) 4 = 0 then none else some (g.tick + 2500 * s.devNat (g.addr + 8) 4)) ∧
  t.graphs.length = s.graphs.length ∧ t.tasks.length = s.tasks.length + s.devNat g.addr 2 ∧ (∀ x ∈ s.tasks, x ∈ t.tasks) ∧
  t.nextTid = s.nextTid + s.devNat g.addr 2 ∧
  ∀ i, i < s.devNat g.addr 2 → ∃ x ∈ t.tasks, x.tid = s.nextTid + i ∧ x.gid = g.gid ∧ x.p = g.p ∧ x.r = g.r ∧ x.seq = g.seq ∧
    x.idx = i ∧ x.phase = .fresh ∧ x.deps = s.depsOf g i ∧ x.descAddr = s.devNat (s.devNat (g.addr + 0x10) 8 + 16 * i) 8

/-- The descriptor of task `x` can be read and keeps R386 and R387; `y` is the task with its argument references resolved and its
chain programs read (R153). -/
def State.DescOk (s : State) (x y : TaskRec) : Prop :=
  ∃ n bs, descSize (bytesNat (s.devBytes x.descAddr 64) 0 1) (bytesNat (s.devBytes x.descAddr 64) 1 1) = some n ∧
    s.rangeFault x.p x.descAddr 64 = none ∧ s.rangeFault x.p x.descAddr n = none ∧
    s.resolveDesc (s.taskArg x) (bytesNat (s.devBytes x.descAddr n) 0 1) (bytesNat (s.devBytes x.descAddr n) 1 1)
      (s.devBytes x.descAddr n) = some bs ∧
    y = s.readPrograms { x with desc := bs, pro := none, epi := none } ∧ s.commonOk y = true ∧
    ∀ r ∈ ((s.taskStructs y).1 ++ (s.taskStructs y).2).flatMap Rng.rows, s.rangeFault x.p r.1 r.2 = none

/-- What writing bytes of the device virtual range can change: the bytes, their blocks' marks, their pages' frames and ages, what is moving,
the byte counters, and the model's own count of open values. -/
def wrote : List Group := [.mem, .side, .pages, .moves, .touch, .ctrs, .free]

/-- The LAST_USE fields of the pages that entries hold, each as the state has it when its turn comes (R230). -/
def useRuns : State → List KvHold → List (Nat × Nat)
  | _, [] => []
  | s, h :: hs => ((s.poolAt h.pool).state + 16 * s.entryPage h.entry + 8, 4) :: useRuns (s.usePages [h]) hs

/-- The LAST_USE fields that the completion of a task writes, in the state that `undefRuns` has left. -/
def State.completionUse (w : State) (x : TaskRec) : List (Nat × Nat) :=
  useRuns w ((w.kvRecs.filter fun h => x.kvUsed.contains h.entry && w.present h.entry) ++ w.kvTouched x)

/-- An address lies in one of the runs. -/
def inRuns (rs : List (Nat × Nat)) (a : Nat) : Prop := ∃ r ∈ rs, r.1 ≤ a ∧ a < r.1 + r.2

/-- Task `x` has completed with status `st` and flags `fl`, `clocks` after the last tick: its entry, its counts, and the end of its
graph when it was the last. No byte of memory changes but those of `runs`, which R15 and R384 leave undefined, and the fields LAST_USE
of `uses`, the key-value pages that it read or wrote (R230). -/
def Completes (x : TaskRec) (st fl clocks : Nat) (runs uses : List (Nat × Nat)) (s t : State) : Prop :=
  let late := ((s.deadlineOf x).map fun d => decide (d < s.tickClk + clocks)).getD false
  let fl' := if late then orFlag fl 4 else fl
  let st' := finalStatus st fl'
  let inserted := ((s.graph x.gid).map fun g => g.recompute.isSome).getD false
  let last := ∀ y ∈ s.tasks, y.gid = x.gid → y.tid ≠ x.tid → y.phase = .done
  (t.ring x.p x.r).kept = (s.ring x.p x.r).kept ++
    (if inserted ∨ (st' = 0 ∧ fl' = 0 ∧ bit (x.f 2 1) 1) then []
     else [{ user := x.f 0x18 8, seq := x.seq, idx := x.idx, status := st', flags := fl', cyc := x.cyc,
             frame := (s.reg 0x100008).toNat % pow2 32, aux := x.aux }]) ∧
  t.ctr (Addr.sch x.p 0xC8) = s.ctr (Addr.sch x.p 0xC8) + 1 ∧
  (late = true → t.ctr (Addr.sch x.p 0xF0) = s.ctr (Addr.sch x.p 0xF0) + 1) ∧
  (¬last → t.task x.tid = some { x with phase := .done, status := st', flags := fl', pins := [], halts := [] } ∧ t.graphs = s.graphs ∧
    TasksBut x.tid s t) ∧
  (last → ∀ g, s.graph x.gid = some g → g.recompute = none →
    t.graphs = s.graphs.filter (fun h => h.gid != x.gid) ∧ (∀ y ∈ t.tasks, y.gid ≠ x.gid) ∧
    (∀ y ∈ s.tasks, y.gid ≠ x.gid → y.tid ≠ x.tid → y ∈ t.tasks)) ∧
  (inserted = false →
    (∀ b, b < s.sq x.p x.r + 8 ∨ s.sq x.p x.r + 16 ≤ b → t.hostByte b = s.hostByte b) ∧
    (∀ p' r', (p', r') ≠ (x.p, x.r) → t.ring p' r' = s.ring p' r') ∧
    (∀ a, ¬inRuns runs a → ¬inRuns uses a → t.devByte a = s.devByte a) ∧
    ((∀ r ∈ uses, ∀ q ∈ uses, r = q ∨ r.1 + 4 ≤ q.1 ∨ q.1 + 4 ≤ r.1) →
      ∀ r ∈ uses, t.devNat r.1 4 = (s.reg 0x100008).toNat % pow2 32) ∧
    (uses = [] → CtrsBut [Addr.sch x.p 0xC8, Addr.sch x.p 0xF0, Addr.coll x.p 0] s t ∧ (runs = [] → t.free = s.free) ∧
      Keeps [.rings, .graphs, .tasks, .host, .ctrs, .acct, .mem, .free] s t) ∧
    Keeps ([.rings, .graphs, .tasks, .host, .acct] ++ wrote) s t)

/-- `v` is the next attempt of unit `u` of task `x` on engine `k`: it starts from its spill image, or from its first chunk, with nothing
arrived, bound to its table bank, and, unless it has an image or the product accumulates, with every sum +0 and nothing counted. -/
def State.Attempt (s : State) (x : TaskRec) (u : UnitRec) (k : Nat) (v : UnitRec) : Prop :=
  v.uid = u.uid ∧ (v.b, v.rb, v.ct, v.part, v.die) = (u.b, u.rb, u.ct, u.part, u.die) ∧ v.eng = k ∧ v.attempt = u.attempt + 1 ∧
    v.phase = .issued ∧ v.first = u.first ∧ v.len = (x.sliceOn u.die).getD 0 ∧ v.arrived = [] ∧ v.staged = [] ∧ v.spilled = false ∧
    v.fails = u.fails ∧ v.moved = u.moved ∧ v.image = u.image ∧ v.bank = s.bindBank x u ∧ v.base = v.next ∧ v.start = v.next ∧
    (∀ im, u.image = some im → v.next = im.next ∧ v.acc = im.acc ∧ v.sat = im.sat) ∧
    (u.image = none → v.next = u.first ∧ v.sat = 0 ∧
      ((x.ctrl 11 11 = 0 ∨ u.part ≠ 0) → ∀ pl ∈ v.acc, ∀ c ∈ pl, c = ⟨f32Zero, f32Zero⟩))

/-- `v` is unit `u` after one more failed attempt (R96, R97): repeated on the same engine, from its spill image where it has one, then
moved, then abandoned. -/
def FailedOnce (u v : UnitRec) : Prop :=
  v.uid = u.uid ∧ v.fails = u.fails + 1 ∧ v.acc = [] ∧ v.arrived = [] ∧ v.attempt = u.attempt ∧ v.again = true ∧
    (u.moved = true → v.phase = .abandoned ∧ v.image = none) ∧
    (u.moved = false → u.fails = 0 → v.phase = .failed ∧ v.redo = 1 ∧ v.moved = false ∧ v.image = u.image ∧ v.why = 9) ∧
    (u.moved = false → u.fails ≠ 0 →
      v.phase = .failed ∧ v.redo = 2 ∧ v.moved = true ∧ v.movedFrom = u.eng ∧ v.image = u.image ∧ v.why = 9)

/-- Tile `u` of task `x` has drained without an epilogue: `y` is the task, one write for each row of each plane is on its way under the
engine's tag and the tile's attempt, and no byte of memory has changed. -/
def State.Drained (s : State) (x : TaskRec) (u : UnitRec) (env : DrainEnv) (t : State) (y : TaskRec) : Prop :=
  t.task x.tid = some y ∧ (∃ v, y.unit u.uid = some v ∧ v.phase = .drained ∧ v.attempt = u.attempt ∧ v.eng = u.eng ∧ v.acc = []) ∧
    y.cyc = x.cyc + (if u.again then 0 else env.clocks) ∧ TasksBut x.tid s t ∧
    (∃ new, t.flights = s.flights ++ new ∧ new.length = (if x.complex = 0 then 1 else 2) * (x.tileRows u).length ∧
      ∀ f ∈ new, f.die = u.die ∧ f.what = 0 ∧ f.eng = u.eng ∧ f.tid = x.tid ∧ f.uid = u.uid ∧ f.attempt = u.attempt ∧
        f.tag = s.rd (Addr.mxe u.die u.eng 0) 47 32) ∧
    t.ctr (Addr.mxe u.die u.eng 0x28) = s.ctr (Addr.mxe u.die u.eng 0x28) + 1 ∧
    Keeps [.tasks, .ctrs, .acct, .tenants, .flights] s t

/-- The counters that a chunk of a tile of partition `p` on engine `k` of die `d` can move: the engine's, the load path's, the function
tables', the vector engines', the draws, and the retry clocks. -/
def chunkCtrs (d k p : Nat) : List Nat :=
  [Addr.mxe d k 0x20, Addr.mxe d k 0x30, Addr.mxe d k 0x48, Addr.rng p 0x10, Addr.sch p 0x108] ++
    [0x10, 0x18, 0x20, 0x28, 0x30].map (Addr.conv d) ++ [0x18, 0x20, 0x28, 0x30].map (Addr.ft d) ++
    (List.range 16).flatMap fun j => [0x10, 0x18, 0x20].map (Addr.vxe d j)

/-- The address lies in one of the ranges. -/
def inRngs (rs : List Rng) (a : Nat) : Bool := rs.any fun r => r.rows.any fun x => decide (x.1 ≤ a ∧ a < x.1 + x.2)

/-- The outcome of task `x` is decided with status `st`: its record keeps everything else but its slices and what its units held, and no
other task changes. -/
def Ended (x : TaskRec) (st : Nat) (s t : State) : Prop :=
  (∃ us, t.task x.tid = some { x with phase := .ended, status := st, slices := [], units := us, ran := x.runs st }) ∧ TasksBut x.tid s t

/-- A page has started its way to a tier, and to a die where that is the tile store (R327): its entry reads MIGRATING there from where it
lies, and one more migration stands, with nothing dirty and its first pass to make. No byte changes. -/
def MigStarted (page tier die : Nat) (ev : Bool) (s t : State) : Prop :=
  rtState (t.rt page) = 3 ∧ rtDest (t.rt page) = tier ∧ rtTier (t.rt page) = rtTier (s.rt page) ∧
    rtFrame (t.rt page) = rtFrame (s.rt page) ∧ rtAttr (t.rt page) = rtAttr (s.rt page) ∧ (∀ pg, pg ≠ page → t.rt pg = s.rt pg) ∧
    t.migs.length = s.migs.length + 1 ∧ (∀ m ∈ s.migs, m.page ≠ page → m ∈ t.migs) ∧
    (∃ m ∈ t.migs, m.page = page ∧ m.tier = tier ∧ m.dirty = [] ∧ m.passes = 0 ∧ m.held = false ∧ m.evict = ev ∧ (tier = 1 → m.die = die)) ∧
    t.frames = s.frames ∧ Keeps [.pages, .moves, .free] s t

/-- A migration of a RESIDENT page to a tier can start: the rules of placement send the page there, which has a free frame, and it does
not stay in its own. -/
def State.MayMove (s : State) (page tier die : Nat) : Prop :=
  rtState (s.rt page) = 2 ∧ s.stays page tier die = false ∧ ∃ d, s.movePlace page tier die = some (tier, d) ∧ (tier = 1 → d = die)

/-- Attention task `x` has its units (R215, R224, R261): one for each batch entry, key-value head and block of 128 query rows, on dies
that have a pipeline in service, those skipped and counted whose rows a reuse scope keeps all. It runs, or has ended with ST_OK
when nothing of it is left to do. -/
def AttnStarted (x : TaskRec) (s t : State) : Prop :=
  ∃ y, t.task x.tid = some y ∧ TasksBut x.tid s t ∧
    y.units.length = x.aBatch * x.aHkv * ceilDiv (x.aM * x.aG) 128 ∧
    (∀ u ∈ y.units, s.diePipes u.die = true ∧ u.attempt = 0 ∧
      u.phase = if (x.atRows u).all (fun r => s.atReused x u.b r.1) then .skipped else .todo) ∧
    (∀ b g q, b < x.aBatch → g < x.aHkv → q < ceilDiv (x.aM * x.aG) 128 → ∃ u ∈ y.units, u.b = b ∧ u.ct = g ∧ u.rb = q) ∧
    (if y.units.all (fun u => u.phase == .skipped) then y.phase = .ended ∧ y.status = 0
     else { y with units := x.units, kvUsed := x.kvUsed } = { x with phase := .running, mark := 0 }) ∧
    t.ctr (Addr.reuse x.p 0x30) =
      s.ctr (Addr.reuse x.p 0x30) + BitVec.ofNat 64 (y.units.filter fun u => u.phase == .skipped).length

/-- A message of a start for every other member of its list. -/
def State.toOthers (s : State) (r : StartRec) (kind : StartKind) (count : Nat) : List Out :=
  (r.list.filter fun e => e != s.selfEntry r.p).map fun e =>
    .start e { kind := kind, group := r.group, seq := r.seq, p := e / 65536, method := r.method, list := r.list,
               sender := s.selfEntry r.p, count := count }

/-- The `n` addresses from `a`. -/
def span (a n : Nat) : List Nat := (List.range n).map (a + ·)

/-- Partition `p` has been reset (R408): its state reads RESETTING, none of its graphs, tasks of those graphs, sessions, mapped pages and
their bytes is left, its counters read 0 but that of cleared KEEPs, which counts those of the reset itself (log 131), and what belongs to
others stays. -/
def PartGone (p : Nat) (s t : State) : Prop :=
  t.pstate p = 4 ∧ (∀ g ∈ t.graphs, g.p ≠ p) ∧ (∀ x ∈ t.sessions, x.p ≠ p) ∧
  (∀ h ∈ s.graphs, (∀ g ∈ s.graphs, g.p = p → h.gid ≠ g.gid) → h ∈ t.graphs) ∧
  (∀ x ∈ s.tasks, (∀ g ∈ s.graphs, g.p = p → x.gid ≠ g.gid) → x ∈ t.tasks) ∧
  (∀ pg, rtState (s.rt pg) ≠ 0 → rtPart (s.rt pg) = p → t.rt pg = 0 ∧ ∀ a, a / 262144 = pg → t.devByte a = 0) ∧
  (∀ pg, rtState (s.rt pg) = 0 ∨ rtPart (s.rt pg) ≠ p → t.rt pg = s.rt pg ∧ ∀ a, a / 262144 = pg → t.devByte a = s.devByte a) ∧
  (∀ a ∈ s.partCounters p, (a ≠ Addr.keep p 0x20 → t.ctr a = 0) ∧ t.snapOf a = 0) ∧
  t.ctr (Addr.keep p 0x20) = BitVec.ofNat 64 ((s.pagesOf p).filter fun e => rtKeep e.2).length ∧ (∀ q r, q ≠ p → t.ring q r = s.ring q r)

/-- The groups of state that a reset of a partition reaches. -/
def resetGroups : List Group :=
  [.mem, .side, .pages, .moves, .touch, .snaps, .rings, .graphs, .tasks, .flights, .starts, .colls, .codec, .kv, .books, .tables, .seeds, .reuse, .regs,
   .ctrs, .ctx, .host, .outs]

end Sys2Proof.Machine
end

