-- ==== Sys2Proof/Certificates/Slice0/Obligations.lean ====
section
/-! DEFINITION. The statements for the provers: what the commands of the block do, by the rules of the spec. -/
open Sys2Proof Sys2Proof.Machine

/-- The step: the front of the queue runs with the queue's rest. Idling on an empty queue is the model's choice (log 1). -/
def Obligations.StepTakesFront : Prop :=
  (∀ (s : State) (c : Instr) (rest : List Instr), s.pending = c :: rest → step s = exec c { s with pending := rest }) ∧
  (∀ s : State, s.pending = [] → step s = .next s)

/-- No command is refused: a command of the table completes in every state exactly when the hardware has what it names. -/
def Obligations.CommandsRunExactlyWhenWellFormed : Prop :=
  ∀ (c : Instr) (s : State), (c.wellFormed = true → ∃ t, exec c s = .next t) ∧ (c.wellFormed = false → exec c s = .fault .noSuchUnit)

/-- The invariant of the queue. No command puts another one into the queue. -/
def Obligations.QueueStaysSound : Prop :=
  ∀ s : State, s.queueWf = true → ∃ t, step s = .next t ∧ t.queueWf = true ∧ t.pending = s.pending.tail

/-- The invariant of the memories and tables: equal contents stay equal data. -/
def Obligations.TablesStayCanonical : Prop :=
  ∀ s t : State, s.maps.wf = true → step s = .next t → t.maps.wf = true

/-- The state after reset. Registers marked "formation" hold their stated default (the model's choice, log 5). -/
def Obligations.ResetState : Prop :=
  State.reset.maps.wf = true ∧ State.reset.queueWf = true ∧ State.reset.pending = [] ∧ State.reset.tasks = [] ∧ State.reset.graphs = [] ∧
    State.reset.parts = [] ∧ State.reset.boot = .off ∧ State.reset.ready = false ∧ State.reset.fatal = false ∧
    State.reset.rd 0x100000 31 16 = 10 ∧ State.reset.rd 0xA00008 10 0 = 1650 ∧ State.reset.rd 0xA00008 26 16 = 1650 ∧
    State.reset.rd 0xA0000C 10 0 = 1650 ∧ State.reset.rd 0xA00000 15 8 = 64 ∧ State.reset.taskRetries = 2 ∧
    State.reset.rd 0x700000 3 0 = 3 ∧ State.reset.rd 0x700000 23 16 = 64 ∧ State.reset.rd 0x700000 31 24 = 100 ∧
    (∀ p r, p < 8 → r < 16 → State.reset.enabled p r = false) ∧ (∀ a, State.reset.ctr a = 0) ∧ (∀ a, State.reset.snapOf a = 0) ∧
    (∀ p t, p < 8 → t < 256 → State.reset.rd (Addr.weight p t) 7 0 = 1)

/-- R9, R11, R507, R594, R599: writes by bit types, and writes that are ignored. -/
def Obligations.RegisterWritesFollowTheirType : Prop :=
  (∀ (s : State) (fn off bytes : Nat) (v : W64) (d : RegDef), s.maps.wf = true → fn ≤ 8 → fn ≤ s.numVfs → off < 0x4000000 →
    regAt off = some d → bytes = d.width / 8 → s.answers off = true → s.mayWrite fn d off = true → s.ownRow off d v = false →
    d.name ∉ ["HIF_WIN", "SCH_FRAME_CFG", "SCH_SQ_BASE", "SCH_CQ_BASE", "SCH_RING_CFG", "SYN_MODE", "PWR_CAP", "RAS_SB_CTRL"] →
    ∃ t, exec (.registerWrite fn off bytes v) s = .next t ∧
      (∀ i, i < 64 → (t.reg off).getLsbD i =
        (if d.w1c.testBit i && v.getLsbD i then false else if d.rw.testBit i then v.getLsbD i else (s.reg off).getLsbD i)) ∧
      RegsBut [off] s t ∧ Keeps [.regs] s t) ∧
  (∀ (s : State) (fn off bytes : Nat) (v : W64), fn ≤ 8 → fn ≤ s.numVfs → off < 0x4000000 →
    (regAt off = none → badAccess off bytes = false → exec (.registerWrite fn off bytes v) s = .next s) ∧
    (∀ d, regAt off = some d → bytes = d.width / 8 → s.mayWrite fn d off = false ∨ s.answers off = false →
      exec (.registerWrite fn off bytes v) s = .next s))

/-- The registers whose writes have a rule of their own (R415, R416, R466, R532, R590, R591). -/
def Obligations.RegisterWriteLimits : Prop :=
  ∀ (s : State) (v : W64), s.maps.wf = true →
    (s.answers 0xA00008 = true →
      ∃ t, exec (.registerWrite 0 0xA00008 4 v) s = .next t ∧ t.rd 0xA00008 10 0 = max 400 (min 1650 (getBits v 10 0)) ∧
        t.rd 0xA00008 63 11 = s.rd 0xA00008 63 11 ∧ RegsBut [0xA00008] s t ∧ Keeps [.regs] s t) ∧
    (s.answers 0x100000 = true → getBits v 31 16 = 0 ∨ 1000 < getBits v 31 16 → exec (.registerWrite 0 0x100000 8 v) s = .next s) ∧
    (s.answers 0x100000 = true → 1 ≤ getBits v 31 16 → getBits v 31 16 ≤ 1000 →
      ∃ t, exec (.registerWrite 0 0x100000 8 v) s = .next t ∧ t.rd 0x100000 31 16 = getBits v 31 16 ∧
        t.rd 0x100000 15 0 = s.rd 0x100000 15 0 ∧ t.rd 0x100000 63 32 = s.rd 0x100000 63 32 ∧ RegsBut [0x100000] s t ∧
        Keeps [.regs] s t) ∧
    (∀ p r a, p < 8 → r < 16 → a = Addr.sqBase p r ∨ a = Addr.cqBase p r → s.answers a = true →
      (s.enabled p r = true → exec (.registerWrite 0 a 8 v) s = .next s) ∧
      (s.enabled p r = false →
        ∃ t, exec (.registerWrite 0 a 8 v) s = .next t ∧ t.rd a 63 12 = getBits v 63 12 ∧ t.rd a 11 0 = s.rd a 11 0 ∧ RegsBut [a] s t ∧
          Keeps [.regs] s t)) ∧
    (∀ p r a, p < 8 → r < 16 → a = Addr.ringCfg p r → s.answers a = true → getBits v 17 17 = s.rd a 17 17 →
      ∃ t, exec (.registerWrite 0 a 4 v) s = .next t ∧ t.rd a 31 24 = getBits v 31 24 ∧
        (s.enabled p r = true → t.rd a 23 0 = s.rd a 23 0) ∧
        (s.enabled p r = false → t.rd a 18 18 = getBits v 18 18 ∧ t.rd a 12 8 = getBits v 12 8 ∧ t.rd a 4 0 = getBits v 4 0) ∧
        RegsBut [a] s t ∧ Keeps [.regs] s t) ∧
    (∀ p a, p < 8 → a = Addr.syn p 0 → s.answers a = true →
      ∃ t, exec (.registerWrite 0 a 8 v) s = .next t ∧ t.rd a 31 0 = getBits v 31 0 ∧
        t.rd a 47 32 = (if getBits v 47 32 = 0 then s.rd a 47 32 else getBits v 47 32) ∧ t.rd a 63 48 = s.rd a 63 48 ∧ RegsBut [a] s t ∧
        Keeps [.regs] s t) ∧
    (∀ fn, fn ≤ 8 → fn ≤ s.numVfs → s.answers 0x20 = true →
      ∃ t, exec (.registerWrite fn 0x20 8 v) s = .next t ∧ t.rd (winKey fn 0x20) 39 18 = getBits v 39 18 ∧
        t.rd (winKey fn 0x20) 50 48 = (if fn = 0 then getBits v 50 48 else s.rd (winKey fn 0x20) 50 48) ∧
        RegsBut [winKey fn 0x20] s t ∧ Keeps [.regs] s t) ∧
    (s.answers 0x709008 = true →
      ∃ t, exec (.registerWrite 0 0x709008 4 v) s = .next t ∧
        t.rd 0x709008 7 4 = (if getBits v 7 4 ≤ 8 then getBits v 7 4 else s.rd 0x709008 7 4) ∧
        t.sb.waiting = s.sb.waiting ++ (if getBits v 0 0 = 1 ∧ s.sb.flushing.isNone = true then [4] else []) ∧
        { t.sb with waiting := s.sb.waiting } = s.sb ∧ RegsBut [0x709008] s t ∧ Keeps [.regs, .sb] s t)

/-- R10: refused accesses. -/
def Obligations.BadAccessRecorded : Prop :=
  ∀ (s : State) (fn off bytes : Nat) (w : Bool), s.maps.wf = true → fn ≤ 8 → fn ≤ s.numVfs → off < 0x4000000 →
    badAccess off bytes = true →
    ∃ t, exec (.badRegisterAccess fn off bytes w) s = .next t ∧ t.ctr 0x120 = s.ctr 0x120 + 1 ∧
      (s.sb.held = false → t.sb.head = s.sb.head + 1 ∧ (t.sb.recs.map SbRec.code).head? = some 0x1 ∧ t.ctr dropped = s.ctr dropped) ∧
      (s.sb.held = true → t.sb = s.sb ∧ t.ctr dropped = s.ctr dropped + 1) ∧
      Says (if w then [] else [.readData fn (List.replicate (4 * ((bytes + 3) / 4)) 0xFF#8)]) s t ∧
      CtrsBut [0x120, dropped] s t ∧ Keeps [.ctrs, .sb, .outs] s t ∧
      (w = true → ∀ v, exec (.registerWrite fn off bytes v) s = .next t)

/-- R11, R183, R342, R343, R462, R582, R591: snapshots. The clause for VXE_SNAP is R183. -/
def Obligations.SnapshotsCopy : Prop :=
  ∀ s : State, s.maps.wf = true →
    (∀ d k, d < 8 → k < 16 → s.answers (Addr.vxe d k 8) = true →
      ∃ t, exec (.snapTake 0 (Addr.vxe d k 8)) s = .next t ∧ (∀ i, i < 4 →
        t.snapOf (Addr.vxe d k (0x10 + 8 * i)) = s.ctr (Addr.vxe d k (0x10 + 8 * i))) ∧
        (∀ a, a ∉ run64 (Addr.vxe d k 0x10) 4 → t.snapOf a = s.snapOf a) ∧ Keeps [.snaps] s t) ∧
    (∀ fn off, fn ≤ 8 → s.snapAllowed fn off = true → off ∉ [0x200008, 0x709010, 0x709050, 0x900010] →
      ¬(0x201000 ≤ off ∧ off < 0x209000) →
      ∃ t, exec (.snapTake fn off) s = .next t ∧ (∀ a ∈ snapMembers off, t.snapOf a = s.ctr a) ∧
        (∀ a, a ∉ snapMembers off → t.snapOf a = s.snapOf a) ∧ Keeps [.snaps] s t) ∧
    (∀ fn off, fn ≤ 8 → s.snapAllowed fn off = false → exec (.snapTake fn off) s = .next s) ∧
    (s.snapAllowed 0 0x900010 = true →
      ∃ t, exec (.snapTake 0 0x900010) s = .next t ∧ t.snapOf 0x900018 = s.reg 0x900008 ∧
        (∀ i, i < 5 → t.snapOf (0x900060 + 8 * i) = s.ctr (0x900060 + 8 * i)) ∧ CtrsBut [0x900018] s t ∧ Keeps [.snaps, .ctrs] s t) ∧
    (∀ fn p, fn ≤ 8 → p < 8 → s.snapAllowed fn (Addr.memp p 0) = true →
      ∃ t, exec (.snapTake fn (Addr.memp p 0)) s = .next t ∧ t.snapOf (Addr.memp p 0x38) = BitVec.ofNat 64 (s.pagesOf p).length ∧
        (∀ n, n = 2 ∨ n = 3 → getBits (t.snapOf (Addr.memp p (0x8 + 8 * n))) 23 0 = s.poolFrames p n 0 % pow2 24 ∧
          getBits (t.snapOf (Addr.memp p (0x8 + 8 * n))) 47 24 = s.freeFrames p n 0 % pow2 24) ∧
        (∀ a ∈ run64 (Addr.memp p 0x40) 13, t.snapOf a = s.ctr a) ∧
        CtrsBut (Addr.memp p 0x38 :: run64 (Addr.memp p 0x10) 3) s t ∧ Keeps [.snaps, .ctrs] s t) ∧
    (∀ fn, fn ≤ 8 → s.snapAllowed fn 0x200008 = true →
      ∃ t, exec (.memRtSnapTake fn) s = .next t ∧ t.snapOf 0x200010 = s.rtEntry (s.rd 0x200000 21 0) ∧
        (rtState (s.rt (s.rd 0x200000 21 0)) ≠ 0 → t.snapOf 0x200010 = s.rt (s.rd 0x200000 21 0)) ∧
        (∀ a, a ≠ 0x200010 → t.snapOf a = s.snapOf a) ∧ CtrsBut [0x200010] s t ∧ Keeps [.snaps, .ctrs] s t) ∧
    (∀ fn, fn ≤ 8 → s.snapAllowed fn 0x709010 = true →
      ∃ t, exec (.rasSbSnapTake fn) s = .next t ∧ t.rd 0x709000 2 2 = (if s.sbSelect.isSome then 1 else 0) ∧
        (∀ ws, s.sbSelect = some ws → ∀ i, i < 4 → t.snapOf (0x709018 + 8 * i) = ws.getD i 0) ∧
        t.snapOf 0x709040 = s.ctr 0x709040 ∧ t.snapOf 0x709048 = s.ctr 0x709048 ∧ RegsBut [0x709000] s t ∧
        CtrsBut (run64 0x709018 4) s t ∧ Keeps [.snaps, .ctrs, .regs] s t) ∧
    (s.snapAllowed 0 0x709050 = true →
      ∃ t, exec (.rasSnapAllTake 0) s = .next t ∧
        (∀ c ∈ snapControls, s.answers c = true → ∀ a ∈ snapMembers c, a ≠ 0x200010 → a ≠ 0x900018 →
          ¬(0x201000 ≤ a ∧ a < 0x209000) → ¬(0x709018 ≤ a ∧ a < 0x709038) → t.snapOf a = s.ctr a) ∧
        RegsBut [0x709000] s t ∧ Keeps [.snaps, .ctrs, .regs] s t)

/-- R539: each minimum only increases. -/
def Obligations.SecurityMinimumsNeverFall : Prop :=
  ∀ s t : State, step s = .next t → s.fuses.fwMin ≤ t.fuses.fwMin ∧ s.fuses.formMin ≤ t.fuses.formMin

/-- R397, R400, R416: setting and clearing ENABLE. -/
def Obligations.RingEnableAndDisable : Prop :=
  (∀ (s : State) (fn p r : Nat) (v : W32) (host : List HostStore), s.maps.wf = true → fn ≤ 8 → p < 8 → r < 16 →
    s.answers (Addr.ringCfg p r) = true → s.fnReaches fn p = true → s.enabled p r = false → fld v.toNat 17 17 = 1 →
    (s.enableBad p r v = true →
      ∃ t, exec (.ringEnable fn p r v host) s = .next t ∧ t.enabled p r = false ∧ t.rd (Addr.ringStatus p r) 0 0 = 1 ∧
        RegsBut [Addr.ringCfg p r, Addr.ringStatus p r] s t ∧ (∀ b, t.hostByte b = (s.hostStores host).hostByte b) ∧
        Keeps [.regs, .host] s t) ∧
    (s.enableBad p r v = false →
      ∃ t, exec (.ringEnable fn p r v host) s = .next t ∧ t.enabled p r = true ∧
        t.reg (Addr.ringCfg p r) = BitVec.ofNat 64 (v.toNat &&& 0xFF061F1F) ∧
        (t.ring p r).taken = (s.hostStores host).hostNat (s.sq p r + 8) 4 ∧
        (t.ring p r).written =
          (if (s.ring p r).kept = [] then (s.hostStores host).hostNat (s.cq p r + 8) 4 else (s.ring p r).written) ∧
        (t.ring p r).consumer = (s.hostStores host).hostNat (s.cq p r) 4 ∧ (t.ring p r).lost = false ∧
        (t.ring p r).kept = (s.ring p r).kept ++
          (if fld v.toNat 18 18 = 1 ∧ (s.ring p r).lost = true then
            let low := (s.hostStores host).hostNat (s.sq p r + 12) 4
            (((List.range (((t.ring p r).taken + pow2 32 - low) % pow2 32)).map fun i => (low + i) % pow2 32).filter fun q =>
              !(s.graphs.any fun g => g.p == p && g.r == r && g.seq == q)).map fun q =>
                { user := 0, seq := q, idx := 0xFFFF, status := 0x30, flags := 0, cyc := 0,
                  frame := (s.reg 0x100008).toNat % pow2 32, aux := 0 }
          else []) ∧
        t.rd (Addr.ringStatus p r) 1 1 = (if t.cqFull p r then 1 else 0) ∧
        (∀ p' r', (p', r') ≠ (p, r) → t.ring p' r' = s.ring p' r') ∧ t.reading = s.reading ∧
        RegsBut [Addr.ringCfg p r, Addr.ringStatus p r] s t ∧ (∀ b, t.hostByte b = (s.hostStores host).hostByte b) ∧
        Keeps [.regs, .host, .rings] s t)) ∧
  (∀ (s : State) (fn p r : Nat) (v : W32), s.maps.wf = true → fn ≤ 8 → p < 8 → r < 16 → s.answers (Addr.ringCfg p r) = true →
    s.fnReaches fn p = true → s.enabled p r = true → fld v.toNat 17 17 = 0 →
    ∃ t, exec (.ringDisable fn p r v) s = .next t ∧ t.enabled p r = false ∧
      t.rd (Addr.ringCfg p r) 31 24 = fld v.toNat 31 24 ∧ t.rd (Addr.ringCfg p r) 16 0 = s.rd (Addr.ringCfg p r) 16 0 ∧
      t.rd (Addr.ringCfg p r) 23 18 = s.rd (Addr.ringCfg p r) 23 18 ∧ t.rd (Addr.ringStatus p r) 1 1 = 0 ∧
      t.rings = s.rings ∧ RegsBut [Addr.ringCfg p r, Addr.ringStatus p r] s t ∧ Keeps [.regs, .rings] s t)

/-- R393, R394: the end of a ring read. `h` is the state with the host's stores; the sequence number of the i-th entry taken counts on from
the taken count. -/
def Obligations.RingReadTakesEntries : Prop :=
  ∀ (s h : State) (p r : Nat) (tick : Bool) (host : List HostStore) (n : Nat), s.maps.wf = true → p < 8 → r < 16 →
    h = s.hostStores host → (s.reading.find? fun x => x.1 == p && x.2.1 == r) = some (p, r, tick) →
    s.serving p = true → s.enabled p r = true →
    n = (h.hostNat (s.sq p r) 4 + pow2 32 - (s.ring p r).taken) % pow2 32 →
    (s.sqSize p r < n →
      ∃ t, exec (.ringReadComplete p r host) s = .next t ∧ t.rd (Addr.ringStatus p r) 2 2 = 1 ∧
        t.ctr (Addr.sch p 0xE0) = s.ctr (Addr.sch p 0xE0) + 1 ∧ (t.ring p r).taken = (s.ring p r).taken ∧
        t.graphs = s.graphs ∧ (∀ b, t.hostByte b = h.hostByte b) ∧ RegsBut [Addr.ringStatus p r] s t ∧
        CtrsBut [Addr.sch p 0xE0, dropped] s t ∧ Keeps [.host, .rings, .regs, .ctrs, .sb] s t) ∧
    (n ≤ s.sqSize p r →
      ∃ (t : State) (k : Nat), exec (.ringReadComplete p r host) s = .next t ∧ k ≤ n ∧ (k < n → 4096 ≤ (t.placed p).2) ∧
        (t.ring p r).taken = (if k = 0 then (s.ring p r).taken else ((s.ring p r).taken + k) % pow2 32) ∧
        (∀ i, i < k → ∃ g ∈ t.graphs, g.gid = s.nextGid + i ∧ g.p = p ∧ g.r = r ∧ g.phase = .taken ∧
          g.seq = (if i = 0 then (s.ring p r).taken else ((s.ring p r).taken + i) % pow2 32) ∧
          g.addr = h.hostNat (s.sq p r + 64 + 16 * (g.seq % s.sqSize p r)) 8 ∧
          g.arg = h.hostNat (s.sq p r + 72 + 16 * (g.seq % s.sqSize p r)) 8) ∧
        (∀ g ∈ s.graphs, g ∈ t.graphs) ∧ t.graphs.length = s.graphs.length + k ∧
        t.ctr (Addr.sch p 0xD0) = s.ctr (Addr.sch p 0xD0) + BitVec.ofNat 64 k ∧
        t.ctr (Addr.sch p 0xD8) = s.ctr (Addr.sch p 0xD8) + (if k < n ∧ tick = true then 1 else 0) ∧
        t.hostNat (s.sq p r + 8) 4 = (t.ring p r).taken % pow2 32 ∧ t.hostNat (s.sq p r + 12) 4 = t.doneLow p r % pow2 32 ∧
        (∀ b, b < s.sq p r + 8 ∨ s.sq p r + 16 ≤ b → t.hostByte b = h.hostByte b) ∧
        t.reading = (s.reading.filter fun x => !(x.1 == p && x.2.1 == r)) ∧
        (∀ p' r', (p', r') ≠ (p, r) → t.ring p' r' = s.ring p' r') ∧ RegsBut [Addr.ringStatus p r] s t ∧
        CtrsBut [Addr.sch p 0xD0, Addr.sch p 0xD8] s t ∧ Keeps [.host, .rings, .graphs, .regs, .ctrs] s t)

/-- R382, R394: admission of a graph. -/
def Obligations.GraphsEnterTheTaskTable : Prop :=
  (∀ (s : State) (g : GraphRec), s.memGood → g.p < 8 → g.r < 16 → s.serving g.p = true →
    s.hasTurn .admission s.admitWaiting g.p = true →
    (s.graphs.find? fun x => x.p == g.p && x.phase == .taken) = some g → g.addr % 64 = 0 → s.rangeFault g.p g.addr 64 = none →
    s.headerOk g = true →
    ((g.recompute.isSome = true ∨ ((s.graphs.any fun x => x.p == g.p && x.phase == .backlog) = false ∧
        s.quotaUsed g.p + s.devNat g.addr 2 ≤ ((s.part g.p).map PartRec.quota).getD 0)) → s.tablesOk g →
      ∃ t, exec (.graphAdmit g.p g.r g.seq none) s = .next t ∧ Admitted g s t ∧ AgesOnly s t ∧ CtrsBut hostCtrs s t ∧
        Keeps [.graphs, .tasks, .pages, .ctrs, .rounds] s t) ∧
    (g.recompute = none → ((s.graphs.any fun x => x.p == g.p && x.phase == .backlog) = true ∨
        ((s.part g.p).map PartRec.quota).getD 0 < s.quotaUsed g.p + s.devNat g.addr 2) →
      ∃ t, exec (.graphAdmit g.p g.r g.seq none) s = .next t ∧
        t.graphs = (s.graphs.map fun x => if x.gid = g.gid then { x with phase := .backlog } else x) ∧
        t.nextGid = s.nextGid ∧ AgesOnly s t ∧ CtrsBut hostCtrs s t ∧ Keeps [.graphs, .pages, .ctrs, .rounds] s t)) ∧
  (∀ (s : State) (g : GraphRec), s.memGood → g.p < 8 → s.serving g.p = true → s.hasTurn .admission s.admitWaiting g.p = true →
    (s.graphs.find? fun x => x.p == g.p && x.phase == .backlog) = some g →
    s.quotaUsed g.p + s.devNat g.addr 2 ≤ ((s.part g.p).map PartRec.quota).getD 0 → s.tablesOk g →
    ∃ t, exec (.backlogAdmit g.p none) s = .next t ∧ Admitted g s t ∧ AgesOnly s t ∧ CtrsBut hostCtrs s t ∧
      Keeps [.graphs, .tasks, .pages, .ctrs, .rounds] s t) ∧
  (∀ (s : State) (p r seq : Nat), p < 8 → r < 16 → s.hasTurn .admission s.admitWaiting p = false →
    exec (.graphAdmit p r seq none) s = .next s ∧ exec (.backlogAdmit p none) s = .next s) ∧
  (∀ (s : State) (g : GraphRec) (st : Nat), s.maps.wf = true → g.p < 8 → g.r < 16 → s.serving g.p = true → g.recompute = none →
    s.hasTurn .admission s.admitWaiting g.p = true →
    (s.graphs.find? fun x => x.p == g.p && x.phase == .taken) = some g → g.addr % 64 = 0 → s.rangeFault g.p g.addr 64 = none →
    (s.lost (g.addr / 4096) = true ∧ st = 0x22 ∨ s.memGood ∧ s.headerOk g = false ∧ st = 0x10) →
    ∃ t, exec (.graphAdmit g.p g.r g.seq none) s = .next t ∧
      (t.ring g.p g.r).kept = (s.ring g.p g.r).kept ++
        [{ user := 0, seq := g.seq, idx := 0xFFFF, status := st, flags := 0, cyc := 0,
           frame := (s.reg 0x100008).toNat % pow2 32, aux := 0 }] ∧
      t.graphs = s.graphs.filter (fun x => x.gid != g.gid) ∧ t.tasks = s.tasks.filter (fun x => x.gid != g.gid) ∧
      (∀ p' r', (p', r') ≠ (g.p, g.r) → t.ring p' r' = s.ring p' r') ∧
      (∀ b, b < s.sq g.p g.r + 8 ∨ s.sq g.p g.r + 16 ≤ b → t.hostByte b = s.hostByte b) ∧
      AgesOnly s t ∧ CtrsBut hostCtrs s t ∧ Keeps [.rings, .graphs, .tasks, .host, .pages, .ctrs, .rounds] s t)

/-- R395 to R398: one completion entry. -/
def Obligations.CompletionEntryReachesTheRing : Prop :=
  (∀ (s : State) (p r : Nat) (e : CqEntry) (rest : List CqEntry) (a n : Nat), s.maps.wf = true → p < 8 → r < 16 →
    (s.ring p r).kept = e :: rest → s.ready = true → s.stopped = false → s.enabled p r = true → s.cqFull p r = false →
    s.hasTurn .entries s.entryWaiting p = true →
    n = (s.ring p r).written → a = s.cq p r + 64 + 32 * (n % s.cqSize p r) →
    ∃ t, exec (.completionEntryWrite p r) s = .next t ∧ t.hostNat a 8 = e.user % pow2 64 ∧ t.hostNat (a + 8) 4 = e.seq % pow2 32 ∧
      t.hostNat (a + 12) 2 = e.idx % pow2 16 ∧
      t.hostNat (a + 14) 1 = e.status % 64 + (if n / s.cqSize p r % 2 = 0 then 128 else 0) ∧
      t.hostNat (a + 15) 1 = e.flags % 256 ∧ t.hostNat (a + 16) 8 = e.cyc % pow2 64 ∧ t.hostNat (a + 24) 4 = e.frame % pow2 32 ∧
      t.hostNat (a + 28) 4 = e.aux % pow2 32 ∧ t.hostNat (s.cq p r + 8) 4 = (n + 1) % pow2 32 ∧
      (t.ring p r).written = (n + 1) % pow2 32 ∧ (t.ring p r).kept = rest ∧
      (s.rd (Addr.ringCfg p r) 31 24 = 0 → Says ((s.fnOfPart p).toList.map fun fn => Out.msix fn r) s t) ∧
      (s.rd (Addr.ringCfg p r) 31 24 ≠ 0 → (s.ring p r).moderating = false →
        Says ((s.fnOfPart p).toList.map fun fn => Out.msix fn r) s t ∧ (t.ring p r).moderating = true) ∧
      (s.rd (Addr.ringCfg p r) 31 24 ≠ 0 → (s.ring p r).moderating = true →
        Says [] s t ∧ (t.ring p r).unsignalled = (s.ring p r).unsignalled + 1) ∧
      t.rd (Addr.ringStatus p r) 1 1 = (if t.cqFull p r then 1 else 0) ∧
      (∀ b, (b < a ∨ a + 32 ≤ b) → (b < s.cq p r + 8 ∨ s.cq p r + 12 ≤ b) → t.hostByte b = s.hostByte b) ∧
      (∀ p' r', (p', r') ≠ (p, r) → t.ring p' r' = s.ring p' r') ∧ RegsBut [Addr.ringStatus p r] s t ∧
      Keeps [.host, .rings, .outs, .regs, .rounds] s t) ∧
  (∀ (s : State) (p r : Nat), s.maps.wf = true → p < 8 → r < 16 → s.cqFull p r = true →
    ∃ t, exec (.completionEntryWrite p r) s = .next t ∧ t.rings = s.rings ∧ RegsBut [Addr.ringStatus p r] s t ∧ Keeps [.regs] s t) ∧
  (∀ (s : State) (p r : Nat), p < 8 → r < 16 → (s.ring p r).moderating = true →
    ∃ t, exec (.msixModerationExpire p r) s = .next t ∧ (t.ring p r).unsignalled = 0 ∧ (t.ring p r).kept = (s.ring p r).kept ∧
      (t.ring p r).moderating = ((s.ring p r).unsignalled != 0) ∧
      Says (if (s.ring p r).unsignalled = 0 then [] else (s.fnOfPart p).toList.map fun fn => Out.msix fn r) s t ∧
      (∀ p' r', (p', r') ≠ (p, r) → t.ring p' r' = s.ring p' r') ∧ Keeps [.rings, .outs] s t)

/-- R311, R381, R386, R387: admission of a task. -/
def Obligations.TaskAdmissionChecks : Prop :=
  ∀ (s : State) (tid : Nat) (x : TaskRec), s.maps.wf = true → s.memGood → s.task tid = some x → x.phase = .fresh →
    s.serving x.p = true → s.admitHeld x = false → s.openHeld x = false → (s.graphs.any fun g => g.recompute == some tid) = false →
    (∀ y, s.DescOk x y → s.rangesFault x.p (s.taskReads y ++ s.taskWrites y) = none → (y.f 0 1 ≠ 1 ∨ y.aOp = 0) →
      ∃ t, exec (.taskAdmit tid none) s = .next t ∧ t.task tid = some { y with phase := .waiting } ∧ TasksBut tid s t ∧
        CtrsBut hostCtrs s t ∧ Keeps [.tasks, .moves, .pages, .free, .ctrs] s t ∧
        ((∀ pg ∈ s.taskPages y, ¬(rtState (s.rt pg) = 2 ∧ rtTier (s.rt pg) = 3 ∧ rtPlace (s.rt pg) ≠ 3)) →
          AgesOnly s t ∧ Keeps [.tasks, .pages, .ctrs] s t)) ∧
    (∀ y, s.DescOk x y → s.rangesFault x.p (s.taskReads y ++ s.taskWrites y) = none → y.f 0 1 = 1 → y.aOp ≠ 0 → s.atOk y = true →
      s.tooMany y = false → s.missing y = [] →
      ∃ t, exec (.taskAdmit tid none) s = .next t ∧
        t.task tid = some { y with phase := .waiting, pins := (List.range y.aBatch).map y.recAt } ∧ TasksBut tid s t ∧
        CtrsBut hostCtrs s t ∧ Keeps [.tasks, .moves, .pages, .free, .ctrs] s t) ∧
    (∀ y, s.DescOk x y → s.rangesFault x.p (s.taskReads y ++ s.taskWrites y) = none → y.f 0 1 = 1 → y.aOp ≠ 0 →
      s.atOk y = false ∨ s.tooMany y = true →
      ∃ t z, exec (.taskAdmit tid none) s = .next t ∧ t.task tid = some z ∧ z.phase = .ended ∧ z.status = 0x10 ∧ TasksBut tid s t ∧
        AgesOnly s t ∧ CtrsBut hostCtrs s t ∧ Keeps [.tasks, .pages, .ctrs] s t) ∧
    (s.rangeFault x.p x.descAddr 64 = none →
      descSize (bytesNat (s.devBytes x.descAddr 64) 0 1) (bytesNat (s.devBytes x.descAddr 64) 1 1) = none →
      ∃ t y, exec (.taskAdmit tid none) s = .next t ∧ t.task tid = some y ∧ y.phase = .ended ∧ y.status = 0x10 ∧ TasksBut tid s t ∧
        AgesOnly s t ∧ CtrsBut hostCtrs s t ∧ Keeps [.tasks, .pages, .ctrs] s t) ∧
    (∀ y k pg, s.DescOk x y → s.rangesFault x.p (s.taskReads y ++ s.taskWrites y) = some (k, pg) →
      ∃ t z, exec (.taskAdmit tid none) s = .next t ∧ t.task tid = some z ∧ z.phase = .ended ∧ z.status = 0x10 ∧ TasksBut tid s t ∧
        t.ctr (Addr.memp x.p 0x40) = BitVec.ofNat 64 (k * pow2 32 + pg % pow2 24) ∧
        t.ctr (Addr.memp x.p 0x68) = s.ctr (Addr.memp x.p 0x68) + 1 ∧
        AgesOnly s t ∧ CtrsBut (Addr.memp x.p 0x40 :: Addr.memp x.p 0x68 :: hostCtrs) s t ∧ Keeps [.tasks, .pages, .ctrs] s t)

/-- R384, R27, R317: readiness. -/
def Obligations.TaskReadyWaitsForPredecessors : Prop :=
  ∀ (s : State) (tid : Nat) (x : TaskRec), s.task tid = some x →
    (∀ g, x.phase = .waiting → s.graph x.gid = some g → s.graphReleased g = true → (s.preds x).length = x.deps.length →
      (∀ y ∈ s.preds x, y.passed = true) → s.resMayStart x = true →
      (∀ y ∈ s.earlier x, y.desc ≠ [] ∧ usesClash (s.taskUses x) (s.taskUses y) = false) → s.overwrites x = false →
      ∃ t, exec (.taskReady tid) s = .next t ∧ t.task tid = some { x with phase := .ready } ∧ (x.slot = 0 → TasksBut tid s t) ∧
        (∀ q k, (q, k) ≠ (x.p, x.tenant) → t.tenant q k = s.tenant q k) ∧
        (s.tenant x.p x.tenant).vtime ≤ (t.tenant x.p x.tenant).vtime ∧
        (t.tenant x.p x.tenant).charge = (s.tenant x.p x.tenant).charge ∧ Keeps [.tasks, .tenants] s t) ∧
    ((∃ y ∈ s.preds x, y.passed = false) ∨ (s.preds x).length ≠ x.deps.length ∨ s.resMayStart x = false ∨ s.overwrites x = true →
      exec (.taskReady tid) s = .next s)

/-- R15, R25, R384, R385, R399, R405: completion. -/
def Obligations.TasksCompleteOnce : Prop :=
  (∀ (s : State) (tid clocks : Nat) (x : TaskRec), s.maps.wf = true → s.task tid = some x → x.phase = .ended →
    (s.flights.any fun f => f.tid == tid) = false → (s.narrowDue.any fun y => y.1 == tid) = false →
    (s.entryWait.any fun y => y.1 == tid) = false →
    ∃ t, exec (.taskComplete tid clocks) s = .next t ∧
      Completes x x.status x.flags clocks (s.undefRuns x) ((s.leaveUndefined x).completionUse x) s t) ∧
  (∀ (s : State) (tid clocks : Nat) (x y : TaskRec), s.maps.wf = true → s.task tid = some x → x.phase = .waiting →
    (s.preds x).length = x.deps.length → (∀ z ∈ s.preds x, z.phase = .done) → (s.preds x).find? (fun z => !z.passed) = some y →
    ∃ t, exec (.depFailed tid clocks) s = .next t ∧ Completes x y.status (orFlag x.flags 3) clocks [] (s.completionUse x) s t)

/-- R16, R403: issue and shares. -/
def Obligations.IssueFollowsTheOrder : Prop :=
  (∀ (s : State) (d k : Nat) (x : TaskRec) (u : UnitRec), s.maps.wf = true → d < 8 → k < 17 → s.stopped = false →
    (∀ y ∈ s.tasks, s.epochAhead y d = false) → s.pickTask (s.tasks.filter fun y => (s.nextUnit y d k).isSome) = some x →
    s.task x.tid = some x → s.nextUnit x d k = some u → x.unit u.uid = some u → x.f 0 1 = 0 → u.phase = .todo →
    s.lostNeed x u = none →
    ∃ t v, exec (.unitIssue d k []) s = .next t ∧ t.task x.tid = some (x.setUnit v) ∧ s.Attempt x u k v ∧
      TasksBut x.tid s t ∧ t.ctr (Addr.seq d 0x8) = s.ctr (Addr.seq d 0x8) + (if u.part = 0 then 1 else 0) ∧
        CtrsBut [Addr.seq d 0x8] s t ∧ Keeps [.tasks, .ctrs] s t) ∧
  (∀ (s : State) (d k p : Nat) (w : StallWait), s.maps.wf = true → d < 8 → k < 17 → w.d < 8 → s.stopped = false →
    (∀ y ∈ s.tasks, s.nextUnit y d k = none) → s.dieOwner w.d = some p →
    (∀ n, stallCause (s.stallCauses p w.d) = some n →
      ∃ t, exec (.unitIssue d k [w]) s = .next t ∧
        t.ctr (Addr.stall p n) = s.ctr (Addr.stall p n) + BitVec.ofNat 64 w.clocks ∧ CtrsBut [Addr.stall p n] s t ∧
        Keeps [.ctrs] s t) ∧
    (stallCause (s.stallCauses p w.d) = none → exec (.unitIssue d k [w]) s = .next s)) ∧
  (∀ (cs : List Nat) (n : Nat), stallCause cs = some n ↔
    n ∈ cs ∧ n < 14 ∧ (n ≠ 0 → ∀ m ∈ cs, m ≠ 0 → n ≤ m) ∧ (n = 0 → ∀ m ∈ cs, m = 0 ∨ 14 ≤ m)) ∧
  (∀ (s : State) (p d : Nat), ∀ x ∈ s.tasks, x.p = p → d ∈ s.taskDies x → x.phase = .stalled → 5 ∈ s.stallCauses p d) ∧
  (∀ (s : State) (p : Nat), p < 8 →
    ∃ t, exec (.virtualTimeUpdate p) s = .next t ∧ t.tenants.length = s.tenants.length ∧
      (∀ (i : Nat) (x : TenantRec), s.tenants[i]? = some x → x.p = p →
        t.tenants[i]? = some { x with vtime := x.vtime + x.charge * (vtUnit / s.weightOf p x.t), charge := 0 }) ∧
      (∀ (i : Nat) (x : TenantRec), s.tenants[i]? = some x → x.p ≠ p → t.tenants[i]? = some x) ∧ Keeps [.tenants] s t)

/-- R34, R119, R130: slices. -/
def Obligations.SlicesReadTheirLength : Prop :=
  (∀ (s : State) (tid d clocks expect : Nat) (x : TaskRec) (pl : Plan) (L : Nat), s.maps.wf = true → s.memGood → d < 8 →
    s.task tid = some x →
    x.phase = .running → x.sliceOn d = none → d ∈ s.taskDies x → s.serving x.p = true → s.sliceFits clocks expect = true →
    x.f 0 1 = 0 → L = s.lengthOf x →
    pl = x.plan.getD (s.planOf x L) → (∃ u ∈ x.units, u.phase = .todo ∧ x.beyond u L = false ∧ x.f 6 1 = 0) →
    ∃ t y, exec (.sliceStart tid d clocks expect none) s = .next t ∧ t.task tid = some y ∧ y.phase = .running ∧ y.plan = some pl ∧
      y.slices = x.slices ++ [{ die := d, len := L, frame := (s.reg 0x100008).toNat }] ∧ (∀ h ∈ y.halts, h.1 ≠ d) ∧
      (pl.p < 2 → ∀ u ∈ x.units, (if u.die = d ∧ u.phase = .todo ∧
        x.beyond u L = true then { u with phase := .skipped } else u) ∈ y.units) ∧
      (2 ≤ pl.p → (∀ u ∈ x.units, u.part = 0) → y.units.length = pl.p * x.units.length ∧
        ∀ u ∈ x.units, ∀ j, j < pl.p → ∃ v ∈ y.units, v.uid = u.uid * pl.p + j ∧ v.part = j ∧ v.first = j * pl.kc / pl.p ∧
          v.last = (j + 1) * pl.kc / pl.p ∧ (v.b, v.rb, v.ct) = (u.b, u.rb, u.ct) ∧ (j = 0 → v.die = u.die)) ∧
      TasksBut tid s t ∧ AgesOnly s t ∧ CtrsBut (Addr.seq d 0x10 :: Addr.reuse x.p 0x30 :: hostCtrs) s t ∧
      Keeps [.tasks, .ctrs, .pages] s t) ∧
  (∀ (s : State) (tid d clocks expect : Nat) (x : TaskRec), s.maps.wf = true → s.memGood → d < 8 → s.task tid = some x →
    x.phase = .running → x.sliceOn d = none → d ∈ s.taskDies x → s.serving x.p = true → x.f 0 1 = 1 →
    (s.sliceFits clocks expect = true →
      ∃ t, exec (.sliceStart tid d clocks expect none) s = .next t ∧
        t.task tid = some { x with
          slices := x.slices ++ [{ die := d, len := s.lengthOf x, frame := (s.reg 0x100008).toNat }],
          halts := x.halts.filter fun h => h.1 != d } ∧
        TasksBut tid s t ∧ AgesOnly s t ∧ CtrsBut hostCtrs s t ∧ Keeps [.tasks, .ctrs, .pages] s t)) ∧
  (∀ (s : State) (tid d clocks expect : Nat) (f : Option ReadFault), d < 8 → s.rd 0x100000 14 0 * 2500 < clocks + expect →
    exec (.sliceStart tid d clocks expect f) s = .next s) ∧
  (∀ (s : State) (tid d clocks expect : Nat) (x : TaskRec), s.maps.wf = true → d < 8 → s.task tid = some x → x.phase = .running →
    x.sliceOn d = none → d ∈ s.taskDies x → s.serving x.p = true → s.sliceFits clocks expect = true → x.f 0 1 = 0 →
    x.ctrl 15 14 ≠ 0 → x.f 0xB0 8 % 4 = 0 → s.lost (x.f 0xB0 8 / 4096) = true → s.recoverable (x.f 0xB0 8 / 4096) = none →
    s.blockQuiesced (x.f 0xB0 8 / 4096) = false →
    ∃ t y, exec (.sliceStart tid d clocks expect none) s = .next t ∧ t.task tid = some y ∧ y.phase = .ended ∧ y.status = 0x22 ∧
      TasksBut tid s t ∧
      t.ctr (Addr.ras x.p 0x38) = s.ctr (Addr.ras x.p 0x38) + 1 ∧ AgesOnly s t ∧ CtrsBut (Addr.ras x.p 0x38 :: hostCtrs) s t ∧
      Keeps [.tasks, .ctrs, .pages] s t) ∧
  (∀ (s : State) (tid d : Nat) (x : TaskRec) (reads : List (Nat × SlotRead)), s.maps.wf = true → d < 8 → s.task tid = some x →
    x.phase = .running → (∃ sl ∈ x.slices, sl.die = d ∧ sl.frame < (s.reg 0x100008).toNat) → (x.units.map UnitRec.uid).Nodup →
    (∀ r ∈ reads, r.2.bad = none) → (∀ u ∈ x.issuedOn d, x.atBoundary u = true) →
    s.hasRoom x.p d (((x.issuedOn d).map x.haltBytes).foldl (· + ·) 0) = true →
    ∃ t y, exec (.sliceHalt tid d reads) s = .next t ∧ t.task tid = some y ∧ y.phase = .running ∧ y.sliceOn d = none ∧
      (∀ v ∈ y.units, v.die = d → v.phase ≠ .issued) ∧
      (∀ u ∈ x.units, u.die = d → u.phase = .issued → ∃ v ∈ y.units, v.uid = u.uid ∧ v.phase = .halted ∧ v.acc = u.acc ∧
        v.next = u.next ∧ v.attempt = u.attempt) ∧
      (∀ u ∈ x.units, u.die ≠ d ∨ u.phase ≠ .issued → u ∈ y.units) ∧ TasksBut tid s t ∧
      t.ctr (Addr.sch x.p 0xC0) = s.ctr (Addr.sch x.p 0xC0) + 1 ∧
      CtrsBut (Addr.sch x.p 0xC0 :: Addr.seq d 0x18 :: Addr.seq d 0x30 :: x.units.map fun u => Addr.mxe d u.eng 0x48) s t ∧
      Keeps [.tasks, .ctrs] s t) ∧
  (∀ (s : State) (tid d : Nat) (x : TaskRec) (reads : List (Nat × SlotRead)), d < 8 → s.task tid = some x →
    reads.all (fun r => r.2.placed) = true → (∃ u ∈ x.issuedOn d, x.atBoundary u = false) ∨
      s.hasRoom x.p d (((x.issuedOn d).map x.haltBytes).foldl (· + ·) 0) = false →
    exec (.sliceHalt tid d reads) s = .next s)

/-- R35, R402: real-time slots. -/
def Obligations.RealTimeWindowsHaltOtherWork : Prop :=
  (∀ (s : State) (slot : Nat), slot < 64 → s.slotValid slot = true →
    ∃ t, exec (.rtSlotHaltRaise slot) s = .next t ∧ t.tasks.length = s.tasks.length ∧
      (∀ (i : Nat) (x : TaskRec), s.tasks[i]? = some x → ∃ y, t.tasks[i]? = some y ∧ { y with halts := x.halts } = x ∧
        (x.live = true → x.slot ≠ slot + 1 → ∀ d ∈ s.taskDies x, s.slotHas slot d = true → y.unhalted d = false) ∧
        (x.live = false ∨ x.slot = slot + 1 → y = x)) ∧ Keeps [.tasks] s t ∧ t.nextTid = s.nextTid ∧ t.slotsOn = s.slotsOn) ∧
  (∀ (s : State) (tid uid : Nat) (x : TaskRec) (u : UnitRec) (read : SlotRead), s.maps.wf = true → s.task tid = some x →
    x.unit uid = some u → (x.units.map UnitRec.uid).Nodup → u.phase = .issued → read.bad = none →
      s.hasRoom x.p u.die (x.haltBytes u) = true →
    (((u.die, false) ∈ x.halts ∨ s.powerHold = true ∧ x.slot = 0) ∨
      ((x.unhalted u.die = false ∨ s.tripped = true ∧ x.slot = 0) ∧ x.atBoundary u = true)) →
    ∃ t v, exec (.unitHaltAtBoundary tid uid read) s = .next t ∧ t.task tid = some (x.setUnit v) ∧ v.uid = uid ∧ v.phase = .halted ∧
      v.acc = u.acc ∧ v.next = u.next ∧ v.attempt = u.attempt ∧ TasksBut tid s t ∧
      (x.f 0 1 = 0 → u.spilled = false → v.image = some ⟨u.next, u.acc, u.sat⟩ ∧ v.held = x.tileBytes ∧ v.heldAt = u.die) ∧
      CtrsBut [Addr.seq u.die 0x18, Addr.seq u.die 0x30, Addr.mxe u.die u.eng 0x48] s t ∧ Keeps [.tasks, .ctrs] s t) ∧
  (∀ (s : State) (slot : Nat), slot < 64 → s.slotValid slot = true → slot ∉ s.slotsOn →
    ∃ t, exec (.rtSlotBegin slot) s = .next t ∧ t.slotsOn = slot :: s.slotsOn ∧ t.tasks.length = s.tasks.length ∧
      (∀ (i : Nat) (x : TaskRec), s.tasks[i]? = some x → ∃ y, t.tasks[i]? = some y ∧ { y with halts := x.halts } = x ∧
        (∀ d, y.unhalted d = (s.slotHas slot d || x.unhalted d))) ∧ Keeps [.tasks] s t) ∧
  (∀ (s : State) (slot : Nat), s.maps.wf = true → slot < 64 → slot ∈ s.slotsOn →
    ∃ t, exec (.rtWindowEndHalt slot) s = .next t ∧ slot ∉ t.slotsOn ∧ (∀ i ∈ s.slotsOn, i ≠ slot → i ∈ t.slotsOn) ∧
      t.ctr (Addr.sch (s.slotPart slot) 0xF8) = s.ctr (Addr.sch (s.slotPart slot) 0xF8) +
        BitVec.ofNat 64 (s.tasks.filter fun x => x.slot == slot + 1 && x.phase == .running).length ∧
      (∀ (i : Nat) (x : TaskRec), s.tasks[i]? = some x → ∃ y, t.tasks[i]? = some y ∧ { y with halts := x.halts } = x ∧
        (x.live = true → x.slot = slot + 1 → ∀ d ∈ s.taskDies x, s.slotHas slot d = true → y.unhalted d = false) ∧
        (x.live = false ∨ x.slot ≠ slot + 1 → y = x)) ∧
      CtrsBut [Addr.sch (s.slotPart slot) 0xF8] s t ∧ Keeps [.tasks, .ctrs] s t)

/-- R423, R424, R414. -/
def Obligations.RepeatsStartAgain : Prop :=
  (∀ (s : State) (tid : Nat) (x : TaskRec), s.maps.wf = true → s.task tid = some x → x.phase = .running → x.oneShot = false →
    x.retries < s.taskRetries → (∃ u ∈ x.units, u.phase = .abandoned) →
    ∃ t y, exec (.taskReexecute tid) s = .next t ∧ t.task tid = some y ∧ y.retries = x.retries + 1 ∧
      { y with retries := x.retries, units := x.units, kvUsed := x.kvUsed } = x ∧ y.units.length = x.units.length ∧
      (∀ (i : Nat) (u : UnitRec), x.units[i]? = some u → ∃ v, y.units[i]? = some v ∧ v.uid = u.uid ∧
        ((u.phase = .abandoned ∨ u.phase = .failed ∨ u.phase = .issued ∨ u.phase = .summed ∨ u.phase = .halted ∨
            u.phase = .staged ∨ u.phase = .escalate) →
          v.phase = .failed ∧ v.fails = 0 ∧ v.moved = false ∧ v.acc = [] ∧ v.bank = none) ∧
        ((u.phase = .done ∨ u.phase = .skipped ∨ u.phase = .todo ∨ (u.part = 0 ∧ (u.phase = .drained ∨ u.phase = .stored))) → v = u)) ∧
      TasksBut tid s t ∧ t.ctr (Addr.ras x.p 0x28) = s.ctr (Addr.ras x.p 0x28) + 1 ∧ Keeps (.tasks :: wrote) s t ∧
      (x.f 0 1 ≠ 1 ∨ x.aOp ≠ 2 → y.kvUsed = x.kvUsed ∧ CtrsBut [Addr.ras x.p 0x28] s t ∧ Keeps [.tasks, .ctrs] s t)) ∧
  (∀ (s : State) (tid : Nat) (x : TaskRec), s.maps.wf = true → s.task tid = some x → x.f 0 1 = 1 →
    (x.phase = .running ∨ x.phase = .stalled) →
    ∃ t, exec (.preemptTask tid) s = .next t ∧
      t.task tid = some { x with phase := .ready, units := [], slices := [], pins := [], halts := [], mark := 0, words := [], vfails := [] } ∧
      t.kvWait = s.kvWait.filter (fun k => k != tid) ∧ t.kvRecs = s.kvRecs ∧ t.kvStuck = s.kvStuck ∧ t.kvFreed = s.kvFreed ∧
      TasksBut tid s t ∧ t.ctr (Addr.sch x.p 0x100) = s.ctr (Addr.sch x.p 0x100) + 1 ∧ CtrsBut [Addr.sch x.p 0x100] s t ∧
      Keeps [.tasks, .ctrs, .kv] s t)

/-- R118, R119, R145, R203: the division of a product and the issue of its tiles. -/
def Obligations.ProductsIssueTheirTiles : Prop :=
  (∀ (s : State) (tid : Nat) (x : TaskRec), s.task tid = some x → x.phase = .ready → x.f 0 1 = 0 →
    (s.productOk x = true →
      ∃ t y, exec (.product tid) s = .next t ∧ t.task tid = some y ∧ y.phase = .running ∧
        { y with phase := x.phase, units := x.units, defers := x.defers } = x ∧
        y.units.length = x.gBatch * x.rowBlocks * x.colTiles ∧
          (y.units.map UnitRec.uid) = List.range (x.gBatch * x.rowBlocks * x.colTiles) ∧
        (∀ b rb ct, b < x.gBatch → rb < x.rowBlocks → ct < x.colTiles → ∃ u ∈ y.units, u.b = b ∧ u.rb = rb ∧ u.ct = ct ∧ u.part = 0 ∧
          u.phase = .todo ∧ u.first = 0 ∧ u.last = ceilDiv x.gK 32) ∧
        (s.taskDies x ≠ [] → ∀ u ∈ y.units, u.die ∈ s.taskDies x) ∧ TasksBut tid s t ∧ Keeps [.tasks] s t) ∧
    (s.productOk x = false →
      ∃ t y, exec (.product tid) s = .next t ∧ t.task tid = some y ∧ y.phase = .ended ∧ y.status = 0x10 ∧ TasksBut tid s t ∧
        Keeps [.tasks] s t)) ∧
  (∀ (s : State) (tid uid k : Nat) (x : TaskRec) (u : UnitRec), s.maps.wf = true → k < 17 → s.task tid = some x → x.unit uid = some u →
    s.tileReady x u k = true →
    (u.phase = .todo → s.engineOk x u k = true → s.epochAhead x u.die = false → s.lostNeed x u = none →
      ∃ t v, exec (.tileIssue tid uid k) s = .next t ∧ t.task tid = some (x.setUnit v) ∧ s.Attempt x u k v ∧ TasksBut tid s t ∧
        t.ctr (Addr.seq u.die 0x8) = s.ctr (Addr.seq u.die 0x8) + (if u.part = 0 then 1 else 0) ∧ CtrsBut [Addr.seq u.die 0x8] s t ∧
        Keeps [.tasks, .ctrs] s t) ∧
    (∀ b, u.phase = .todo → s.engineOk x u k = true → s.epochAhead x u.die = false → s.lostNeed x u = some b → s.recoverable b = none →
      ∃ t, exec (.tileIssue tid uid k) s = .next t ∧ Ended x 0x22 s t ∧ t.ctr (Addr.ras x.p 0x38) = s.ctr (Addr.ras x.p 0x38) + 1 ∧
        CtrsBut [Addr.ras x.p 0x38] s t ∧ Keeps [.tasks, .ctrs] s t) ∧
    (u.phase = .todo → s.engineOk x u k = true → s.epochAhead x u.die = true → u.epochHeld = false →
      ∃ t, exec (.tileIssue tid uid k) s = .next t ∧ t.task tid = some (x.setUnit { u with epochHeld := true }) ∧ TasksBut tid s t ∧
        t.ctr (Addr.ft u.die 0x48) = s.ctr (Addr.ft u.die 0x48) + 1 ∧ CtrsBut [Addr.ft u.die 0x48] s t ∧ Keeps [.tasks, .ctrs] s t) ∧
    (u.phase = .halted → u.eng = k ∨ s.mxeActive u.die u.eng = false → s.lostNeed x u = none →
      ∃ t, exec (.tileIssue tid uid k) s = .next t ∧
        t.task tid = some (x.setUnit { u with phase := .issued, eng := k, base := u.next }) ∧
        TasksBut tid s t ∧ Keeps [.tasks] s t) ∧
    (u.phase = .failed → s.redoOk u k = true → s.lostNeed x u = none →
      ∃ t v, exec (.tileReexecute tid uid k) s = .next t ∧ t.task tid = some (x.setUnit v) ∧ s.Attempt x (u.onEngine k) k v ∧
        v.again = u.again ∧ TasksBut tid s t ∧ t.ctr (Addr.seq u.die 0x8) = s.ctr (Addr.seq u.die 0x8) + (if u.part = 0 then 1 else 0) ∧
        CtrsBut [Addr.seq u.die 0x8] s t ∧ Keeps [.tasks, .ctrs] s t) ∧
    (u.phase = .escalate → s.lostNeed x u = none →
      ∃ t v, exec (.escalatedRerun tid uid k) s = .next t ∧ t.task tid = some (x.setUnit v) ∧ s.Attempt x u k v ∧ v.rerun = true ∧
        v.again = false ∧ TasksBut tid s t ∧ t.ctr (Addr.seq u.die 0x8) = s.ctr (Addr.seq u.die 0x8) + (if u.part = 0 then 1 else 0) ∧
        t.ctr (Addr.mxe u.die k 0x50) = s.ctr (Addr.mxe u.die k 0x50) + (if u.part = 0 then 1 else 0) ∧
        CtrsBut [Addr.seq u.die 0x8, Addr.mxe u.die k 0x50] s t ∧ Keeps [.tasks, .ctrs] s t))

/-- R71 to R94, R133, R134: chunks, spills and reloads. -/
def Obligations.ChunksAccumulateAndSpill : Prop :=
  (∀ (s : State) (tid uid : Nat) (env : ChunkEnv) (x : TaskRec) (u : UnitRec) (n : Nat), s.maps.wf = true →
    env.vxe < 16 → (∀ f ∈ env.faults, f.placed = true) → u.die < 8 → u.eng < 17 → x.p < 8 → s.task tid = some x → x.unit uid = some u →
      u.phase = .issued → u.spilled = false →
    x.f 0 1 = 0 → u.next < u.last → x.chunkTurn u = true →
    (∀ b ∈ s.chunkNeeds x u, b ∈ u.arrived) → (x.prologueRuns u = false ∨ env.parity = none ∧ env.ftEcc = none) →
    (s.sumChunk x u env.faults).found = none →
    n = productChunkClocks (x.attemptFmts u).1 (x.attemptFmts u).2 x.complex →
    ∃ t y v, exec (.chunkComplete tid uid env) s = .next t ∧ t.task tid = some y ∧
      y = { x.setUnit v with cyc := x.cyc + (if u.again then 0 else n + env.wait) } ∧
      v = { u with acc := (s.sumChunk x u []).acc, next := u.next + 1, sat := u.sat + (s.sumChunk x u []).cnt.sat,
                   phase := if u.next + 1 = u.last then .summed else .issued } ∧
      t.ctr (Addr.mxe u.die u.eng 0x20) = s.ctr (Addr.mxe u.die u.eng 0x20) + BitVec.ofNat 64 n ∧
      t.ctr (Addr.mxe u.die u.eng 0x30) = s.ctr (Addr.mxe u.die u.eng 0x30) + BitVec.ofNat 64 (s.sumChunk x u []).trunc ∧
      t.ctr (Addr.mxe u.die u.eng 0x48) = s.ctr (Addr.mxe u.die u.eng 0x48) + BitVec.ofNat 64 env.corr ∧
      TasksBut tid s t ∧
      CtrsBut (chunkCtrs u.die u.eng x.p) s t ∧
      Keeps [.tasks, .ctrs, .acct, .tenants] s t) ∧
  (∀ (s : State) (tid uid : Nat) (env : ChunkEnv) (x : TaskRec) (u : UnitRec) (b : Nat), env.vxe < 16 →
    (∀ f ∈ env.faults, f.placed = true) → s.task tid = some x → x.unit uid = some u → b ∈ s.chunkNeeds x u → b ∉ u.arrived →
    (u.phase ≠ .failed → exec (.chunkComplete tid uid env) s = .next s) ∧
    (∀ k, u.phase = .failed → u.why = 8 → x.f 0 1 = 0 → u.next < u.last → (s.sumChunk x u env.faults).found = some k →
      ∃ t, exec (.chunkComplete tid uid env) s = .next t ∧ t.ctr (Addr.mxe u.die u.eng 0x38) = s.ctr (Addr.mxe u.die u.eng 0x38) + 1 ∧
        CtrsBut [Addr.mxe u.die u.eng 0x18, Addr.mxe u.die u.eng 0x38, dropped] s t ∧ Keeps [.ctrs, .sb] s t)) ∧
  (∀ (s : State) (tid uid : Nat) (read : SlotRead) (x : TaskRec) (u : UnitRec), s.maps.wf = true → s.task tid = some x →
    x.unit uid = some u → u.phase = .issued → x.f 0 1 = 0 →
    (u.spilled = false → read.bad = none → s.slotNeeded x u = true → s.spillRoom x u = true →
      (∀ v ∈ x.rowMates u, v.phase ≠ .issued ∨ v.spilled = true ∨ keyLe (x.loopKey v) (x.loopKey u) = true) →
      ∃ t, exec (.accumSpill tid uid read) s = .next t ∧
        t.task tid = some (x.setUnit { u with
          spilled := true, image := some ⟨u.next, u.acc, u.sat⟩, held := 65536 * x.tileSlots, heldAt := u.die }) ∧
        t.ctr (Addr.mxe u.die u.eng 0x48) = s.ctr (Addr.mxe u.die u.eng 0x48) + BitVec.ofNat 64 read.corr ∧
        TasksBut tid s t ∧ t.ctr (Addr.seq u.die 0x18) = s.ctr (Addr.seq u.die 0x18) + 1 ∧
        t.ctr (Addr.seq u.die 0x30) = s.ctr (Addr.seq u.die 0x30) + BitVec.ofNat 64 (65536 * x.tileSlots) ∧
        CtrsBut [Addr.seq u.die 0x18, Addr.seq u.die 0x30, Addr.mxe u.die u.eng 0x48] s t ∧ Keeps [.tasks, .ctrs] s t) ∧
    (s.slotNeeded x u = false ∨ s.spillRoom x u = false → read.placed = true → exec (.accumSpill tid uid read) s = .next s) ∧
    (u.spilled = true → s.slotsUsed u.die u.eng + x.tileSlots ≤ 15 →
      ∃ t, exec (.accumReload tid uid) s = .next t ∧ t.task tid = some (x.setUnit { u with spilled := false }) ∧
        TasksBut tid s t ∧ t.ctr (Addr.seq u.die 0x20) = s.ctr (Addr.seq u.die 0x20) + 1 ∧
        t.ctr (Addr.seq u.die 0x30) = s.ctr (Addr.seq u.die 0x30) + BitVec.ofNat 64 (65536 * x.tileSlots) ∧
        CtrsBut [Addr.seq u.die 0x20, Addr.seq u.die 0x30] s t ∧ Keeps [.tasks, .ctrs] s t))

/-- R95 to R98, R426: failures of a tile's attempt. -/
def Obligations.ArrayChecksRepeatThenMove : Prop :=
  ∀ (s : State) (tid uid : Nat) (x : TaskRec) (u : UnitRec), s.maps.wf = true → u.die < 8 → u.eng < 17 → x.p < 8 →
    s.task tid = some x → x.unit uid = some u → u.phase = .issued → x.f 0 1 = 0 →
    (∀ (env : ChunkEnv) (kind row col : Nat), env.vxe < 16 → (∀ f ∈ env.faults, f.placed = true) → u.spilled = false →
      u.next < u.last → x.chunkTurn u = true → (∀ b ∈ s.chunkNeeds x u, b ∈ u.arrived) →
      (x.prologueRuns u = false ∨ env.parity = none ∧ env.ftEcc = none) → (s.sumChunk x u env.faults).found = some (kind, row, col) →
        ¬(u.moved = true ∧ s.taskRetries ≤ x.retries) →
      ∃ t y v, exec (.chunkComplete tid uid env) s = .next t ∧ t.task tid = some y ∧ y.unit uid = some v ∧
        FailedOnce u v ∧ { y with units := x.units, cyc := x.cyc } = x ∧
        t.ctr (Addr.mxe u.die u.eng 0x38) = s.ctr (Addr.mxe u.die u.eng 0x38) + 1 ∧
        t.ctr (Addr.mxe u.die u.eng 0x40) = s.ctr (Addr.mxe u.die u.eng 0x40) + (if u.moved = false ∧ u.fails ≠ 0 then 1 else 0) ∧
        t.ctr (Addr.mxe u.die u.eng 0x18) = BitVec.ofNat 64 (kind * pow2 16 + col * 256 + row) ∧ TasksBut tid s t ∧
        CtrsBut ([0x38, 0x40, 0x18].map (Addr.mxe u.die u.eng) ++ [dropped] ++ chunkCtrs u.die u.eng x.p) s t ∧
        Keeps [.tasks, .ctrs, .acct, .tenants, .engs, .sb] s t) ∧
    (∀ (env : ChunkEnv) (row : Nat), env.vxe < 16 → (∀ f ∈ env.faults, f.placed = true) → u.spilled = false → u.next < u.last →
      x.chunkTurn u = true → (∀ b ∈ s.chunkNeeds x u, b ∈ u.arrived) → x.prologueRuns u = true →
      laneError env.parity env.ftEcc = some row → u.parity = 0 →
      ∃ t y v, exec (.chunkComplete tid uid env) s = .next t ∧ t.task tid = some y ∧ y.unit uid = some v ∧ v.phase = .failed ∧
        v.parity = 1 ∧ v.redo = 1 ∧ v.acc = [] ∧ v.fails = u.fails ∧ { y with units := x.units, cyc := x.cyc } = x ∧
        t.ctr (Addr.vxe u.die (s.rowVxe u.die env.vxe row) 0x28) = s.ctr (Addr.vxe u.die (s.rowVxe u.die env.vxe row) 0x28) + 1 ∧
        TasksBut tid s t ∧ Keeps [.tasks, .ctrs, .acct, .tenants, .engs, .regs, .parts, .sb] s t) ∧
    (∀ late : Nat, ¬(u.moved = true ∧ s.taskRetries ≤ x.retries) →
      ∃ t y v, exec (.engineHang tid uid late) s = .next t ∧ t.task tid = some y ∧ y.unit uid = some v ∧ FailedOnce u v ∧
        { y with units := x.units } = x ∧ t.ctr (Addr.mxe u.die u.eng 0x38) = s.ctr (Addr.mxe u.die u.eng 0x38) + 1 ∧
        t.ctr (Addr.ras x.p 0x30) = s.ctr (Addr.ras x.p 0x30) + 1 ∧
        t.ctr (Addr.mxe u.die u.eng 0x18) = s.ctr (Addr.mxe u.die u.eng 0x18) ∧ TasksBut tid s t ∧
        t.flights.length = s.flights.length + late ∧
        CtrsBut [Addr.mxe u.die u.eng 0x38, Addr.mxe u.die u.eng 0x40, Addr.ras x.p 0x30, dropped] s t ∧
        Keeps [.tasks, .ctrs, .engs, .flights, .sb] s t) ∧
    (∀ late : Nat, u.moved = true → s.taskRetries ≤ x.retries → x.phase = .running →
      ∃ t y, exec (.engineHang tid uid late) s = .next t ∧ t.task tid = some y ∧ y.phase = .ended ∧ y.status = 0x21 ∧ TasksBut tid s t ∧
        Keeps [.tasks, .ctrs, .engs, .flights, .sb] s t)

/-- R75, R131, R355, R433: drains of a product without an epilogue. -/
def Obligations.DrainsSendRowsToMemory : Prop :=
  ∀ (s : State) (tid uid : Nat) (env : DrainEnv) (x : TaskRec) (u : UnitRec), s.maps.wf = true → env.vxe < 16 → u.die < 8 → u.eng < 17 →
    env.slot.placed = true → s.task tid = some x → x.unit uid = some u → u.phase = .summed → x.f 0 1 = 0 →
    (s.allArrived x u = false → exec (.tileDrain tid uid env) s = .next s ∧ exec (.splitkReduce tid uid env) s = .next s) ∧
    (s.allArrived x u = true → u.part ≠ 0 → s.partRoom x u = false → exec (.tileDrain tid uid env) s = .next s) ∧
    (s.allArrived x u = true → u.part ≠ 0 → s.partRoom x u = true → env.slot.bad = none →
      ∃ t, exec (.tileDrain tid uid env) s = .next t ∧
        t.task tid = some { x.setUnit { u with
          phase := .drained, image := none, spilled := false, held := x.tileBytes, heldAt := x.drainDie u } with
          cyc := x.cyc + (if u.again then 0 else env.clocks) } ∧
        (u.moved = true → (t.engRec u.die 0 u.movedFrom).due = true) ∧ (u.moved = false → t.engs = s.engs) ∧
        TasksBut tid s t ∧ CtrsBut [Addr.sch x.p 0x108, Addr.mxe u.die u.eng 0x48] s t ∧
        Keeps [.tasks, .ctrs, .acct, .tenants, .engs] s t) ∧
    (∀ r c, s.allArrived x u = true → x.p < 8 → env.slot.bad = some (r, c) → ¬(u.moved = true ∧ s.taskRetries ≤ x.retries) →
      (u.part ≠ 0 ∧ s.partRoom x u = true ∨ u.part = 0 ∧ x.parts u = [] ∧ s.vxeOk x u.die env.vxe = true ∧ s.stageRoom x u = true) →
      ∃ t y v, exec (.tileDrain tid uid env) s = .next t ∧ t.task tid = some y ∧ y.unit uid = some v ∧ FailedOnce u v ∧
        t.ctr (Addr.mxe u.die u.eng 0x18) = BitVec.ofNat 64 (4 * pow2 16 + c * 256 + r) ∧
        t.ctr (Addr.mxe u.die u.eng 0x38) = s.ctr (Addr.mxe u.die u.eng 0x38) + 1 ∧ TasksBut tid s t ∧
        Keeps [.tasks, .ctrs, .acct, .tenants, .engs, .sb] s t) ∧
    (s.allArrived x u = true → u.part = 0 → x.epilogue = 0 → x.epi = none → env.slot.bad = none → env.parity = none → env.ftEcc = none →
      x.discard = false →
      (x.parts u = [] →
        ∃ t y, exec (.tileDrain tid uid env) s = .next t ∧ s.Drained x u env t y) ∧
      (x.parts u ≠ [] → (∀ v ∈ x.parts u, v.phase = .drained) →
        ∃ t y, exec (.splitkReduce tid uid env) s = .next t ∧ s.Drained x u env t y ∧
          t.ctr (Addr.seq u.die 0x28) = s.ctr (Addr.seq u.die 0x28) + (if u.rerun then 0 else 1)))

/-- R433: the offside fence. -/
def Obligations.FenceDropsInvalidWrites : Prop :=
  ∀ (s : State) (i : Nat) (f : Flight), s.maps.wf = true → s.flights[i]? = some f → s.stopped = false →
    (s.offside f = true ∨ s.stale f = true →
      ∃ t, exec (.writeAtCheckpoint i) s = .next t ∧ t.flights = s.flights.eraseIdx i ∧
        (s.offside f = true → t.ctr (0x700100 + 8 * f.die) = s.ctr (0x700100 + 8 * f.die) + 1 ∧ CtrsBut [0x700100 + 8 * f.die] s t) ∧
        (s.offside f = false → t.ctr (0x700140 + 8 * f.die) = s.ctr (0x700140 + 8 * f.die) + 1 ∧ CtrsBut [0x700140 + 8 * f.die] s t) ∧
        Keeps [.flights, .ctrs] s t) ∧
    (s.flightFits f = false → exec (.writeAtCheckpoint i) s = .next s) ∧
    (s.offside f = false → s.stale f = false → s.flightFits f = true → (f.bytes.map Prod.fst).Nodup →
      ∃ t, exec (.writeAtCheckpoint i) s = .next t ∧ t.flights = s.flights.eraseIdx i ∧ (∀ e ∈ f.bytes, t.devByte e.1 = e.2) ∧
        MemBut (f.bytes.map Prod.fst) s t ∧ Keeps [.flights, .mem, .side, .pages, .moves, .touch, .ctrs, .free] s t)

/-- R98, R100, R103, R105. -/
def Obligations.StoredTilesEndOrEscalate : Prop :=
  (∀ (s : State) (tid uid : Nat) (x : TaskRec) (u : UnitRec), s.maps.wf = true → s.task tid = some x → x.unit uid = some u →
    u.phase = .drained → u.part = 0 → x.f 0 1 = 0 → s.inFlight tid u = false → x.defers = false → x.phase = .running →
    (u.judged = true ∨ x.f 0x38 4 = 0xFFFFFFFF ∨ u.sat ≤ x.f 0x38 4 →
      ∃ t y v, exec (.tileStoreComplete tid uid) s = .next t ∧ t.task tid = some y ∧ y.unit uid = some v ∧ v.phase = .done ∧
        y.flags = x.flags ∧ (y.phase = .running ∨ (y.phase = .ended ∧ y.status = 0 ∧ ∀ w ∈ y.units, w.phase = .done ∨ w.phase = .skipped)) ∧
        TasksBut tid s t ∧ (u.moved = true → (t.engRec u.die 0 u.movedFrom).due = true) ∧ (u.moved = false → Keeps [.tasks] s t) ∧
        Keeps [.tasks, .engs] s t) ∧
    (u.judged = false → x.f 0x38 4 ≠ 0xFFFFFFFF → x.f 0x38 4 < u.sat → x.ctrl 21 18 ≠ 0 →
      ∃ t y v, exec (.tileStoreComplete tid uid) s = .next t ∧ t.task tid = some y ∧ y.unit uid = some v ∧ v.phase = .escalate ∧
        v.judged = true ∧ v.rerun = true ∧ v.sat = 0 ∧ v.acc = [] ∧ y.phase = .running ∧ y.flags = orFlag x.flags 0 ∧
        (∀ w ∈ x.units, (w.b, w.rb, w.ct) ≠ (u.b, u.rb, u.ct) → w ∈ y.units) ∧ TasksBut tid s t ∧ Keeps [.tasks, .engs] s t) ∧
    (u.judged = false → x.f 0x38 4 ≠ 0xFFFFFFFF → x.f 0x38 4 < u.sat → x.ctrl 21 18 = 0 →
      ∃ t y v, exec (.tileStoreComplete tid uid) s = .next t ∧ t.task tid = some y ∧ y.unit uid = some v ∧ v.phase = .done ∧
        y.flags = orFlag x.flags 0 ∧ TasksBut tid s t ∧
        t.ctr (Addr.mxe u.die u.eng 0x58) = s.ctr (Addr.mxe u.die u.eng 0x58) + 1 ∧ CtrsBut [Addr.mxe u.die u.eng 0x58] s t ∧
        Keeps [.tasks, .engs, .ctrs] s t)) ∧
  (∀ (s : State) (tid uid : Nat) (x : TaskRec) (u : UnitRec), s.maps.wf = true → s.task tid = some x → x.unit uid = some u →
    u.phase = .drained → u.part = 0 → x.f 0 1 = 0 → s.inFlight tid u = false → x.defers = true → x.phase = .running →
    (u.judged = true ∨ x.f 0x38 4 = 0xFFFFFFFF ∨ u.sat ≤ x.f 0x38 4 ∨ x.ctrl 21 18 = 0) →
    ∃ t y v, exec (.tileStoreComplete tid uid) s = .next t ∧ t.task tid = some y ∧ y.unit uid = some v ∧ v.judged = true ∧
      ((∀ w ∈ x.units, w.uid ≠ uid → w.b = u.b → w.rb = u.rb → w.part = 0 → w.phase = .stored ∨ w.phase = .skipped) →
        v.phase = .done ∧ v.bank = none ∧ v.held = 0) ∧
      ((∃ w ∈ x.units, w.uid ≠ uid ∧ w.b = u.b ∧ w.rb = u.rb ∧ w.part = 0 ∧ w.phase ≠ .stored ∧ w.phase ≠ .skipped) →
        v.phase = .stored ∧ v.bank = u.bank ∧ v.held = u.held ∧ ∀ w ∈ x.units, w.uid ≠ uid → w ∈ y.units) ∧
      TasksBut tid s t ∧ CtrsBut [Addr.mxe u.die u.eng 0x58] s t ∧ Keeps [.tasks, .engs, .ctrs] s t) ∧
  (∀ (s : State) (d k gen pair : Nat) (begun : List Flight) (join : Prop), s.maps.wf = true → d < 8 → k < 17 → gen < 65536 →
    (s.engRec d 0 k).due = true → s.mxeActive d k = true → begun = s.flights.filter (s.begun d k) →
    (∀ f ∈ begun, s.flightFits f = true) → pair = s.rd (Addr.mxe d k 0) 15 8 →
    (join ↔ s.rd (Addr.mxe d 16 0) 3 0 = 1 ∨
      (pair ≠ 0xFF ∧ k ≠ 16 ∧ s.mxeActive d 16 = true ∧ s.rd (Addr.mxe d 16 0) 15 8 = 0xFF)) →
    ∃ t, exec (.mxeRetire d k gen) s = .next t ∧ t.rd (Addr.mxe d k 0) 3 0 = 2 ∧ t.rd (Addr.mxe d k 0) 47 32 = 0 ∧
      t.rd (Addr.mxe d k 0) 15 8 = 0xFF ∧
      (t.engRec d 0 k).due = false ∧ (t.engRec d 0 k).retired = true ∧
      (∃ e ∈ t.disMap, e.what = 0 ∧ e.die = d ∧ e.idx = k) ∧
      (s.rd (Addr.mxe d 16 0) 3 0 = 1 → t.rd (Addr.mxe d 16 0) 3 0 = 0 ∧ t.rd (Addr.mxe d 16 0) 47 32 = gen) ∧
      (join → pair ≠ 0xFF → t.rd (Addr.mxe d 16 0) 15 8 = pair) ∧
      (¬join → k ≠ 16 → t.reg (Addr.mxe d 16 0) = s.reg (Addr.mxe d 16 0)) ∧
      (pair < 8 → (s.rd (Addr.atp d pair 0) 23 16 = k ∨ s.rd (Addr.atp d pair 0) 15 8 = k) →
        (join → t.rd (Addr.atp d pair 0) 23 16 ≠ k ∧ t.rd (Addr.atp d pair 0) 15 8 ≠ k ∧
          (t.rd (Addr.atp d pair 0) 23 16 = 16 ∨ t.rd (Addr.atp d pair 0) 15 8 = 16) ∧
            t.rd (Addr.atp d pair 0) 3 0 = s.rd (Addr.atp d pair 0) 3 0) ∧
        (¬join → (t.rd (Addr.atp d pair 0) 23 16 = 0xFF ∨ t.rd (Addr.atp d pair 0) 15 8 = 0xFF) ∧ t.rd (Addr.atp d pair 0) 3 0 = 1)) ∧
      t.flights = (s.flights.filter fun f => !s.begun d k f) ∧
      (∀ f, begun = [f] → s.offside f = false → (f.bytes.map Prod.fst).Nodup → ∀ e ∈ f.bytes, t.devByte e.1 = e.2) ∧
      MemBut (begun.flatMap fun f => f.bytes.map Prod.fst) s t ∧
      (∀ y ∈ t.tasks, y.f 0 1 = 0 → ∀ u ∈ y.units, u.die = d → u.eng = k → u.phase ≠ .issued ∧ u.phase ≠ .summed) ∧
      RegsBut ([Addr.mxe d k 0, Addr.mxe d 16 0] ++ if pair < 8 then [Addr.atp d pair 0] else []) s t ∧
      (begun = [] → CtrsBut [dropped] s t ∧ Keeps [.tasks, .regs, .engs, .parts, .sb, .ctrs] s t) ∧
      Keeps ([.tasks, .regs, .engs, .parts, .sb, .flights] ++ wrote) s t)

/-- R171, R175: apply passes. -/
def Obligations.ApplyPassesFollowTheStatistic : Prop :=
  ∀ (s : State) (tid b rb : Nat) (env : DrainEnv) (x : TaskRec) (u0 : UnitRec) (rest : List UnitRec), s.maps.wf = true → env.vxe < 16 →
    s.task tid = some x → x.f 0 1 = 0 → x.rowTiles b rb = u0 :: rest → x.epi.isSome = true →
    u0.die < 8 → (x.units.map UnitRec.uid).Nodup →
    (∀ u ∈ x.rowTiles b rb, s.inFlight tid u = false ∧ u.die = u0.die ∧ env.vxe ∈ s.activeVxes u.die) →
    ((∀ u ∈ x.rowTiles b rb, u.phase = .staged ∧ u.judged = false) → env.parity = none → env.ftEcc = none →
      ∃ t y, exec (.applyPass tid b rb env) s = .next t ∧ t.task tid = some y ∧
        (∀ u ∈ x.rowTiles b rb, ∃ v ∈ y.units, v.uid = u.uid ∧ v.phase = .drained ∧ v.staged = u.staged) ∧
        (∀ u ∈ x.units, u ∉ x.rowTiles b rb → u ∈ y.units) ∧ TasksBut tid s t ∧
        t.ctr (Addr.chain u0.die 0x8) = s.ctr (Addr.chain u0.die 0x8) + 1 ∧
        t.ctr (Addr.chain u0.die 0x28) = s.ctr (Addr.chain u0.die 0x28) ∧
        Keeps [.tasks, .ctrs, .acct, .tenants, .flights] s t) ∧
    ((∀ u ∈ x.rowTiles b rb, u.judged = true ∧ (u.phase = .staged ∨ u.phase = .stored)) → (∃ u ∈ x.rowTiles b rb, u.phase = .staged) →
      env.parity = none → env.ftEcc = none →
      ∃ t y, exec (.applyRepeat tid b rb env) s = .next t ∧ t.task tid = some y ∧
        (∀ u ∈ x.rowTiles b rb, ∃ v ∈ y.units, v.uid = u.uid ∧ v.phase = .drained) ∧
        (∀ u ∈ x.units, u ∉ x.rowTiles b rb → u ∈ y.units) ∧ TasksBut tid s t ∧
        t.ctr (Addr.chain u0.die 0x28) = s.ctr (Addr.chain u0.die 0x28) + 1 ∧
        t.ctr (Addr.chain u0.die 0x8) = s.ctr (Addr.chain u0.die 0x8) ∧
        Keeps [.tasks, .ctrs, .acct, .tenants, .flights] s t) ∧
    (∀ row u, (∀ w ∈ x.rowTiles b rb, w.phase = .staged ∧ w.judged = false) → laneError env.parity env.ftEcc = some row →
      (x.rowTiles b rb).find? (fun w => w.ct == env.tile) = some u → u.parity = 0 →
      ∃ t y, exec (.applyPass tid b rb env) s = .next t ∧ t.task tid = some y ∧
        (∃ v ∈ y.units, v.uid = u.uid ∧ v.phase = .failed ∧ v.parity = 1 ∧ v.redo = 1 ∧ v.staged = []) ∧
        (∀ w ∈ x.units, w.uid ≠ u.uid → w ∈ y.units) ∧
        t.ctr (Addr.vxe u.die env.vxe 0x28) = s.ctr (Addr.vxe u.die env.vxe 0x28) + 1 ∧ TasksBut tid s t ∧
        Keeps [.tasks, .ctrs, .acct, .tenants, .engs, .regs, .parts, .sb] s t)

/-- R355, R429: inputs of tasks that run in one step. -/
def Obligations.OneStepTasksCheckTheirInputs : Prop :=
  ∀ (s : State) (tid vxe : Nat) (x : TaskRec) (c : Instr) (ok : Bool) (ins : List Nat) (outs : List Rng), s.maps.wf = true → vxe < 16 →
    s.task tid = some x → s.mayRun x = true → (∀ d ∈ s.taskDies x, vxe ∈ s.activeVxes d) → s.taskDies x ≠ [] →
    ((c = .convert tid ∧ x.isKind 3 0 = true ∧ ok = x.cvOk ∧ ins = rngBlocks x.cvReads ∧ outs = x.cvWrites) ∨
      (c = .codebookLoad tid ∧ x.isKind 3 2 = true ∧
        ok = (x.loadDescOk false true && decide (0x12 ≤ x.f 0x2C 4) && decide (x.f 0x2C 4 ≤ 0x1F)) ∧
        ins = rngBlocks x.cbReads ∧ outs = []) ∨
      (c = .seedLoad tid ∧ x.isKind 3 4 = true ∧ ok = x.loadDescOk false false ∧ ins = rngBlocks x.seedReads ∧ outs = []) ∨
      (c = .rngFill tid ∧ x.isKind 3 5 = true ∧ ok = x.rfOk ∧ ins = [] ∧ outs = x.rfWrites) ∨
      (c = .reuseGate tid vxe ∧ x.isKind 2 1 = true ∧ ok = x.rgOk ∧ ins = rngBlocks x.rgReads ∧ outs = x.rgWrites.flatten) ∨
      (c = .finiteCheck tid vxe ∧ x.isKind 2 2 = true ∧ ok = x.fcOk ∧ ins = rngBlocks x.fcReads ∧ outs = x.fcWrites.flatten)) →
    (ok = false → ∃ t, exec c s = .next t ∧ Ended x 0x10 s t ∧ Keeps [.tasks] s t) ∧
    (ok = true → s.canWriteAll ((s.taskDies x).headD 0) (rngPages outs) = false → exec c s = .next s) ∧
    (ok = true → s.canWriteAll ((s.taskDies x).headD 0) (rngPages outs) = true →
      (∀ b, ins.find? (fun k => s.lost k) = some b → s.recoverable b = none → s.blockQuiesced b = false →
        ∃ t, exec c s = .next t ∧ Ended x 0x22 s t ∧ t.ctr (Addr.ras x.p 0x38) = s.ctr (Addr.ras x.p 0x38) + 1 ∧
          CtrsBut [Addr.ras x.p 0x38] s t ∧ Keeps [.tasks, .ctrs] s t) ∧
      ((∀ b ∈ ins, s.lost b = false) → (∃ b ∈ ins, s.readable (b / 64) = false) → exec c s = .next s) ∧
      ((∀ b ∈ ins, s.lost b = false ∧ s.readable (b / 64) = true) → (∃ b ∈ ins, s.crcBad b = true) → s.foulRetries ≠ 0 →
        ∃ t, exec c s = .next t ∧ Ended x 0x20 s t ∧ Keeps [.tasks, .ctrs, .sb] s t))

/-- R388: vector programs. -/
def Obligations.VectorProgramsRunTheirTiles : Prop :=
  ∀ (s : State) (tid : Nat) (env : DrainEnv) (x : TaskRec), s.maps.wf = true → env.vxe < 16 → s.task tid = some x →
    x.isKind 2 0 = true → x.phase = .ready → s.serving x.p = true →
    (s.vecOk x = false → ∃ t, exec (.vectorProgram tid env) s = .next t ∧ Ended x 0x10 s t ∧ Keeps [.tasks] s t) ∧
    (s.vecOk x = true → (∃ d ∈ s.taskDies x, s.epochAhead x d = true) → x.mark = 0 →
      ∃ t, exec (.vectorProgram tid env) s = .next t ∧ t.task tid = some { x with mark := 1 } ∧ TasksBut tid s t ∧
        CtrsBut ((s.taskDies x).map fun d => Addr.ft d 0x48) s t ∧ Keeps [.tasks, .ctrs] s t) ∧
    (s.vecOk x = true → s.mayRun x = true → (∀ d ∈ s.taskDies x, env.vxe ∈ s.activeVxes d) →
      (s.vecErr x env = none → s.memGood → s.CanStep x (s.vecNeeds x) (s.vecWrites x) →
        ∃ t, exec (.vectorProgram tid env) s = .next t ∧ Ended x 0 s t ∧
          (x.vBatch = 1 → x.vOuter ≤ 128 → x.vInner ≤ 128 → ∀ a, inRngs (s.vecWrites x) a = false → t.devByte a = s.devByte a) ∧
          Keeps [.tasks, .mem, .side, .pages, .moves, .touch, .ctrs, .acct, .tenants, .free] s t) ∧
      (∀ tile row v, s.vecErr x env = some (tile, row) → v = s.rowVxe tile.die env.vxe row → x.units = [] →
        ((∀ f ∈ x.vfails, f.tile ≠ tile.n) →
          ∃ t, exec (.vectorProgram tid env) s = .next t ∧
            t.task tid = some { x with vfails := x.vfails ++ [{ tile := tile.n, die := tile.die, bank := s.vecBank x tile, errs := 1 }] } ∧
            t.ctr (Addr.vxe tile.die v 0x28) = s.ctr (Addr.vxe tile.die v 0x28) + 1 ∧ TasksBut tid s t ∧
            Keeps [.tasks, .ctrs, .engs, .regs, .parts, .sb] s t) ∧
        ((∃ f ∈ x.vfails, f.tile = tile.n) → x.retries < s.taskRetries →
          ∃ t, exec (.vectorProgram tid env) s = .next t ∧ t.task tid = some { x with vfails := [], retries := x.retries + 1 } ∧
            t.ctr (Addr.ras x.p 0x28) = s.ctr (Addr.ras x.p 0x28) + 1 ∧ TasksBut tid s t ∧
            Keeps [.tasks, .ctrs, .engs, .regs, .parts, .sb] s t) ∧
        ((∃ f ∈ x.vfails, f.tile = tile.n) → s.taskRetries ≤ x.retries →
          ∃ t, exec (.vectorProgram tid env) s = .next t ∧ Ended x 0x21 s t ∧ Keeps [.tasks, .ctrs, .engs, .regs, .parts, .sb] s t)))

/-- R389: CONVERT. -/
def Obligations.ConversionsWriteTheirOutput : Prop :=
  ∀ (s : State) (tid : Nat) (x : TaskRec), s.maps.wf = true → s.memGood → s.task tid = some x → x.isKind 3 0 = true →
    s.mayRun x = true → x.cvOk = true → s.CanStep x (rngBlocks x.cvReads) x.cvWrites →
    ∃ t, exec (.convert tid) s = .next t ∧ Ended x 0 s t ∧ (∀ a, inRngs x.cvWrites a = false → t.devByte a = s.devByte a) ∧
      (x.cvCopies = true → x.f 0x20 4 = 1 → x.f 0x28 4 = 1 → ∀ i, i < x.cvSrc.rowLen →
        t.devByte (x.cvDst.base + i) = s.devByte (x.cvSrc.base + i)) ∧
      Keeps [.tasks, .mem, .side, .pages, .moves, .touch, .ctrs, .free] s t

/-- R49 to R51, R291 to R307: codebook loads, seed loads and generation. -/
def Obligations.LoadsAndGenerationOfRandomness : Prop :=
  ((∀ (s : State) (tid k : Nat) (x : TaskRec) (tab : List W32), s.maps.wf = true → s.memGood → s.task tid = some x → x.isKind 3 2 = true →
    s.mayRun x = true → x.loadDescOk false true = true → k < 14 → x.f 0x2C 4 = 0x12 + k → s.CanStep x (rngBlocks x.cbReads) [] →
      tab = s.memWords (x.f 0x20 8) 16 →
    (codebookOk tab = true →
      ∃ t, exec (.codebookLoad tid) s = .next t ∧ Ended x 0 s t ∧
        (∀ d ∈ s.dies x.p, ∀ c, c < 16 → Sparse.get 0 t.maps.cbk ((d * 14 + k) * 16 + c) = tab.getD c 0) ∧
        (∀ d j c, j < 14 → c < 16 → (d ∉ s.dies x.p ∨ j ≠ k) →
          Sparse.get 0 t.maps.cbk ((d * 14 + j) * 16 + c) = Sparse.get 0 s.maps.cbk ((d * 14 + j) * 16 + c)) ∧
        Keeps [.tasks, .books, .pages, .touch, .ctrs] s t) ∧
    (codebookOk tab = false →
      ∃ t, exec (.codebookLoad tid) s = .next t ∧ Ended x 0x10 s t ∧ Keeps [.tasks, .pages, .touch, .ctrs] s t)) ∧
  (∀ (s : State) (tid : Nat) (x : TaskRec), s.maps.wf = true → s.memGood → s.task tid = some x → x.isKind 3 4 = true →
    s.mayRun x = true → x.loadDescOk false false = true → s.devNat (x.f 0x20 8 + 2) 6 = 0 →
    s.CanStep x (rngBlocks x.seedReads) [] →
    ∃ t, exec (.seedLoad tid) s = .next t ∧ Ended x 0 s t ∧
      (∀ i, i < 16 → Sparse.get 0 t.maps.seeds (x.p * 16 + i) =
        (if bit (s.devNat (x.f 0x20 8) 2) i then BitVec.ofNat 64 (s.devNat (x.f 0x20 8 + 8 + 8 * i) 8)
         else Sparse.get 0 s.maps.seeds (x.p * 16 + i))) ∧
      (∀ q i, i < 16 → q ≠ x.p → Sparse.get 0 t.maps.seeds (q * 16 + i) = Sparse.get 0 s.maps.seeds (q * 16 + i)) ∧
      t.rd (Addr.rng x.p 0x8) 15 0 = (s.rd (Addr.rng x.p 0x8) 15 0 ||| s.devNat (x.f 0x20 8) 2) ∧
      t.ctr (Addr.rng x.p 0x20) = s.ctr (Addr.rng x.p 0x20) + 1 ∧ RegsBut [Addr.rng x.p 0x8] s t ∧
      Keeps [.tasks, .seeds, .regs, .pages, .touch, .ctrs] s t)) ∧
  (∀ (s : State) (tid : Nat) (x : TaskRec), s.maps.wf = true → s.task tid = some x → x.isKind 3 5 = true → s.mayRun x = true →
    x.rfOk = true → s.CanStep x [] x.rfWrites →
    ∃ t, exec (.rngFill tid) s = .next t ∧ Ended x 0 s t ∧ (∀ a, inRngs x.rfWrites a = false → t.devByte a = s.devByte a) ∧
      (x.rfDist = 0 → t.ctr (Addr.rng x.p 0x10) = s.ctr (Addr.rng x.p 0x10) + BitVec.ofNat 64 (ceilDiv (x.f 0x20 8) 4) ∧
        ∀ e, e < x.f 0x20 8 → t.devNat (x.f 0x40 8 + 4 * e) 4 =
          (drawWord (s.streamKeyOf x.p x.rfStream) 0x20 (x.f 0xC 4) (x.f 0x10 4) e).toNat) ∧
      Keeps [.tasks, .mem, .side, .pages, .moves, .touch, .ctrs, .free] s t)

/-- R200, R201: function-table loads. -/
def Obligations.FunctionTablesLoadInThreeSteps : Prop :=
  (∀ (s : State) (tid : Nat) (x : TaskRec), s.maps.wf = true → s.memGood → s.task tid = some x → x.isKind 3 3 = true →
    s.mayRun x = true → s.ftBusy x.p = false → x.loadDescOk true false = true → s.CanStep x (rngBlocks x.ftReads) [] →
    (s.ftImageOk x = true →
      ∃ t, exec (.ftLoad tid) s = .next t ∧ t.task tid = some { x with phase := .running, mark := 1 } ∧ TasksBut tid s t ∧
        Keeps [.tasks, .pages, .touch, .ctrs] s t) ∧
    (s.ftImageOk x = false →
      ∃ t, exec (.ftLoad tid) s = .next t ∧ Ended x 0x10 s t ∧ Keeps [.tasks, .pages, .touch, .ctrs] s t)) ∧
  (∀ (s : State) (tid : Nat) (x : TaskRec) (m : FtImage), s.maps.wf = true → s.task tid = some x → x.isKind 3 3 = true →
    x.phase = .running → x.mark = 1 → s.inactiveBound x.p = false → m = s.ftImage (x.f 0x20 8) → m.first + m.count ≤ 16384 →
    ∃ t, exec (.ftBankWrite tid) s = .next t ∧ t.task tid = some { x with mark := 2 } ∧ TasksBut tid s t ∧
      (∀ d ∈ s.dies x.p, t.rd (Addr.vxe d 0 0x100) 1 1 = 1 ∧ t.ftActive d = s.ftActive d ∧
        (∀ f w, f < 64 → w < 32 → (t.ftView d (1 - s.ftActive d)).word f w = (s.ftAfter d (x.f 0x20 8) m).word f w) ∧
        (∀ i c, i < 16384 → c < 4 → (t.ftView d (1 - s.ftActive d)).coef i c = (s.ftAfter d (x.f 0x20 8) m).coef i c) ∧
        (∀ f w, f < 64 → w < 32 → (t.ftView d (s.ftActive d)).word f w = (s.ftView d (s.ftActive d)).word f w)) ∧
      Keeps [.tasks, .tables, .regs] s t) ∧
  (∀ (s : State) (tid : Nat) (x : TaskRec), s.maps.wf = true → s.task tid = some x → x.isKind 3 3 = true →
    x.phase = .running → x.mark = 2 → (s.dies x.p).Nodup → (∀ d ∈ s.dies x.p, d < 8) →
    ∃ t, exec (.ftBankSwap tid) s = .next t ∧ Ended x 0 s t ∧
      (∀ d ∈ s.dies x.p, t.ftActive d = 1 - s.ftActive d ∧ t.rd (Addr.vxe d 0 0x100) 1 1 = 0 ∧
        t.rd (Addr.ft d 8) 31 0 = nextEpoch (s.rd (Addr.ft d 8) 31 0) ∧
          t.rd (Addr.vxe d 0 0x100) 63 32 = nextEpoch (s.rd (Addr.ft d 8) 31 0) ∧
        t.ctr (Addr.ft d 0x10) = s.ctr (Addr.ft d 0x10) + 1) ∧
      (∀ d, d < 8 → d ∉ s.dies x.p → t.ftActive d = s.ftActive d ∧ t.reg (Addr.ft d 8) = s.reg (Addr.ft d 8)) ∧
      CtrsBut ((s.dies x.p).map fun d => Addr.ft d 0x10) s t ∧ Keeps [.tasks, .regs, .ctrs] s t)

/-- R257, R280. -/
def Obligations.ReuseGatesAndFiniteChecks : Prop :=
  (∀ (s : State) (tid vxe : Nat) (x : TaskRec), s.maps.wf = true → s.memGood → vxe < 16 → s.task tid = some x → x.isKind 2 1 = true →
    s.mayRun x = true → (∀ d ∈ s.taskDies x, vxe ∈ s.activeVxes d) → x.rgOk = true → s.CanStep x (rngBlocks x.rgReads) x.rgWrites.flatten →
    ∃ t, exec (.reuseGate tid vxe) s = .next t ∧ Ended x 0 s t ∧
      (∃ y ∈ t.reuseSlots, y.p = x.p ∧ y.slot = x.rgSlot ∧ y.batch = x.rgBatch ∧ y.m = x.rgM) ∧
      (∀ y ∈ s.reuseSlots, (y.p, y.slot) ≠ (x.p, x.rgSlot) → y ∈ t.reuseSlots) ∧
      t.ctr (Addr.reuse x.p 0x8) = s.ctr (Addr.reuse x.p 0x8) + 1 ∧
      t.ctr (Addr.reuse x.p 0x10) = s.ctr (Addr.reuse x.p 0x10) + BitVec.ofNat 64 (x.rgBatch * x.rgBlocks) ∧
      (bit (x.f 0x30 4) 0 = true → ∀ J, J < x.rgBatch * x.rgBlocks → t.reused x.p x.rgSlot J = false) ∧
      (∀ a, inRngs x.rgWrites.flatten a = false → t.devByte a = s.devByte a) ∧
      Keeps [.tasks, .mem, .reuse, .side, .pages, .moves, .touch, .ctrs, .acct, .tenants, .free] s t) ∧
  (∀ (s : State) (tid vxe n nf prev : Nat) (x : TaskRec), s.maps.wf = true → s.memGood → vxe < 16 → s.task tid = some x →
    x.isKind 2 2 = true → s.mayRun x = true → vxe ∈ s.activeVxes ((s.taskDies x).headD 0) → x.fcOk = true →
      s.CanStep x (rngBlocks x.fcReads) x.fcWrites.flatten →
    n = (x.fcTensors.map fun y => y.2.1).foldl (· + ·) 0 → nf = (x.fcTensors.map s.nonFinite).foldl (· + ·) 0 →
    prev = (if bit (x.f 0x24 4) 0 then x.f 0x28 4 else s.devNat (x.f 0x30 8) 4) →
    ∃ t, exec (.finiteCheck tid vxe) s = .next t ∧ Ended x 0 s t ∧ t.devNat (x.f 0x30 8) 4 = (if nf ≠ 0 then 0 else prev) % pow2 32 ∧
      (x.f 0x38 8 ≠ 0 → t.devNat (x.f 0x38 8) 4 = (if nf ≠ 0 ∨ prev = 0 then x.f 0x28 4 else 0)) ∧
      (∀ a, inRngs x.fcWrites.flatten a = false → t.devByte a = s.devByte a) ∧
      t.ctr (Addr.train ((s.taskDies x).headD 0) 0x10) = s.ctr (Addr.train ((s.taskDies x).headD 0) 0x10) + BitVec.ofNat 64 n ∧
      t.ctr (Addr.train ((s.taskDies x).headD 0) 0x18) = s.ctr (Addr.train ((s.taskDies x).headD 0) 0x18) + BitVec.ofNat 64 nf ∧
      Keeps [.tasks, .mem, .side, .pages, .moves, .touch, .ctrs, .acct, .tenants, .free] s t)

/-- R215, R219, R234, R236, R241. -/
def Obligations.AttentionTasksFormUnits : Prop :=
  ∀ (s : State) (tid : Nat) (x : TaskRec), s.maps.wf = true → s.task tid = some x → x.f 0 1 = 1 → x.phase = .ready → x.mark = 0 →
    (x.aOp = 0 →
      (s.atOk x = false → ∃ t, exec (.attend tid) s = .next t ∧ Ended x 0x10 s t ∧ Keeps [.tasks] s t) ∧
      (s.atOk x = true → (∀ d ∈ s.taskDies x, s.diePipes d = false) →
        ∃ t, exec (.attend tid) s = .next t ∧ Ended x 0x21 s t ∧ Keeps [.tasks] s t) ∧
      (s.atOk x = true → (∃ d ∈ s.taskDies x, s.diePipes d = true) →
        ∃ t, exec (.attend tid) s = .next t ∧ AttnStarted x s t ∧ CtrsBut [Addr.reuse x.p 0x30] s t ∧ Keeps [.tasks, .ctrs] s t)) ∧
    (x.aOp = 1 →
      (s.atOk x = false ∨ (∃ b, b < x.aBatch ∧ s.recLen (x.recAt b) < x.aM) →
        ∃ t, exec (.attendPaged tid) s = .next t ∧ Ended x 0x10 s t ∧ Keeps [.tasks] s t) ∧
      (s.atOk x = true → (∀ b, b < x.aBatch → x.aM ≤ s.recLen (x.recAt b)) → (∀ d ∈ s.taskDies x, s.diePipes d = false) →
        ∃ t, exec (.attendPaged tid) s = .next t ∧ Ended x 0x21 s t ∧ Keeps [.tasks] s t) ∧
      (s.atOk x = true → (∀ b, b < x.aBatch → x.aM ≤ s.recLen (x.recAt b)) → (∃ d ∈ s.taskDies x, s.diePipes d = true) →
        ∃ t, exec (.attendPaged tid) s = .next t ∧ AttnStarted x s t ∧ CtrsBut [Addr.reuse x.p 0x30] s t ∧ Keeps [.tasks, .ctrs] s t)) ∧
    (x.aOp = 2 →
      (s.atOk x = false → ∃ t, exec (.appendAttend tid) s = .next t ∧ Ended x 0x10 s t ∧ Keeps [.tasks] s t) ∧
      (s.atOk x = true → (∃ b, b < x.aBatch ∧ 1048576 < s.recLen (x.recAt b) + x.aNew) →
        ∃ t, exec (.appendAttend tid) s = .next t ∧ Ended x 0x11 s t ∧ t.ctr (Addr.kv x.p 0x30) = s.ctr (Addr.kv x.p 0x30) + 1 ∧
          CtrsBut [Addr.kv x.p 0x30] s t ∧ Keeps [.tasks, .ctrs] s t) ∧
      (s.atOk x = true → (∀ b, b < x.aBatch → s.recLen (x.recAt b) + x.aNew ≤ 1048576) →
        (s.canWriteAll noDie (s.kvBooks x) = false → exec (.appendAttend tid) s = .next s) ∧
        (∀ q w, q = s.secureAll x.p (s.kvPool x) (s.appendEntries x) → q.2 = true → s.canWriteAll noDie (s.kvBooks x) = true →
          (s.kvTurn x = true ∨ ∀ e ∈ s.appendEntries x, s.present e.2 = true) → w = q.1.kvServed x .ready → w.memGood →
          w.CanStep x (rngBlocks ((w.newTensor x false).rngs ++ (w.newTensor x true).rngs)) [] →
          w.canWriteAll ((s.taskDies x).headD 0) (w.appendPages x) = true → (∃ d ∈ s.taskDies x, s.diePipes d = true) →
          ∃ t, exec (.appendAttend tid) s = .next t ∧ AttnStarted x s t ∧ Keeps (.tasks :: .kv :: wrote) s t) ∧
        (∀ r e rest, s.appendEntries x = (r, e) :: rest → s.present e = false → s.secure x.p (s.kvPool x) e r true = none →
          s.canWriteAll noDie (s.kvBooks x) = true →
          ∃ t, exec (.appendAttend tid) s = .next t ∧ t.task tid = some { x with phase := .stalled } ∧ TasksBut tid s t ∧
            tid ∈ t.kvWait ∧ t.kvRecs = s.kvRecs ∧ Keeps [.tasks, .kv] s t)))

/-- R235, R236, R238, R240. -/
def Obligations.PagesOfSequencesComeAndGo : Prop :=
  (∀ (s : State) (tid : Nat) (x : TaskRec), s.maps.wf = true → s.task tid = some x → x.phase = .stalled →
    (x.mark = 1 → ∃ t, exec (.kvAllocRetry tid) s = .next t ∧ t.task tid = some { x with phase := .fresh, mark := 0 } ∧ TasksBut tid s t ∧
      Keeps [.tasks] s t) ∧
    (∀ q w, x.mark ≠ 1 → q = s.secureAll x.p (s.kvPool x) (s.appendEntries x) → q.2 = true → s.canWriteAll noDie (s.kvBooks x) = true →
      (s.kvTurn x = true ∨ ∀ e ∈ s.appendEntries x, s.present e.2 = true) → w = q.1.kvServed x .ready → w.memGood →
      w.CanStep x (rngBlocks ((w.newTensor x false).rngs ++ (w.newTensor x true).rngs)) [] →
      w.canWriteAll ((s.taskDies x).headD 0) (w.appendPages x) = true → (∃ d ∈ s.taskDies x, s.diePipes d = true) →
      ∃ t, exec (.kvAllocRetry tid) s = .next t ∧ AttnStarted x s t ∧ tid ∉ t.kvWait ∧ Keeps (.tasks :: .kv :: wrote) s t)) ∧
  (∀ (s : State) (tid : Nat) (x : TaskRec), s.maps.wf = true → s.task tid = some x → x.phase = .ready → x.f 0 1 = 1 → x.aOp = 3 →
    (s.atOk x = false → ∃ t, exec (.kvRelease tid) s = .next t ∧ Ended x 0x10 s t ∧ Keeps [.tasks] s t) ∧
    (∀ mine : List Nat, s.atOk x = true → s.canWriteAll noDie (s.kvBooks x) = true →
      mine = ((List.range (s.kvPool x).pages).filter fun p =>
        s.pageOwnerOf (s.kvPool x) p != 0 && s.present (s.pageOwnerOf (s.kvPool x) p) &&
          (s.kvRecs.any fun y => y.entry == s.pageOwnerOf (s.kvPool x) p && ((List.range x.aBatch).map x.recAt).contains y.record)) →
      ∃ t, exec (.kvRelease tid) s = .next t ∧ Ended x 0 s t ∧ (∀ b, b < x.aBatch → t.recLen (x.recAt b) = 0) ∧
        t.ctr (Addr.kv x.p 0x20) = s.ctr (Addr.kv x.p 0x20) + BitVec.ofNat 64 mine.length ∧
        Keeps (.tasks :: .kv :: wrote) s t)) ∧
  (∀ (s : State) (p : Nat) (x : TaskRec), s.maps.wf = true → p < 8 →
    (s.tasks.filter fun y => y.p == p && y.phase == .stalled).getLast? = some x → s.task x.tid = some x → 64 ≤ s.kvFrames p →
    ∃ t, exec (.kvDeadlockBreak p) s = .next t ∧
      t.task x.tid = some { x with phase := .fresh, units := [], slices := [], pins := [], halts := [], mark := 0, words := [], vfails := [] } ∧
      TasksBut x.tid s t ∧ t.ctr (Addr.kv p 0x28) = s.ctr (Addr.kv p 0x28) + 1 ∧
      t.ctr (Addr.sch x.p 0x100) = s.ctr (Addr.sch x.p 0x100) + 1 ∧ t.kvFrames p = 0 ∧ x.tid ∉ t.kvWait ∧ t.kvRecs = s.kvRecs ∧
      CtrsBut [Addr.kv p 0x28, Addr.sch x.p 0x100] s t ∧ Keeps [.tasks, .ctrs, .kv] s t)

/-- R215, R217, R222, R242. -/
def Obligations.AttentionUnitsRunTheirBlocks : Prop :=
  ∀ (s : State) (tid uid : Nat) (x : TaskRec) (u : UnitRec) (ks ko : Nat), s.maps.wf = true → s.task tid = some x → x.unit uid = some u →
    x.f 0 1 = 1 → u.die < 8 → u.eng < 8 → ks = s.rd (Addr.atp u.die u.eng 0) 23 16 → ko = s.rd (Addr.atp u.die u.eng 0) 15 8 →
    ks < 17 → ko < 17 → u.image = none →
    (∀ wait env, env.placed = true → u.phase = .issued → u.next < u.last → (∀ b ∈ s.keyNeeds x u, b ∈ u.arrived) →
      s.blockSkipped x u u.next = true →
      ∃ t, exec (.attentionKeyBlock tid uid wait env) s = .next t ∧
        t.task tid = some (x.setUnit { u with next := u.next + 1, phase := if u.next + 1 = u.last then .summed else .issued }) ∧
        TasksBut tid s t ∧ t.ctr (Addr.atp u.die u.eng 0x28) = s.ctr (Addr.atp u.die u.eng 0x28) + 1 ∧
        CtrsBut [Addr.atp u.die u.eng 0x28] s t ∧ Keeps [.tasks, .ctrs] s t) ∧
    (∀ wait busy env, env.placed = true → u.phase = .issued → u.next < u.last → (∀ b ∈ s.keyNeeds x u, b ∈ u.arrived) →
      s.blockSkipped x u u.next = false → busy = max (s.atClocks x).1 (max 128 (s.atClocks x).2) →
      (env.fault = none → ∃ t v, exec (.attentionKeyBlock tid uid wait env) s = .next t ∧
        t.task tid = some { x.setUnit v with
          kvUsed := nubList (x.kvUsed ++ s.keyEntries x u u.next), cyc := x.cyc + (if u.again then 0 else 2 * (busy + wait)) } ∧
        { v with acc := u.acc } = { u with next := u.next + 1, phase := if u.next + 1 = u.last then .summed else .issued } ∧
        v.atStates (x.atRows u).length x.aDV = (s.keyBlock x u u.next).states ∧ TasksBut tid s t ∧
        t.ctr (Addr.atp u.die u.eng 0x20) = s.ctr (Addr.atp u.die u.eng 0x20) + 1 ∧
        t.ctr (Addr.atp u.die u.eng 0x10) = s.ctr (Addr.atp u.die u.eng 0x10) + BitVec.ofNat 64 (busy + wait) ∧
        (ks ≠ ko → t.ctr (Addr.mxe u.die ks 0x48) = s.ctr (Addr.mxe u.die ks 0x48) + BitVec.ofNat 64 env.corrS ∧
          t.ctr (Addr.mxe u.die ko 0x48) = s.ctr (Addr.mxe u.die ko 0x48) + BitVec.ofNat 64 env.corrO) ∧
        t.ctr (Addr.ft u.die 0x30) = s.ctr (Addr.ft u.die 0x30) + BitVec.ofNat 64 env.ftCorr ∧
        Keeps [.tasks, .ctrs, .acct, .tenants] s t) ∧
      (∀ row, env.fault = some (.parity row) ∨ env.fault = some (.table row) → ¬(u.moved = true ∧ s.taskRetries ≤ x.retries) →
        ∃ t y v, exec (.attentionKeyBlock tid uid wait env) s = .next t ∧ t.task tid = some y ∧ y.unit uid = some v ∧
          FailedOnce u v ∧ TasksBut tid s t ∧ t.ctr (Addr.atp u.die u.eng 0x48) = s.ctr (Addr.atp u.die u.eng 0x48) + 1 ∧
          Keeps [.tasks, .ctrs, .acct, .tenants, .sb] s t)) ∧
    (∀ late : Nat, u.phase = .issued → ¬(u.moved = true ∧ s.taskRetries ≤ x.retries) →
      ∃ t y v, exec (.engineHang tid uid late) s = .next t ∧ t.task tid = some y ∧ y.unit uid = some v ∧ FailedOnce u v ∧ TasksBut tid s t ∧
        t.ctr (Addr.mxe u.die ko 0x38) = s.ctr (Addr.mxe u.die ko 0x38) + 1 ∧
        t.ctr (Addr.ras x.p 0x30) = s.ctr (Addr.ras x.p 0x30) + 1 ∧ Keeps [.tasks, .ctrs, .engs, .flights, .sb] s t) ∧
    (∀ env, env.placed = true → env.fault = none → u.phase = .summed → s.atAwaited x u = [] →
      s.canWriteAll u.die (s.atPages x u) = true → u.b < x.aBatch → u.ct < x.aHkv → x.aOp ≠ 3 → x.phase = .running →
      ∃ t y v, exec (.attentionUnitFinal tid uid env) s = .next t ∧ t.task tid = some y ∧ y.unit uid = some v ∧ v.phase = .done ∧
        v.bank = none ∧ v.held = 0 ∧ (y.phase = .running ∨ (y.phase = .ended ∧ y.status = 0)) ∧ TasksBut tid s t ∧
        t.ctr (Addr.atp u.die u.eng 0x18) = s.ctr (Addr.atp u.die u.eng 0x18) + 1 ∧
        (∀ a, inRngs (x.atWrites ++ (if x.aOp = 2 then [{ base := x.f 0x80 8, len := 64 * x.aBatch }] else [])) a = false →
          t.devByte a = s.devByte a) ∧
        Keeps ([.tasks, .acct, .tenants, .engs] ++ wrote) s t)

/-- R316, R318: residency operations. -/
def Obligations.ResidencyOperationsChangeEntries : Prop :=
  ∀ (s : State) (tid : Nat) (x : TaskRec) (pages : List Nat), s.maps.wf = true → s.memGood → s.task tid = some x → s.mayRun x = true →
    x.p < 8 → pages = listPages (s.rangeList x).1 →
    (∀ c, (c = .map tid ∧ x.isKind 3 6 = true) ∨ (c = .unmap tid ∧ x.isKind 3 7 = true) ∨ (c = .hint tid ∧ x.isKind 3 8 = true) →
      s.resOk x = false → ∃ t, exec c s = .next t ∧ Ended x 0x10 s t ∧ Keeps [.tasks] s t) ∧
    (s.CanStep x (rngBlocks x.resReads) [] → x.isKind 3 6 = true → s.resOk x = true →
      ∃ t, exec (.map tid) s = .next t ∧ Ended x 0 s t ∧
        (∀ pg ∈ pages, rtState (t.rt pg) = 1 ∧ rtPart (t.rt pg) = x.p ∧ rtAge (t.rt pg) = 0 ∧ rtFrame (t.rt pg) = 0 ∧
          rtPlace (t.rt pg) = x.f 0x30 4 % 4 ∧ (rtPin (t.rt pg) = bit (x.f 0x30 4) 3) ∧ (rtComp (t.rt pg) = bit (x.f 0x30 4) 4) ∧
          (rtNarrow (t.rt pg) = bit (x.f 0x30 4) 5) ∧ (bit (x.f 0x30 4) 2 = false → rtKeep (t.rt pg) = false)) ∧
        (∀ pg, pg ∉ pages → setBits (t.rt pg) 63 56 0 = setBits (s.rt pg) 63 56 0) ∧ Keeps [.tasks, .pages, .touch, .ctrs] s t) ∧
    (s.CanStep x (rngBlocks x.resReads) [] → x.isKind 3 7 = true → s.resOk x = true →
      ∃ t, exec (.unmap tid) s = .next t ∧ Ended x 0 s t ∧
        (∀ pg ∈ pages, rtState (s.rt pg) ≠ 0 → t.rt pg = 0 ∧ (∀ a, a / 262144 = pg → t.devByte a = 0) ∧
          (∀ b, b / 64 = pg → t.side b = 0) ∧ (∀ m ∈ t.migs, m.page ≠ pg) ∧
          (rtState (s.rt pg) = 2 → ∃ f ∈ t.frames, f.page = pg ∧ f.tier = rtTier (s.rt pg) ∧ f.frame = rtFrame (s.rt pg))) ∧
        (∀ pg, pg ∉ pages → setBits (t.rt pg) 63 56 0 = setBits (s.rt pg) 63 56 0) ∧
        (∀ a, a / 262144 ∉ pages → t.devByte a = s.devByte a) ∧
        Keeps [.tasks, .pages, .touch, .ctrs, .mem, .side, .moves] s t) ∧
    (s.CanStep x (rngBlocks x.resReads) [] → x.isKind 3 8 = true → s.resOk x = true →
      ∃ t, exec (.hint tid) s = .next t ∧ Ended x 0 s t ∧
        (∀ pg ∈ pages, rtAttr (t.rt pg) &&& 0x1FB =
            (((rtAttr (s.rt pg) &&& (511 ^^^ x.f 0x34 4)) ||| (x.f 0x30 4 &&& x.f 0x34 4)) &&& 0x1FB) ∧
          (bit (x.f 0x34 4) 2 = true → bit (x.f 0x30 4) 2 = false → rtKeep (t.rt pg) = false) ∧ rtPart (t.rt pg) = rtPart (s.rt pg)) ∧
        (∀ pg, pg ∉ pages → setBits (t.rt pg) 63 56 0 = setBits (s.rt pg) 63 56 0) ∧
        Keeps [.tasks, .pages, .touch, .ctrs, .moves, .free] s t)

/-- R327 to R330, R335: migrations and narrowing. -/
def Obligations.MigrationsAndNarrowing : Prop :=
  ((∀ (s : State) (page tier die : Nat), s.maps.wf = true → page < 4194304 → die < 8 → s.stopped = false →
    (0 < tier → tier < 4 → s.moveDue page tier die = true → s.MayMove page tier die →
      ∃ t, exec (.migrationStart page tier die) s = .next t ∧ MigStarted page tier die false s t ∧ ∀ m ∈ t.moves, m.page ≠ page) ∧
    (s.evictable page = true → s.oldest page = true → tier = rtTier (s.rt page) + 1 → s.MayMove page tier 0 →
      (∀ p n d, (p, n, d) = (rtPart (s.rt page), rtTier (s.rt page), if rtTier (s.rt page) = 1 then rtDie (s.rt page) else 0) →
        (s.belowMark p n d false = true ∨ ((p, n, d) ∈ s.evicting ∧ s.belowMark p n d true = true) ∨ (n = 1 ∧ s.freeFrames p 1 d = 0) →
          ∃ t, exec (.eviction page) s = .next t ∧ MigStarted page tier 0 true s t) ∧
        (s.belowMark p n d true = false → (n = 1 → s.freeFrames p 1 d ≠ 0) → s.belowMark p n d false = false →
          ∃ t, exec (.eviction page) s = .next t ∧ (∀ pg, t.rt pg = s.rt pg) ∧ (p, n, d) ∉ t.evicting ∧ Keeps [.moves] s t))) ∧
    (rtTier (s.rt page) = 2 → rtPlace (s.rt page) ≤ 1 → rtKeep (s.rt page) = false → (page, die) ∈ s.touchedPrev →
      s.aboveMark (rtPart (s.rt page)) 1 die (rtPlace (s.rt page) == 0) = true → s.MayMove page 1 die →
      ∃ t, exec (.promotion page die) s = .next t ∧ MigStarted page 1 die false s t)) ∧
  (∀ (s : State) (page stored : Nat) (m : MigRec), s.maps.wf = true → s.migs.find? (fun x => x.page == page) = some m →
    (m.dirty = [] → m.lostDest = [] → (∀ y ∈ s.moves, y.page ≠ page) →
      ∃ t, exec (.migrationPassEnd page stored []) s = .next t ∧ rtState (t.rt page) = 2 ∧ rtTier (t.rt page) = m.tier % 4 ∧
        rtFrame (t.rt page) = m.frame % pow2 24 ∧ rtAttr (t.rt page) = rtAttr (s.rt page) ∧
        (∀ pg, pg ≠ page → (∀ y ∈ s.moves, y.page ≠ pg) → t.rt pg = s.rt pg) ∧
        (∀ x ∈ t.migs, x.page ≠ page) ∧ (∀ x ∈ s.migs, x.page ≠ page → (∀ y ∈ s.moves, y.page ≠ x.page) → x ∈ t.migs) ∧
        (∃ f ∈ t.frames, f.page = page ∧ f.tier = rtTier (s.rt page) ∧ f.frame = rtFrame (s.rt page)) ∧
        (∀ b, b / 64 ≠ page → t.side b = s.side b) ∧ Keeps [.pages, .moves, .ctrs, .side, .free] s t) ∧
    (m.dirty ≠ [] →
      ∃ t n, exec (.migrationPassEnd page stored []) s = .next t ∧ t.migs.find? (fun x => x.page == page) = some n ∧ n.dirty = [] ∧
        n.todo = m.dirty ∧ n.passes = m.passes + 1 ∧ n.held = decide (4 ≤ m.passes + 1) ∧
        (n.tier, n.die, n.frame) = (m.tier, m.die, m.frame) ∧
        t.ctr (Addr.memp (rtPart (s.rt page)) 0x60) = s.ctr (Addr.memp (rtPart (s.rt page)) 0x60) +
          BitVec.ofNat 64 (if rtNarrow (s.rt page) then stored else (s.copyPass m).2.2) ∧
        (rtComp (s.rt page) = false → (s.copyPass m).2.2 = (m.todo.map s.storedBytes).foldl (· + ·) 0) ∧
        CtrsBut ([0x60, 0x70, 0x78].map (Addr.memp (rtPart (s.rt page)))) s t ∧ Keeps [.moves, .ctrs, .free] s t)) ∧
  (∀ (s : State) (page : Nat) (f : FrameRec), s.maps.wf = true → s.frames.find? (fun x => x.page == page) = some f →
    ((s.sick.any fun x => x.tier == f.tier && x.frame == f.frame && x.p == f.p && x.die == f.die) = false →
      ∃ t, exec (.sourceFrameReturn page) s = .next t ∧ t.frames = s.frames.erase f ∧ t.badFrames = s.badFrames ∧ t.sick = s.sick ∧
        (∀ pg, (∀ y ∈ s.moves, y.page ≠ pg) → t.rt pg = s.rt pg) ∧ Keeps [.moves, .pages, .free] s t) ∧
    ((s.sick.any fun x => x.tier == f.tier && x.frame == f.frame && x.p == f.p && x.die == f.die) = true →
      ∃ t, exec (.sourceFrameReturn page) s = .next t ∧ t.frames = s.frames.erase f ∧
        t.ctr (Addr.memp f.p 0x98) = s.ctr (Addr.memp f.p 0x98) + 1 ∧ (f.tier ≠ 2 ∨ s.hbmSpare = 0 → t.badFrames = s.badFrames ++ [f]) ∧
        (∀ pg, (∀ y ∈ s.moves, y.page ≠ pg) → t.rt pg = s.rt pg) ∧
        CtrsBut [Addr.memp f.p 0x98, dropped] s t ∧ Keeps [.moves, .ctrs, .regs, .parts, .sb, .pages, .free] s t))) ∧
  ((∀ (s : State) (tid : Nat) (x : TaskRec), s.maps.wf = true → s.task tid = some x → x.phase = .ended →
    ∃ t, exec (.narrowing tid) s = .next t ∧ (∀ y ∈ t.narrowDue, y.1 ≠ tid) ∧ (∀ y ∈ s.narrowDue, y.1 ≠ tid → y ∈ t.narrowDue) ∧
      t.tasks = s.tasks ∧
      (∀ a, (∀ y ∈ s.narrowDue, y = (tid, a / 4096) → rtNarrow (s.rt (a / 262144)) = false ∨ s.lost (a / 4096) = true) →
        t.devByte a = s.devByte a) ∧
      Keeps [.mem, .side, .moves, .ctrs, .free] s t) ∧
  (∀ (s : State) (tid b : Nat) (x : TaskRec) (src tgt : Fmt) (w : Nat), s.maps.wf = true → s.task tid = some x → x.phase = .ended →
    (s.narrowDue.filter fun y => y.1 == tid) = [(tid, b)] → rtNarrow (s.rt (b / 64)) = true → s.lost b = false →
    src = nsrcFmt (rtNsrc (s.rt (b / 64))) → tgt = ntgtFmt (rtNtgt (s.rt (b / 64))) → w = src.width / 8 →
    ∃ t, exec (.narrowing tid) s = .next t ∧ ∀ i j, i < 4096 / (32 * w) → j < 32 →
      t.devNat (b * 4096 + 32 * w * i + w * j) w =
        (narrowCodes src tgt ((List.range 32).map fun j => s.devNat (b * 4096 + 32 * w * i + w * j) w)).1.getD j 0 % pow2 (8 * w)))

/-- R325, R326, R508, R598: the host pool and the window. -/
def Obligations.HostPoolAndWindow : Prop :=
  (∀ (s : State) (fn p : Nat), s.maps.wf = true → fn ≤ 8 → p < 8 →
    (∀ v : W64, s.reaches fn (Addr.memp p 0x28) = true →
      (s.rd (Addr.memp p 0x30) 23 0 = 0 → s.rd (Addr.memp p 0x34) 0 0 = 0 →
        ∃ t, exec (.hpoolBaseWrite fn p v) s = .next t ∧ t.reg (Addr.memp p 0x28) = v &&& ~~~0xFFF#64 ∧
          RegsBut [Addr.memp p 0x28] s t ∧ Keeps [.regs] s t) ∧
      (s.rd (Addr.memp p 0x30) 23 0 ≠ 0 →
        ∃ t, exec (.hpoolBaseWrite fn p v) s = .next t ∧ getBits (t.ctr (Addr.memp p 0x40)) 35 32 = 4 ∧
          t.ctr (Addr.memp p 0x68) = s.ctr (Addr.memp p 0x68) + 1 ∧ CtrsBut [Addr.memp p 0x40, Addr.memp p 0x68] s t ∧
          Keeps [.ctrs] s t)) ∧
    (∀ (v : W32) (host : List HostStore) (h : State), s.reaches fn (Addr.memp p 0x30) = true → h = s.hostStores host →
      (s.rd (Addr.memp p 0x30) 23 0 < v.toNat % 16777216 →
        (∀ i, s.rd (Addr.memp p 0x30) 23 0 ≤ i → i < v.toNat % 16777216 →
          h.hostNat ((s.reg (Addr.memp p 0x28)).toNat + 8 * i) 8 % 4096 = 0) →
        ∃ t, exec (.hpoolCountWrite fn p v host) s = .next t ∧ t.rd (Addr.memp p 0x30) 23 0 = v.toNat % 16777216 ∧
          RegsBut [Addr.memp p 0x30] s t ∧ (∀ b, t.hostByte b = h.hostByte b) ∧ Keeps [.regs, .host, .moves] s t) ∧
      (v.toNat % 16777216 < s.rd (Addr.memp p 0x30) 23 0 →
        (s.poolFrames p 2 0 + v.toNat % 16777216 < (s.pagesOf p).length →
          ∃ t, exec (.hpoolCountWrite fn p v host) s = .next t ∧ getBits (t.ctr (Addr.memp p 0x40)) 35 32 = 7 ∧
            CtrsBut [Addr.memp p 0x40] s t ∧ Keeps [.host, .ctrs] s t) ∧
        ((s.badFrames.any fun f => f.p == p) = false → (s.hostSkips.any fun y => y.1 == p) = false →
          (s.pagesOf p).length ≤ s.poolFrames p 2 0 + v.toNat % 16777216 →
          ∃ t, exec (.hpoolCountWrite fn p v host) s = .next t ∧ t.rd (Addr.memp p 0x30) 23 0 = v.toNat % 16777216 ∧
            t.rd (Addr.memp p 0x34) 0 0 = 1 ∧ RegsBut [Addr.memp p 0x30, Addr.memp p 0x34] s t ∧ Keeps [.regs, .host, .moves] s t))) ∧
    (s.rd (Addr.memp p 0x34) 0 0 = 1 → s.beyondPool p (s.rd (Addr.memp p 0x30) 23 0) = false →
      ∃ t, exec (.shrinkDone p) s = .next t ∧ t.rd (Addr.memp p 0x34) 0 0 = 0 ∧ RegsBut [Addr.memp p 0x34] s t ∧ Keeps [.regs] s t)) ∧
  (∀ (s : State) (fn off len : Nat) (data : List Byte), s.maps.wf = true → fn ≤ 8 → fn ≤ s.numVfs → 0 < len → off + len ≤ pow2 36 →
    data.length = len →
    (∀ pg, s.winFault fn (s.winAddr fn off) len = some pg →
      ∃ t u, exec (.bar2Read fn off len false) s = .next t ∧ exec (.bar2Write fn off data) s = .next u ∧
        Says [.readData fn (List.replicate len 0xFF#8)] s t ∧ Says [] s u ∧
        getBits (t.ctr (Addr.memp (s.partOfFn fn) 0x40)) 35 32 = 3 ∧ (∀ a, u.ctr a = t.ctr a) ∧
        t.ctr (Addr.memp (s.partOfFn fn) 0x68) = s.ctr (Addr.memp (s.partOfFn fn) 0x68) + 1 ∧
        CtrsBut [Addr.memp (s.partOfFn fn) 0x40, Addr.memp (s.partOfFn fn) 0x68] s t ∧ Keeps [.ctrs, .outs] s t ∧ Keeps [.ctrs] s u) ∧
    (s.winFault fn (s.winAddr fn off) len = none →
      ((∀ b ∈ blocksOf (s.winAddr fn off) len, s.lost b = false) →
        ∃ t, exec (.bar2Read fn off len false) s = .next t ∧ Says [.readData fn (s.devBytes (s.winAddr fn off) len)] s t ∧
          Keeps [.pages, .ctrs, .outs] s t) ∧
      ((∃ b ∈ blocksOf (s.winAddr fn off) len, s.lost b = true) →
        ∃ t, exec (.bar2Read fn off len false) s = .next t ∧ Says [.readData fn (List.replicate len 0xFF#8)] s t ∧
          getBits (t.ctr (Addr.memp (s.partOfFn fn) 0x40)) 35 32 = 5 ∧ Keeps [.pages, .ctrs, .outs] s t) ∧
      (∀ pages, pages = nubList ((List.range len).map fun i => (s.winAddr fn off + i) / 262144) →
        (s.canWriteAll noDie pages = true →
          ∃ t, exec (.bar2Write fn off data) s = .next t ∧ (∀ i, i < len → t.devByte (s.winAddr fn off + i) = data.getD i 0) ∧
            (∀ a, a < s.winAddr fn off ∨ s.winAddr fn off + len ≤ a → t.devByte a = s.devByte a) ∧
            Keeps [.mem, .side, .pages, .moves, .ctrs, .free] s t) ∧
        (s.canWriteAll noDie pages = false → exec (.bar2Write fn off data) s = .next s))))

/-- R350, R351, R357 to R359, R363, R365, R369: requests and scrubs. -/
def Obligations.HbmRequestsAreServedOrHeld : Prop :=
  (∀ (s : State) (pc : Nat) (arrivals w e : List HbmReq), s.maps.wf = true → pc < 512 → (∀ q ∈ arrivals, q.line < 6291456) →
    s.pcState pc = 0 ∨ s.pcState pc = 3 → w = s.hbmWait ++ arrivals.filter (s.reqOk pc) → e = State.eligible { s with hbmWait := w } pc →
    (∃ q ∈ w, q.pc = pc) → (∀ q ∈ w, ∀ p, s.reqPart q = some p → p < 8) →
    ∃ t q, exec (.hbmRequest pc arrivals) s = .next t ∧ q ∈ e ∧ q ∈ w ∧ q.pc = pc ∧ t.hbmWait = w.erase q ∧
      (∀ y ∈ w.takeWhile (fun y => y != q), hbmMeets y q = false) ∧
      (s.reqPart q = none → 1023 ≤ (s.pcRec pc).sinceScrub ∨ ∀ y ∈ e, s.reqPart y = none) ∧
      (∀ p y r, y = (s.pcRec pc).share p → s.reqPart q = some p → r = e.filter (fun z => s.reqPart z == some p) →
        ((∃ z ∈ e, ∃ p', s.reqPart z = some p' ∧ ((s.pcRec pc).share p').round < s.weight p') → y.round < s.weight p) ∧
        (s.reqClass q ≠ 0 → (∃ z ∈ r, s.reqClass z = 0) → s.rd 0x300010 7 0 ≤ if y.window < 64 then y.zero else 0) ∧
        (s.reqClass q = 2 → (∃ z ∈ r, s.reqClass z = 1) → s.rd 0x300010 11 8 ≤ y.one) ∧
        (s.reqClass q = 1 → (∃ z ∈ r, s.reqClass z = 2) → y.one < s.rd 0x300010 11 8))) ∧
  (∀ (s : State) (q : HbmReq) (own : Prop), s.maps.wf = true → q.pc < 512 → q.line < 6291456 → s.reqOk q.pc q = true →
    (∀ y ∈ s.hbmWait, y.pc ≠ q.pc) → (∀ p, s.reqPart q = some p → p < 8) →
    (own ↔ (rtState (s.rt (q.blk / 64)) = 2 ∨ rtState (s.rt (q.blk / 64)) = 3) ∧ rtTier (s.rt (q.blk / 64)) = 2 ∧
      rtFrame (s.rt (q.blk / 64)) = granuleAt s.removedPc q.pc q.line / 1024) →
    (s.pcState q.pc = 1 ∨ s.pcState q.pc = 2 →
      ((s.hbmHold.filter fun x => x.pc == q.pc).length < 128 →
        ∃ t, exec (.hbmRequest q.pc [q]) s = .next t ∧ t.hbmHold = s.hbmHold ++ [q] ∧ t.hbmWait = s.hbmWait ∧ t.hbmRows = s.hbmRows ∧
          t.hbmPcs = s.hbmPcs ∧ t.hbmDue = s.hbmDue ∧ t.rd (Addr.hbmPc q.pc 0) 15 8 = (s.hbmHold.filter fun x => x.pc == q.pc).length + 1 ∧
          RegsBut [Addr.hbmPc q.pc 0] s t ∧ Keeps [.hbm, .regs] s t) ∧
      ((s.hbmHold.filter fun x => x.pc == q.pc).length = 128 →
        ∃ t, exec (.hbmRequest q.pc [q]) s = .next t ∧ t.hbmHold = s.hbmHold ∧ t.hbmWait = s.hbmWait ++ [q] ∧
          t.rd (Addr.hbmPc q.pc 0) 15 8 = 128 ∧ RegsBut [Addr.hbmPc q.pc 0] s t ∧ Keeps [.hbm, .regs] s t)) ∧
    (s.pcState q.pc = 0 → q.errs = [] →
      ∃ t, exec (.hbmRequest q.pc [q]) s = .next t ∧ t.hbmWait = s.hbmWait ∧ t.hbmHold = s.hbmHold ∧ t.hbmRows = s.hbmRows ∧
        t.hbmDue = s.hbmDue ∧
        t.ctr (Addr.hbmPc q.pc 0x8) = s.ctr (Addr.hbmPc q.pc 0x8) + BitVec.ofNat 64 (if q.op = .write then 0 else q.n) ∧
        t.ctr (Addr.hbmPc q.pc 0x10) = s.ctr (Addr.hbmPc q.pc 0x10) + BitVec.ofNat 64 (if q.op = .read then 0 else q.n) ∧
        CtrsBut [Addr.hbmPc q.pc 0x8, Addr.hbmPc q.pc 0x10] s t ∧ Keeps [.ctrs, .hbm] s t) ∧
    (∀ w, s.pcState q.pc = 0 → q.op ≠ .write → w < 2 * q.n → q.errs = [⟨w, false⟩] →
      ∃ t, exec (.hbmRequest q.pc [q]) s = .next t ∧ t.ctr (Addr.hbmPc q.pc 0x18) = s.ctr (Addr.hbmPc q.pc 0x18) + 1 ∧
        (t.pcRec q.pc).corr = (s.pcRec q.pc).corr + 1 ∧ (t.hbmRow q.pc (q.line / 4)).corr = (s.hbmRow q.pc (q.line / 4)).corr + 1 ∧
        (s.rd 0x300008 31 24 = (s.hbmRow q.pc (q.line / 4)).corr + 1 → (q.pc, q.line / 4) ∈ t.hbmDue) ∧
        (s.rd 0x300008 31 24 ≠ (s.hbmRow q.pc (q.line / 4)).corr + 1 → t.hbmDue = s.hbmDue ∧ RegsBut [] s t) ∧
        RegsBut [0x300000] s t ∧ CtrsBut [Addr.hbmPc q.pc 0x8, Addr.hbmPc q.pc 0x10, Addr.hbmPc q.pc 0x18] s t ∧
        Keeps [.ctrs, .hbm, .regs] s t) ∧
    (∀ w, s.pcState q.pc = 0 → q.op ≠ .write → w < 2 * q.n → q.errs = [⟨w, true⟩] → (s.pcRec q.pc).uncorr < 255 →
      ∃ t, exec (.hbmRequest q.pc [q]) s = .next t ∧ t.ctr (Addr.hbmPc q.pc 0x20) = s.ctr (Addr.hbmPc q.pc 0x20) + 1 ∧
        (t.pcRec q.pc).uncorr = (s.pcRec q.pc).uncorr + 1 ∧ (∀ b, b ≠ q.blk → t.side b = s.side b) ∧
        (own → (t.lost q.blk = true ∨ ∃ f ∈ s.frames, f.page = q.blk / 64 ∧ f.copy = true ∧ q.blk ∉ f.dirty) ∧
          ∃ f ∈ t.sick, f.tier = 2 ∧ f.frame = rtFrame (s.rt (q.blk / 64))) ∧
        (¬own → t.side q.blk = s.side q.blk ∧
          ∀ m ∈ s.migs, m.page = q.blk / 64 → m.tier = 2 → m.frame = granuleAt s.removedPc q.pc q.line / 1024 →
            ∃ n ∈ t.migs, n.page = m.page ∧ n.frame = m.frame ∧ q.blk ∈ n.lostDest) ∧
        Keeps [.ctrs, .hbm, .regs, .sb, .side, .pages, .moves] s t) ∧
    (s.pcState q.pc = 3 → own → q.op ≠ .read ∨ s.frames = [] →
      ∃ t, exec (.hbmRequest q.pc [q]) s = .next t ∧ t.lost q.blk = true ∧ (∀ b, b ≠ q.blk → t.side b = s.side b) ∧
        t.ctr (Addr.hbmPc q.pc 0x20) = s.ctr (Addr.hbmPc q.pc 0x20) + BitVec.ofNat 64 (if q.op = .write then 0 else 2 * q.n) ∧
        Keeps [.ctrs, .hbm, .sb, .side, .pages] s t)) ∧
  (∀ (s : State) (p blk sectors : Nat) (bad : Bool) (x : PartRec), s.maps.wf = true → p < 8 → sectors ≤ 128 → s.part p = some x →
    x.owns (blk / 64) = true → rtState (s.rt (blk / 64)) ≠ 0 → s.hbmWait = [] → (∀ g ∈ s.blockPlaces blk, g.1 < 512 ∧ s.pcState g.1 = 0) →
    (∀ q, s.pageOwner (blk / 64) = some q → q < 8) →
    ∃ t, exec (.narrowPathRequest p blk sectors [] bad) s = .next t ∧ rtAge (t.rt (blk / 64)) = 0 ∧
      (∀ pg, pg ≠ blk / 64 → t.rt pg = s.rt pg) ∧ t.hbmWait = [] ∧
      t.ctr (Addr.ras p 0x10) = s.ctr (Addr.ras p 0x10) + (if bad || s.crcBad blk then 1 else 0) ∧
      (∀ pc, pc < 512 → t.ctr (Addr.hbmPc pc 0x8) = s.ctr (Addr.hbmPc pc 0x8) +
        BitVec.ofNat 64 (8 * ((s.blockPlaces blk).filter fun g => g.1 == pc).length)) ∧
      CtrsBut (Addr.ras p 0x10 :: dropped :: hostCtrs ++ (s.blockPlaces blk).map fun g => Addr.hbmPc g.1 0x8) s t ∧
      Keeps [.pages, .ctrs, .sb, .hbm] s t) ∧
  (∀ (s : State) (pc line : Nat) (errs : List WordErr), s.maps.wf = true → pc < 512 → line < 6291456 →
    (s.pcState pc ≠ 0 ∨ s.rd 0x709108 0 0 = 1 → exec (.patrolScrub pc line errs) s = .next s) ∧
    (s.pcState pc = 0 → s.rd 0x709108 0 0 = 0 → (∃ q ∈ s.hbmWait, q.pc = pc) →
      ∃ t q, exec (.patrolScrub pc line errs) s = .next t ∧ t.hbmWait = s.hbmWait ++ [q] ∧ s.reqClass q = 3 ∧ q.pc = pc ∧ q.line = line ∧
        Keeps [.hbm] s t) ∧
    (s.pcState pc = 0 → s.rd 0x709108 0 0 = 0 → (∀ q ∈ s.hbmWait, q.pc ≠ pc) → errs = [] →
      ∃ t, exec (.patrolScrub pc line errs) s = .next t ∧ t.ctr (Addr.hbmPc pc 0x8) = s.ctr (Addr.hbmPc pc 0x8) + 8 ∧
        t.hbmWait = s.hbmWait ∧ CtrsBut [Addr.hbmPc pc 0x8] s t ∧ Keeps [.ctrs, .hbm] s t))

/-- R361 to R369, R374. -/
def Obligations.HbmChannelsRetrainRepairFail : Prop :=
  ∀ (s : State) (pc : Nat), s.maps.wf = true → pc < 512 →
    (∀ cause, s.pcState pc = 0 → s.stackQuiet pc = true → s.retrainDue pc cause = true →
      s.lowerDue pc = false → s.repairFirst pc = false →
      ∃ t, exec (.retrainStart pc cause) s = .next t ∧ t.pcState pc = 1 ∧ t.rd 0x300000 15 12 = (s.rd 0x300000 15 12 + 1) % 16 ∧
        t.ctr (Addr.hbmPc pc 0x28) = s.ctr (Addr.hbmPc pc 0x28) + 1 ∧ RegsBut [Addr.hbmPc pc 0, 0x300000] s t ∧
        CtrsBut [Addr.hbmPc pc 0x28] s t ∧ (∀ q ∈ s.hbmHold, q ∈ t.hbmHold) ∧ Keeps [.regs, .ctrs, .hbm] s t) ∧
    (∀ cause, s.pcState pc ≠ 0 ∨ s.stackQuiet pc = false ∨ s.retrainDue pc cause = false ∨ s.lowerDue pc = true ∨
        s.repairFirst pc = true →
      exec (.retrainStart pc cause) s = .next s) ∧
    (∀ clocks ok, s.pcState pc = 1 → s.dying = false → (∀ q ∈ s.hbmHold, q.pc ≠ pc) →
      ∃ t, exec (.retrainComplete pc clocks ok) s = .next t ∧
        t.pcState pc = (if ok = false ∧ 3 ≤ (s.pcRec pc).fails + 1 then 3 else 0) ∧
        (t.pcRec pc).fails = (if ok then 0 else (s.pcRec pc).fails + 1) ∧
        (ok = true → t.rd (0x300100 + 8 * (pc % 8)) 15 8 = s.rd (0x300100 + 8 * (pc % 8)) 7 0) ∧
        t.ctr (Addr.hbmPc pc 0x40) = s.ctr (Addr.hbmPc pc 0x40) + BitVec.ofNat 64 clocks ∧
        t.ctr (Addr.hbmPc pc 0x30) = s.ctr (Addr.hbmPc pc 0x30) + (if ok then 0 else 1) ∧
        t.rd 0x300000 15 12 = s.rd 0x300000 15 12 - 1 ∧ t.hbmHold = s.hbmHold ∧
        RegsBut [Addr.hbmPc pc 0, 0x300000, 0x300014, 0x300100 + 8 * (pc % 8)] s t ∧
        CtrsBut [Addr.hbmPc pc 0x40, Addr.hbmPc pc 0x30, dropped] s t ∧ Keeps [.hbm, .regs, .ctrs, .sb, .parts, .moves] s t) ∧
    (∀ clocks ok, s.pcState pc = 1 → ∃ t, exec (.retrainComplete pc clocks ok) s = .next t ∧ (∀ q ∈ t.hbmHold, q.pc ≠ pc) ∧
      (s.dying = true → s.flushOwed = false → (∀ i, i < 512 → i ≠ pc → s.pcQuiet i = false) →
        t.dying = false ∧ t.tasks = [] ∧ t.parts = [])) ∧
    (s.answers 0x300014 = true → s.hbmDue ≠ [] →
      ∃ t, exec (.repairGo 0) s = .next t ∧ t.rd 0x300014 0 0 = 1 ∧ RegsBut [0x300014] s t ∧ Keeps [.regs] s t) ∧
    (∀ row, row < 1572864 → s.pcState pc = 0 → s.stackQuiet pc = true → s.firstDue (pc % 8) = some (pc, row) →
      (s.rd 0x300008 48 48 = 1 → s.rd 0x300014 0 0 = 1) → s.rd 0x709108 0 0 = 0 →
      (s.repairsLeft pc ≠ 0 → row % 16 ∉ (s.pcRec pc).used →
        ∃ t, exec (.repairStart pc row) s = .next t ∧ t.pcState pc = 2 ∧ (t.pcRec pc).repairing = some row ∧ t.hbmDue = s.hbmDue ∧
          t.rd 0x300000 15 12 = (s.rd 0x300000 15 12 + 1) % 16 ∧ RegsBut [Addr.hbmPc pc 0, 0x300000] s t ∧ Keeps [.hbm, .regs] s t) ∧
      (s.repairsLeft pc = 0 ∨ row % 16 ∈ (s.pcRec pc).used →
        ∃ t, exec (.repairStart pc row) s = .next t ∧ t.pcState pc = 0 ∧ t.hbmDue = s.hbmDue.filter (fun q => q != (pc, row)) ∧
          (∀ f ∈ s.sick, f ∈ t.sick) ∧ (∀ pg ∈ s.rowPages pc row, ∃ f ∈ t.sick, f.tier = 2 ∧ f.frame = rtFrame (s.rt pg)) ∧
          (∀ f ∈ s.rowFrames pc row, f ∉ s.usedFrames 0 2 → ∃ e ∈ t.disMap, e.what = 3 ∧ e.idx = f) ∧
          RegsBut [0x300000, 0x300014, 0x200018] s t ∧ CtrsBut (((List.range 8).map fun p => Addr.memp p 0x98) ++ [dropped]) s t ∧
          Keeps [.hbm, .regs, .moves, .ctrs, .sb, .parts, .free] s t)) ∧
    (∀ row clocks, s.pcState pc = 2 → s.dying = false → (s.pcRec pc).repairing = some row →
      ((s.pcRec pc).uncorr < 256 ∨ 1 < s.repairsLeft pc) → (∀ q ∈ s.hbmHold, q.pc ≠ pc) →
      ∃ t, exec (.repairComplete pc clocks []) s = .next t ∧ t.pcState pc = 0 ∧ (t.pcRec pc).repairing = none ∧
        (t.pcRec pc).used = (s.pcRec pc).used ++ [row % 16] ∧ t.repairsLeft pc = s.repairsLeft pc - 1 ∧
        t.hbmDue = s.hbmDue.filter (fun q => q != (pc, row)) ∧ (∀ r ∈ t.hbmRows, r.pc ≠ pc ∨ r.row ≠ row) ∧
        t.ctr (Addr.hbmPc pc 0x38) = s.ctr (Addr.hbmPc pc 0x38) + 1 ∧ t.ctr (Addr.hbmPc pc 0x8) = s.ctr (Addr.hbmPc pc 0x8) + 32 ∧
        t.ctr (Addr.hbmPc pc 0x10) = s.ctr (Addr.hbmPc pc 0x10) + 32 ∧
        t.ctr (Addr.hbmPc pc 0x40) = s.ctr (Addr.hbmPc pc 0x40) + BitVec.ofNat 64 clocks ∧
        RegsBut [Addr.hbmPc pc 0, 0x300000, 0x300014] s t ∧ CtrsBut ([0x8, 0x10, 0x38, 0x40].map (Addr.hbmPc pc) ++ [dropped]) s t ∧
        Keeps [.hbm, .regs, .ctrs, .sb, .moves] s t) ∧
    (∀ row clocks errs, s.pcState pc = 2 → s.dying = false → (s.pcRec pc).repairing = some row → s.frames = [] →
      ∃ t, exec (.repairComplete pc clocks errs) s = .next t ∧
        ∀ e ∈ wordErrs 64 errs, e.uncorr = true → ∀ b, s.lineBlock pc (4 * row + e.word / 16) = some b →
          rtFrame (s.rt (b / 64)) = granuleAt s.removedPc pc (4 * row + e.word / 16) / 1024 → rtTier (s.rt (b / 64)) = 2 →
          (rtState (s.rt (b / 64)) = 2 ∨ rtState (s.rt (b / 64)) = 3) → t.lost b = true) ∧
    (s.pcState pc ≠ 3 → s.pcState pc ≠ 4 → s.dying = false → (∀ q ∈ s.hbmHold, q.pc ≠ pc) →
      ∃ t, exec (.pcControllerFault pc) s = .next t ∧ t.pcState pc = 3 ∧ (∃ e ∈ t.disMap, e.what = 5 ∧ e.idx = pc) ∧
        t.hbmDue = s.hbmDue.filter (fun q => q.1 != pc) ∧ t.rd 0x300000 47 47 = 1 ∧ t.rd 0x300000 46 38 = pc ∧
        RegsBut [Addr.hbmPc pc 0, 0x300000, 0x300014] s t ∧ Keeps [.hbm, .regs, .parts, .sb, .ctrs, .moves] s t) ∧
    (s.pcState pc = 3 ∨ s.pcState pc = 4 → exec (.pcControllerFault pc) s = .next s)

/-- R431, R432. -/
def Obligations.ControlCoreFaultsRestartOrEndTheModule : Prop :=
  ∀ (s : State) (core : Nat) (exc : Bool), s.maps.wf = true → core < 8 → s.fatal = false → s.dying = false →
    (s.boot = .firmware →
      (∀ waiting pages, ∃ t, exec (.controlCoreFault core exc waiting pages true) s = .next t ∧ t.fatal = true ∧ t.stopped = true ∧
        t.sb.waiting = s.sb.waiting ++ [3] ∧ t.ctr 0x700018 = s.ctr 0x700018 + 1 ∧
        Says (if s.rd 0x8 3 0 = 0 then [.pin "ALERT_N" false] else [.pin "ALERT_N" false, .msix 0 17]) s t ∧
        RegsBut [0x700008] s t ∧ CtrsBut [0x700018, dropped] s t ∧ Keeps [.regs, .ctrs, .sb, .outs] s t) ∧
      (∃ t, exec (.controlCoreFault core exc [] [] false) s = .next t ∧ t.restarting core = true ∧
        (∀ j, j < 8 → j ≠ core → t.restarting j = s.restarting j) ∧ t.ctr 0x700018 = s.ctr 0x700018 + 1 ∧
        RegsBut [0x700008] s t ∧ CtrsBut [0x700018, dropped] s t ∧ Keeps [.regs, .ctrs, .sb] s t) ∧
      (∀ tid x, s.task tid = some x → x.phase ≠ .done → x.phase ≠ .ended → (1 ≤ x.coreFaults ∨ x.oneShot = true) →
        ∃ t, exec (.controlCoreFault core exc [tid] [] false) s = .next t ∧ t.restarting core = true ∧ Ended x 0x3F s t ∧
          RegsBut [0x700008] s t ∧ CtrsBut [0x700018, dropped] s t ∧ Keeps [.regs, .ctrs, .sb, .tasks] s t) ∧
      (∀ tid x, s.task tid = some x → x.phase ≠ .done → x.phase ≠ .running → x.coreFaults = 0 → x.oneShot = false → x.p < 8 →
        ∃ t, exec (.controlCoreFault core exc [tid] [] false) s = .next t ∧ t.task tid = some { x with coreFaults := 1 } ∧
          TasksBut tid s t ∧ t.ctr (Addr.ras x.p 0x28) = s.ctr (Addr.ras x.p 0x28) + 1 ∧ RegsBut [0x700008] s t ∧
          CtrsBut [0x700018, Addr.ras x.p 0x28, dropped] s t ∧ Keeps [.regs, .ctrs, .sb, .tasks] s t) ∧
      (∀ m ∈ s.migs, ∃ t, exec (.controlCoreFault core exc [] [m.page] false) s = .next t ∧ rtState (t.rt m.page) = 2 ∧
        rtDest (t.rt m.page) = 0 ∧ rtFrame (t.rt m.page) = rtFrame (s.rt m.page) ∧ (∀ pg, pg ≠ m.page → t.rt pg = s.rt pg) ∧
        t.migs = s.migs.filter (fun y => y.page != m.page) ∧ Keeps [.regs, .ctrs, .sb, .pages, .moves] s t)) ∧
    (∃ t, exec (.coreRestartComplete core) s = .next t ∧ t.restarting core = false ∧
      (∀ j, j < 8 → j ≠ core → t.restarting j = s.restarting j) ∧ RegsBut [0x700008] s t ∧ Keeps [.regs] s t) ∧
    (s.restarting core = true →
      ∃ t, exec (.coreRestartTimeout core) s = .next t ∧ t.fatal = true ∧ t.sb.waiting = s.sb.waiting ++ [3] ∧ RegsBut [0x700008] s t ∧
        CtrsBut [dropped] s t ∧ Keeps [.regs, .ctrs, .sb, .outs] s t) ∧
    (s.restarting core = false → exec (.coreRestartTimeout core) s = .next s)

/-- R355, R427, R429. -/
def Obligations.ArrivingBlocksAreCheckedAndFoulsRepeat : Prop :=
  ∀ (s : State) (tid uid blk : Nat) (bad : Bool) (x : TaskRec), s.maps.wf = true → s.task tid = some x → x.p < 8 →
    (∀ u c, x.unit uid = some u → u.phase = .issued ∨ u.phase = .summed → x.f 0 1 ≤ 1 → blk ∉ u.arrived → blk ∈ s.unitNeeds x u →
      x.phase = .running → c = (s.foulPath x.p blk (s.gathered x u blk)).1 →
      (s.lost blk = false → s.readable (blk / 64) = false → exec (.operandBlockArrive tid uid blk bad) s = .next s) ∧
      (∀ seen, s.lost blk = false → s.readable (blk / 64) = true → (bad || s.crcBad blk) = false →
        seen = (x.slices.any fun y => y.die == u.die && y.seen.contains blk) →
        ∃ t us, exec (.operandBlockArrive tid uid blk bad) s = .next t ∧ t.task tid = some (x.take u.die blk us) ∧ TasksBut tid s t ∧
          uid ∈ us ∧ (x.f 0 1 = 1 → us = [uid]) ∧
          (∀ k ∈ us, k = uid ∨ ∃ v ∈ x.units, v.uid = k ∧ v.phase = .issued ∧ v.die = u.die ∧ blk ∉ v.arrived) ∧
          t.ctr (Addr.seq u.die 0x30) = s.ctr (Addr.seq u.die 0x30) +
            BitVec.ofNat 64 (if s.gathered x u blk then 0 else s.dmaBytes seen blk (s.unitRuns x u)) ∧
          (x.f 0 1 = 1 ∨ x.aTrans = false → t.ctr (Addr.seq u.die 0x38) = s.ctr (Addr.seq u.die 0x38)) ∧
          CtrsBut (Addr.seq u.die 0x30 :: Addr.seq u.die 0x38 :: hostCtrs) s t ∧
          (∀ pg, pg ≠ blk / 64 → t.rt pg = s.rt pg) ∧ AgesOnly s t ∧ Keeps [.tasks, .ctrs, .pages, .touch] s t) ∧
      (s.lost blk = false → s.readable (blk / 64) = true → (bad || s.crcBad blk) = true →
        ∃ t, exec (.operandBlockArrive tid uid blk bad) s = .next t ∧ t.ctr c = s.ctr c + 1 ∧
          (s.foulRetries ≤ u.fouls + 1 → Ended x 0x20 s t) ∧
          (u.fouls + 1 < s.foulRetries → ∃ v, t.task tid = some (x.setUnit v) ∧ v.uid = uid ∧ v.fouls = u.fouls + 1 ∧ v.phase = .failed ∧
            v.redo = 1 ∧ v.arrived = [] ∧ v.acc = [] ∧ TasksBut tid s t) ∧
          CtrsBut [c, dropped] s t ∧ Keeps [.tasks, .ctrs, .sb] s t) ∧
      (s.lost blk = true → s.recoverable blk = none → s.blockQuiesced blk = false →
        ∃ t, exec (.operandBlockArrive tid uid blk bad) s = .next t ∧ Ended x 0x22 s t ∧
          t.ctr (Addr.ras x.p 0x38) = s.ctr (Addr.ras x.p 0x38) + 1 ∧ CtrsBut [Addr.ras x.p 0x38] s t ∧ Keeps [.tasks, .ctrs] s t) ∧
      (∀ h, s.lost blk = true → s.recoverable blk = some h → s.blockQuiesced blk = false →
        ∃ t, exec (.operandBlockArrive tid uid blk bad) s = .next t ∧ TasksBut tid s t ∧
          t.task tid = some { x with
            phase := .fresh, units := [], slices := [], pins := [], halts := [], mark := 0, words := [], vfails := [] } ∧
          (∀ y ∈ t.kvRecs, y.entry ≠ h.entry) ∧ t.ctr (Addr.kv x.p 0x10) = s.ctr (Addr.kv x.p 0x10) + 1 ∧
          t.ctr (Addr.sch x.p 0x100) = s.ctr (Addr.sch x.p 0x100) + 1 ∧ Keeps (.tasks :: .kv :: wrote) s t)) ∧
    (∀ u, x.unit uid = some u → u.phase ≠ .failed → s.lost blk = true → s.blockQuiesced blk = true →
      exec (.operandBlockArrive tid uid blk bad) s = .next s) ∧
    (∀ u c, x.unit uid = some u → u.phase = .failed → u.why = 9 → blk ∉ u.arrived → blk ∈ s.unitNeeds x u →
      s.readable (blk / 64) = true → bad = true → c = (s.foulPath x.p blk (s.gathered x u blk)).1 →
      ∃ t, exec (.operandBlockArrive tid uid blk bad) s = .next t ∧ t.ctr c = s.ctr c + 1 ∧ CtrsBut [c, dropped] s t ∧
        Keeps [.ctrs, .sb] s t) ∧
    (∀ u, x.unit uid = some u → blk ∈ u.arrived ∨ blk ∉ s.unitNeeds x u →
      exec (.operandBlockArrive tid uid blk bad) s = .next s) ∧
    (∀ c, x.unit uid = none → x.phase = .ready → x.f 0 1 = 2 ∨ x.f 0 1 = 3 → blk ∈ s.stepNeeds x →
      c = (s.foulPath x.p blk (s.wordBlock x blk)).1 →
      (s.lost blk = true → s.recoverable blk = none → s.blockQuiesced blk = false →
        ∃ t, exec (.operandBlockArrive tid uid blk bad) s = .next t ∧ Ended x 0x22 s t ∧
          t.ctr (Addr.ras x.p 0x38) = s.ctr (Addr.ras x.p 0x38) + 1 ∧ CtrsBut [Addr.ras x.p 0x38] s t ∧ Keeps [.tasks, .ctrs] s t) ∧
      (s.lost blk = false → (bad || s.crcBad blk) = false → exec (.operandBlockArrive tid uid blk bad) s = .next s) ∧
      (s.lost blk = false → s.readable (blk / 64) = true → (bad || s.crcBad blk) = true →
        ∃ t, exec (.operandBlockArrive tid uid blk bad) s = .next t ∧ t.ctr c = s.ctr c + 1 ∧
          (s.foulRetries ≤ x.fouls.count uid + 1 → Ended x 0x20 s t) ∧
          (x.fouls.count uid + 1 < s.foulRetries → t.task tid = some { x with fouls := uid :: x.fouls } ∧ TasksBut tid s t) ∧
          CtrsBut [c, dropped] s t ∧ Keeps [.tasks, .ctrs, .sb] s t))

/-- R452 to R458. -/
def Obligations.StartsWaitForEveryMember : Prop :=
  (∀ (s : State) (tid : Nat) (x : TaskRec) (r : StartRec), s.maps.wf = true → s.memGood → s.task tid = some x → x.isKind 5 0x20 = true →
    s.mayRun x = true → s.groupBusy x = false → s.CanStep x (rngBlocks x.listReads) [] → (∀ y ∈ s.starts, y.tid ≠ tid) →
    (∀ m ∈ s.startMsgs, ¬(m.p = x.p ∧ m.group = x.f 0x20 2 ∧ m.seq = x.f 0x24 4)) →
    r = { tid := tid, group := x.f 0x20 2, seq := x.f 0x24 4, p := x.p, method := s.rd (Addr.syn x.p 0) 0 0, list := s.memberList x } →
    (s.listOk x = false ∨ x.zeros 0x38 0x40 = false →
      ∃ t, exec (.start tid) s = .next t ∧ Ended x 0x10 s t ∧ Keeps [.tasks, .pages, .touch, .ctrs] s t) ∧
    (s.listOk x = true → x.zeros 0x38 0x40 = true → s.isRoot r = false → r.method = 0 →
      ∃ t, exec (.start tid) s = .next t ∧ t.task tid = some { x with phase := .running } ∧ TasksBut tid s t ∧ t.starts = s.starts ++ [r] ∧
        Says [.start (r.list.headD 0) { kind := .arrival, group := r.group, seq := r.seq, p := r.list.headD 0 / 65536, method := 0,
                                        list := r.list, sender := s.selfEntry x.p, count := s.gcount }] s t ∧
        Keeps [.tasks, .starts, .outs, .pages, .touch, .ctrs] s t) ∧
    (s.listOk x = true → x.zeros 0x38 0x40 = true → s.isRoot r = true → (r.method = 0 ∨ x.f 0x28 8 = 0) →
      ∃ t, exec (.start tid) s = .next t ∧ t.task tid = some { x with phase := .running } ∧ TasksBut tid s t ∧
        t.starts = s.starts ++ [{ r with arrivals := [(s.selfEntry x.p, s.gcount)] }] ∧
        Keeps [.tasks, .starts, .pages, .touch, .ctrs] s t)) ∧
  (∀ (s : State) (m : StartMsg) (r : StartRec) (x : TaskRec), s.maps.wf = true → m.p < 8 → s.startFor m = some r →
    s.task r.tid = some x → x.phase = .running →
    (m.kind = .withdrawal →
      ∃ t, exec (.startMessage m) s = .next t ∧ exec (.startWithdrawal m) s = .next t ∧ Ended x 0x30 s t ∧
        t.starts = s.starts.filter (fun y => y.tid != r.tid) ∧ t.startMsgs = s.startMsgs ∧
        Keeps [.tasks, .starts] s t) ∧
    (m.kind ≠ .withdrawal → (m.method ≠ r.method ∨ m.list ≠ r.list) →
      ∃ t, exec (.startMessage m) s = .next t ∧ Ended x 0x10 s t ∧ t.starts = s.starts.filter (fun y => y.tid != r.tid) ∧
        t.ctr 0x900078 = s.ctr 0x900078 + 1 ∧ Says (s.toOthers r .withdrawal 0) s t ∧ CtrsBut [0x900078] s t ∧
        Keeps [.tasks, .starts, .outs, .ctrs] s t) ∧
    (m.method = r.method → m.list = r.list →
      (m.kind = .release → r.method = 0 →
        ∃ t, exec (.startMessage m) s = .next t ∧ exec (.huddleRelease m) s = .next t ∧ Ended x 0 s t ∧
          t.starts = s.starts.filter (fun y => y.tid != r.tid) ∧
          t.ctr (Addr.syn r.p 0x10) = s.ctr (Addr.syn r.p 0x10) + 1 ∧ CtrsBut [Addr.syn r.p 0x10] s t ∧
          Keeps [.tasks, .starts, .ctrs] s t) ∧
      (m.kind = .arrival → s.isRoot r = true → m.sender ∈ r.list →
        ((r.arrivals.filter fun a => a.1 != m.sender).length + 1 < r.list.length →
          ∃ t, exec (.startMessage m) s = .next t ∧ exec (.huddleArrival m) s = .next t ∧
            t.starts = s.starts.map (fun y => if y.tid = r.tid then
              { r with arrivals := (m.sender, m.count) :: r.arrivals.filter fun a => a.1 != m.sender } else y) ∧
            t.startMsgs = s.startMsgs ∧ Keeps [.starts] s t) ∧
        (r.list.length ≤ (r.arrivals.filter fun a => a.1 != m.sender).length + 1 → r.method = 0 →
          ∃ t, exec (.startMessage m) s = .next t ∧ exec (.huddleArrival m) s = .next t ∧ Ended x 0 s t ∧
            (∀ y ∈ t.starts, y.tid ≠ r.tid) ∧ Says (s.toOthers r .release 0) s t ∧
            t.ctr (Addr.syn r.p 0x10) = s.ctr (Addr.syn r.p 0x10) + 1 ∧ CtrsBut [Addr.syn r.p 0x10] s t ∧
            Keeps [.tasks, .starts, .outs, .ctrs] s t)) ∧
      (m.kind = .count → r.method = 1 →
        (m.count < s.gcount →
          ∃ t, exec (.startMessage m) s = .next t ∧ exec (.whistleCount m) s = .next t ∧
            Ended { x with flags := orFlag x.flags 4 } 0 s t ∧ (∀ y ∈ t.starts, y.tid ≠ r.tid) ∧
            t.ctr (Addr.syn r.p 0x10) = s.ctr (Addr.syn r.p 0x10) + 1 ∧ t.ctr (Addr.syn r.p 0x18) = s.ctr (Addr.syn r.p 0x18) + 1 ∧
            CtrsBut [Addr.syn r.p 0x10, Addr.syn r.p 0x18] s t ∧ Keeps [.tasks, .starts, .ctrs] s t) ∧
        (s.gcount ≤ m.count →
          ∃ t, exec (.startMessage m) s = .next t ∧ exec (.whistleCount m) s = .next t ∧
            t.starts = s.starts.map (fun y => if y.tid = r.tid then { y with target := some m.count } else y) ∧
            t.startMsgs = s.startMsgs ∧ Keeps [.starts] s t)))) ∧
  (∀ (s : State) (m : StartMsg), m.p < 8 → s.startFor m = none → s.collFor m = none →
    ∃ t, exec (.startMessage m) s = .next t ∧ t.starts = s.starts ∧ t.startMsgs = s.startMsgs ++ [m] ∧ Keeps [.starts] s t) ∧
  (∀ (s : State) (r : StartRec) (x : TaskRec) (c : Nat), s.maps.wf = true → (s.starts.find? fun y => y.tid == r.tid) = some r →
    r.target = some c → c < pow2 64 → s.gcount ≤ c → s.task r.tid = some x → x.phase = .running →
    ∃ t, exec (.whistleRelease r.tid) s = .next t ∧ Ended x 0 s t ∧ t.gcount = c ∧ (∀ y ∈ t.starts, y.tid ≠ r.tid) ∧
      t.ctr (Addr.syn r.p 0x10) = s.ctr (Addr.syn r.p 0x10) + 1 ∧ RegsBut [0x900008] s t ∧ CtrsBut [Addr.syn r.p 0x10] s t ∧
      Keeps [.tasks, .starts, .ctrs, .regs, .clock] s t) ∧
  (∀ (s : State) (r : StartRec) (x : TaskRec), s.maps.wf = true → (s.starts.find? fun y => y.tid == r.tid) = some r →
    s.task r.tid = some x → x.phase = .running →
    ∃ t, exec (.startTimeout r.tid) s = .next t ∧ Ended x 0x30 s t ∧ (∀ y ∈ t.starts, y.tid ≠ r.tid) ∧
      t.ctr (Addr.syn x.p 0x20) = s.ctr (Addr.syn x.p 0x20) + 1 ∧
      Says (s.toOthers r .withdrawal 0 ++ (s.fnOfPart x.p).toList.map fun fn => Out.msix fn 16) s t ∧ CtrsBut [Addr.syn x.p 0x20] s t ∧
      Keeps [.tasks, .starts, .outs, .ctrs] s t)

/-- R29, R30, R33, R417, R586, R587. -/
def Obligations.FrameTickClosesTheFrame : Prop :=
  (∀ (s : State) (env : TickEnv), s.maps.wf = true → env.dieTemps.length = 20 → env.stackTemps.length = 8 →
    (∀ w ∈ env.waits, w.d < 8) → (∀ x ∈ env.cqFull, x.1 < 8) →
    (s.boot ≠ .firmware ∨ (s.ready = false ∧ s.held = false) ∨ s.tickDue env.clocks = false → exec (.frameTick env) s = .next s) ∧
    (s.boot = .firmware → s.ready = true ∨ s.held = true → s.tickDue env.clocks = true →
      ∃ t, exec (.frameTick env) s = .next t ∧ t.reg 0x100008 = s.reg 0x100008 + 1 ∧ t.tickClk = s.tickClk + env.clocks ∧
        t.maps.acct = [] ∧
        (∀ p k f, p < 8 → k < 256 → f < 4 →
          t.ctr (Addr.acct p k f) = s.ctr (Addr.acct p k f) + Sparse.get 0 s.maps.acct (Addr.acct p k f)) ∧
        t.touched = [] ∧ t.touchedPrev = s.touched ∧ (∀ pg, (∀ y ∈ s.moves, y.page ≠ pg) → t.rt pg = agedEntry (s.rt pg)) ∧
        t.rd 0xA0000C 26 16 =
          (if s.anyWarn (env.dieTemps ++ env.stackTemps) then max 400 (s.rd 0xA0000C 26 16 - 50)
           else if s.allCool (env.dieTemps ++ env.stackTemps) then min 1650 (s.rd 0xA0000C 26 16 + 10) else s.rd 0xA0000C 26 16) ∧
        t.rd 0xA0000C 10 0 =
          min (clampCap (s.rd 0xA00008 10 0)) (min (clampCap (s.rd 0xA00008 26 16)) (clampCap (t.rd 0xA0000C 26 16))) ∧
        t.rd 0xA00000 15 8 = nextGrant (s.rd 0xA00000 15 8) (t.rd 0xA0000C 10 0) env.power ∧ t.powerHold = false ∧ t.tripped = false ∧
        (∀ p r, p < 8 → r < 16 → s.serving p = true → s.enabled p r = true → ∃ k, (p, r, k) ∈ t.reading) ∧ t.rings = s.rings ∧
        t.readNo = s.readNo + 1 ∧ t.fuses = s.fuses ∧ t.boot = s.boot ∧
        Keeps [.regs, .ctrs, .acct, .kv, .clock, .touch, .hbm, .power, .sb, .pages, .rings, .life, .moves, .free] s t)) ∧
  (∀ (s : State) (clocks : Nat),
    (s.boot = .firmware → s.ready = true → s.idleAt clocks = true →
      ∃ t, exec (.idlePoll clocks) s = .next t ∧ t.rings = s.rings ∧ (∀ x ∈ s.reading, x ∈ t.reading) ∧
        (∀ p r, p < 8 → r < 16 → s.serving p = true → s.enabled p r = true → ∃ k, (p, r, k) ∈ t.reading) ∧
        t.readNo = s.readNo + 1 ∧ t.readClk = s.tickClk + clocks ∧ Keeps [.rings] s t) ∧
    (s.boot ≠ .firmware ∨ s.ready = false ∨ s.idleAt clocks = false → exec (.idlePoll clocks) s = .next s))

/-- R448 to R450, R460. -/
def Obligations.TimeFollowsTheMaster : Prop :=
  ∀ s : State, s.maps.wf = true →
    (∀ m : TimingMsg, m.port < 24 →
      (s.follows = false ∨ s.upPort ≠ m.port ∨ s.rd (Addr.port m.port 0) 3 0 ≠ 2 → exec (.timingMessage m) s = .next s) ∧
      (s.follows = true → s.upPort = m.port → s.rd (Addr.port m.port 0) 3 0 = 2 → 2 ≤ s.rd (Addr.port m.port 0) 44 43 →
        (s.gcAcquired = false → s.starts = [] → m.stamp + m.rtt / 2 < pow2 64 →
          ∃ t, exec (.timingMessage m) s = .next t ∧ t.gcount = m.stamp + m.rtt / 2 ∧ t.gcAcquired = true ∧ t.gcOffset = 0 ∧
            t.gcAhead = m.clocks ∧ t.fsync = s.fsync ∧ t.tickClk = s.tickClk ∧
            t.rd 0x900000 7 5 = (if m.depth < 4 then m.depth + 1 else 7) ∧ t.rd 0x900000 1 1 = (if m.depth < 4 then 1 else 0) ∧
            RegsBut [0x900000, 0x900008] s t ∧ Keeps [.regs, .clock] s t) ∧
        (s.gcAcquired = true → s.gcAhead ≤ m.clocks → s.gcount + (m.clocks - s.gcAhead) < pow2 64 →
          ∃ t, exec (.timingMessage m) s = .next t ∧ t.gcount = s.gcount + (m.clocks - s.gcAhead) ∧
            t.gcOffset = (m.stamp + m.rtt / 2 : Nat) - (t.gcount : Int) ∧ t.fsync = s.fsync ∧ t.tickClk = s.tickClk ∧
            t.rd 0x900000 1 1 = (if t.gcOffset.natAbs ≤ 1 ∧ m.depth < 4 then 1 else 0) ∧ RegsBut [0x900000, 0x900008] s t ∧
            Keeps [.regs, .clock] s t))) ∧
    (∀ clocks : Nat, s.follows = true → s.gcAcquired = true → s.rd (Addr.port s.upPort 0) 3 0 = 2 →
      ∃ (t : State) (d : Int), exec (.gcSlew clocks) s = .next t ∧ t.gcOffset = s.gcOffset - d ∧
        t.reg 0x900008 = BitVec.ofInt 64 ((s.gcount : Int) + d) ∧ d.natAbs ≤ clocks / 4096 ∧
        t.gcOffset.natAbs ≤ s.gcOffset.natAbs ∧ t.fsync = s.fsync ∧ RegsBut [0x900000, 0x900008] s t ∧ Keeps [.regs, .clock] s t) ∧
    (∀ e : Int, s.rd 0x900020 59 58 = 1 → s.fsync.edge = none → -(s.period : Int) < 2 * e → 2 * e ≤ s.period → s.fsync.relock = 0 →
      (8 * e.natAbs ≤ s.period →
        ∃ t, exec (.fsyncEdge e) s = .next t ∧ t.fsync = { s.fsync with edge := some e, move := e, missed := 0 } ∧
          t.rd 0x900000 3 3 = 0 ∧ RegsBut [0x900000] s t ∧ Keeps [.regs, .clock] s t) ∧
      (s.period < 8 * e.natAbs →
        ∃ t, exec (.fsyncEdge e) s = .next t ∧ t.fsync.relock = 16 ∧ t.fsync.step = Int.tdiv e 16 ∧ t.fsync.move = Int.tdiv e 16 ∧
          t.rd 0x900000 0 0 = 1 ∧ t.ctr 0x900060 = s.ctr 0x900060 + 1 ∧ RegsBut [0x900000] s t ∧ CtrsBut [0x900060] s t ∧
          Keeps [.regs, .clock, .ctrs] s t)) ∧
    (∀ e : Int, s.rd 0x900020 59 58 ≠ 1 ∨ s.fsync.edge ≠ none ∨ 2 * e ≤ -(s.period : Int) ∨ (s.period : Int) < 2 * e →
      exec (.fsyncEdge e) s = .next s)

/-- R473 to R490: the commands of a session. -/
def Obligations.CodecSessionsOpenAndClose : Prop :=
  ∀ (s : State) (tid : Nat) (x : TaskRec), s.maps.wf = true → s.memGood → s.task tid = some x → s.mayRun x = true →
    s.canWriteAll noDie (rngPages [x.cdRecord]) = true →
    (x.isKind 4 0 = true →
      (s.openOk x = false → ∃ t, exec (.codecOpen tid) s = .next t ∧ Ended x 0x10 s t ∧ Keeps [.tasks] s t) ∧
      (s.openOk x = true →
        ∃ t, exec (.codecOpen tid) s = .next t ∧ Ended x 0 s t ∧
          t.sessions = s.sessions ++ [{ addr := x.cdSess, p := x.p, desc := x.desc, marks := List.replicate (x.f 0x34 2) {} }] ∧
          t.devNat x.cdSess 4 = 1 ∧ t.devNat (x.cdSess + 4) 4 = x.f 0x34 2 ∧ t.devNat (x.cdSess + 8) 8 = 0 ∧
          t.devNat (x.cdSess + 16) 8 = 0 ∧ MemBut (span x.cdSess 256) s t ∧ Keeps (.tasks :: .codec :: wrote) s t)) ∧
    (∀ c : Instr, s.session x.p x.cdSess = none →
      (c = .codecClose tid ∧ x.isKind 4 7 = true) ∨ (c = .codecResume tid ∧ x.isKind 4 6 = true) ∨
        (c = .codecKeyRequest tid ∧ x.isKind 4 3 = true) ∨ (c = .codecRelease tid ∧ x.isKind 4 4 = true) ∨
        (c = .codecDecode tid true ∧ x.isKind 4 1 = true) ∨ (c = .codecEncode tid ∧ x.isKind 4 2 = true) ∨
        (c = .codecFlush tid ∧ x.isKind 4 5 = true) →
      ∃ t, exec c s = .next t ∧ Ended x 0x10 s t ∧ Keeps [.tasks] s t) ∧
    (∀ y, s.session x.p x.cdSess = some y →
      (x.isKind 4 7 = true → x.zeros 0x28 0x40 = true →
        ∃ t, exec (.codecClose tid) s = .next t ∧ Ended x 0 s t ∧ t.session x.p x.cdSess = none ∧
          (∀ z ∈ s.sessions, (z.p, z.addr) ≠ (x.p, x.cdSess) → z ∈ t.sessions) ∧ t.sessState x.cdSess = 0 ∧
          MemBut (span x.cdSess 256) s t ∧ Keeps (.tasks :: .codec :: wrote) s t) ∧
      (x.isKind 4 6 = true → x.zeros 0x28 0x40 = true → s.sessState x.cdSess = 2 →
        ∃ t, exec (.codecResume tid) s = .next t ∧ Ended x 0 s t ∧ t.sessState x.cdSess = 1 ∧
          t.session x.p x.cdSess = some { y with marks := y.marks.map fun m => { m with short := false, long := false } } ∧
          (∀ z ∈ s.sessions, (z.p, z.addr) ≠ (x.p, x.cdSess) → z ∈ t.sessions) ∧
          MemBut (span x.cdSess 256) s t ∧ Keeps (.tasks :: .codec :: wrote) s t) ∧
      (x.isKind 4 3 = true → x.zeros 0x28 0x40 = true → s.sessState x.cdSess ≠ 2 → y.encodes = true →
        ∃ t, exec (.codecKeyRequest tid) s = .next t ∧ Ended x 0 s t ∧ t.session x.p x.cdSess = some { y with keyDue := true } ∧
          (∀ z ∈ s.sessions, (z.p, z.addr) ≠ (x.p, x.cdSess) → z ∈ t.sessions) ∧
          MemBut (span x.cdSess 256) s t ∧ Keeps (.tasks :: .codec :: wrote) s t) ∧
      (∀ m, x.isKind 4 4 = true → x.zeros 0x2A 0x40 = true → y.marks[x.f 0x28 2]? = some m → m.out = true →
        ∃ t, exec (.codecRelease tid) s = .next t ∧ Ended x 0 s t ∧
          t.session x.p x.cdSess = some { y with marks := y.marks.set (x.f 0x28 2) { m with out := false } } ∧
          (∀ z ∈ s.sessions, (z.p, z.addr) ≠ (x.p, x.cdSess) → z ∈ t.sessions) ∧
          MemBut (span x.cdSess 256) s t ∧ Keeps (.tasks :: .codec :: wrote) s t) ∧
      (∀ c : Instr, (c = .codecDecode tid true ∧ x.isKind 4 1 = true) ∨ (c = .codecEncode tid ∧ x.isKind 4 2 = true) ∨
          (c = .codecFlush tid ∧ x.isKind 4 5 = true) →
        (s.sessState x.cdSess = 2 → ∃ t, exec c s = .next t ∧ Ended x 0x12 s t ∧ Keeps [.tasks] s t) ∧
        (s.sessState x.cdSess ≠ 2 → x.cdOk y = false → ∃ t, exec c s = .next t ∧ Ended x 0x10 s t ∧ Keeps [.tasks] s t) ∧
        (s.sessState x.cdSess ≠ 2 → x.cdOk y = true → s.CanStep x (rngBlocks (x.cdReads y)) [] →
          ∃ t, exec c s = .next t ∧ t.task tid = some { x with phase := .running, words := [0, 0, 0] } ∧ TasksBut tid s t ∧
            CtrsBut hostCtrs s t ∧ AgesOnly s t ∧ Keeps [.tasks, .pages, .touch, .ctrs] s t)) ∧
      (x.isKind 4 1 = true → s.sessState x.cdSess ≠ 2 → x.cdOk y = true → s.CanStep x (rngBlocks (x.cdReads y)) [] →
        ∃ t, exec (.codecDecode tid false) s = .next t ∧ Ended x 0x10 s t ∧ Keeps [.tasks, .pages, .touch, .ctrs] s t))

/-- R482 to R492. -/
def Obligations.CodecPicturesUpdateTheirSession : Prop :=
  ∀ (s : State) (tid : Nat) (pic : CodecPic) (x : TaskRec) (y : SessRec), s.maps.wf = true → s.task tid = some x → x.p < 8 →
    x.isKind 4 1 = true ∨ x.isKind 4 2 = true ∨ x.isKind 4 5 = true → x.phase = .running → s.session x.p x.cdSess = some y →
    (s.groupCores y = [] → ∃ t, exec (.codecPicture tid pic) s = .next t ∧ Ended x 0x21 s t ∧ Keeps [.tasks] s t) ∧
    (∀ core, s.groupCores y ≠ [] → pic.coreErr = some core → core ∈ s.groupCores y →
      ((s.coreErrs.find? fun e => e.1 == core).map Prod.snd).getD 0 < 15 → x.retries < s.taskRetries →
      ∃ t, exec (.codecPicture tid pic) s = .next t ∧ t.task tid = some { x with retries := x.retries + 1 } ∧ TasksBut tid s t ∧
        t.ctr (Addr.med x.p 0x40) = s.ctr (Addr.med x.p 0x40) + 1 ∧ t.ctr (Addr.ras x.p 0x28) = s.ctr (Addr.ras x.p 0x28) + 1 ∧
        CtrsBut [Addr.med x.p 0x40, Addr.ras x.p 0x28] s t ∧ Keeps [.tasks, .engs, .ctrs] s t) ∧
    (∀ b, s.groupCores y ≠ [] → pic.coreErr = none → (x.cdInputs y pic).find? (fun k => s.lost k) = some b → s.recoverable b = none →
      s.blockQuiesced b = false →
      ∃ t, exec (.codecPicture tid pic) s = .next t ∧ Ended x 0x22 s t ∧
        t.ctr (Addr.ras x.p 0x38) = s.ctr (Addr.ras x.p 0x38) + 1 ∧ CtrsBut [Addr.ras x.p 0x38] s t ∧ Keeps [.tasks, .ctrs] s t) ∧
    (∀ b, s.groupCores y ≠ [] → pic.coreErr = none → (∀ k ∈ x.cdInputs y pic, s.lost k = false) → pic.foul = some b →
      b ∈ x.cdInputs y pic →
      ∃ t, exec (.codecPicture tid pic) s = .next t ∧ t.ctr (s.foulAddr x.p b) = s.ctr (s.foulAddr x.p b) + 1 ∧
        (s.foulRetries ≤ x.words.getD 2 0 + 1 → Ended { x with words := x.words.set 2 (x.words.getD 2 0 + 1) } 0x20 s t) ∧
        (x.words.getD 2 0 + 1 < s.foulRetries →
          t.task tid = some { x with words := x.words.set 2 (x.words.getD 2 0 + 1) } ∧ TasksBut tid s t) ∧
        CtrsBut [s.foulAddr x.p b, dropped] s t ∧ Keeps [.tasks, .ctrs, .sb] s t) ∧
    (∀ k, s.groupCores y ≠ [] → pic.coreErr = none → pic.foul = none →
      (∀ b ∈ x.cdInputs y pic, s.lost b = false ∧ s.crcBad b = false) →
      k = (if pic.takes then (List.range y.marks.length).find? fun i => (y.marks.getD i {}).free else none) →
      s.canWriteAll noDie (x.cdPages y k) = false → exec (.codecPicture tid pic) s = .next s) ∧
    (∀ k, s.groupCores y ≠ [] → pic.coreErr = none → pic.foul = none →
      (∀ b ∈ x.cdInputs y pic, s.lost b = false ∧ s.crcBad b = false ∧ s.readable (b / 64) = true) →
      k = (if pic.takes then (List.range y.marks.length).find? fun i => (y.marks.getD i {}).free else none) →
      s.canWriteAll noDie (x.cdPages y k) = true →
      (y.encodes = false → y.f 0x36 1 = 1 → pic.missing ≠ 0 →
        ∃ t, exec (.codecPicture tid pic) s = .next t ∧ Ended x 0x12 s t ∧ t.sessState x.cdSess = 2 ∧ t.session x.p x.cdSess = some y ∧
          MemBut (span x.cdSess 256) s t ∧ Keeps (.tasks :: .codec :: wrote) s t) ∧
      ((y.encodes = true ∨ y.f 0x36 1 ≠ 1 ∨ pic.missing = 0) → pic.takes = true → y.freeCount = 0 →
        ∃ t, exec (.codecPicture tid pic) s = .next t ∧ t.ctr (Addr.med x.p 0x30) = s.ctr (Addr.med x.p 0x30) + BitVec.ofNat 64 pic.wait ∧
          CtrsBut [Addr.med x.p 0x30] s t ∧ Keeps [.ctrs] s t) ∧
      (∀ ms concealed, y.encodes = false → y.f 0x36 1 ≠ 1 ∨ pic.missing = 0 → x.words.getD 0 0 ≤ 17 →
        (pic.takes = true → k.isSome = true) →
        concealed = (pic.takes && (pic.missing != 0 || pic.syntaxErrs != 0 ||
          (!pic.random && pic.refs.any fun i => (y.marks.getD i {}).concealed))) →
        ms = markBufs y.marks k pic concealed false (x.f 0x40 8 == 0) →
        ∃ t z, exec (.codecPicture tid pic) s = .next t ∧ t.task tid = some z ∧ z.phase = (if pic.last then .ended else .running) ∧
          z.flags = (if concealed then orFlag x.flags 1 else x.flags) ∧ (pic.last = true → z.status = 0) ∧ TasksBut tid s t ∧
          t.session x.p x.cdSess = some { y with marks := ms, nextOut := y.nextOut + min pic.outs.length (17 - x.words.getD 0 0) } ∧
          (∀ q ∈ s.sessions, (q.p, q.addr) ≠ (x.p, x.cdSess) → q ∈ t.sessions) ∧
          t.ctr (Addr.med x.p 0) = s.ctr (Addr.med x.p 0) + (if pic.takes then 1 else 0) ∧
          t.ctr (Addr.med x.p 0x10) = s.ctr (Addr.med x.p 0x10) + BitVec.ofNat 64 pic.missing ∧
          t.ctr (Addr.med x.p 0x18) = s.ctr (Addr.med x.p 0x18) + (if concealed then 1 else 0) ∧
          t.ctr (Addr.med x.p 0x20) = s.ctr (Addr.med x.p 0x20) + BitVec.ofNat 64 pic.syntaxErrs ∧
          (∀ a, inRngs [y.pool, x.cdRec, { base := x.cdSess, len := 256 }] a = false →
            (x.f 0x40 8 = 0 ∨ ∀ (u : State) i o, (u.reg 0x900088) = s.reg 0x900088 → pic.outs[i]? = some o →
              a ∉ (u.pictureBytes x y (y.nextOut + i) o).map Prod.fst) → t.devByte a = s.devByte a) ∧
          Keeps (.tasks :: .codec :: wrote) s t) ∧
      (y.encodes = true → x.words.getD 0 0 ≤ 17 →
        (pic.takes = true → k.isSome = true) → codedOk x y k pic = true →
        ∃ t z, exec (.codecPicture tid pic) s = .next t ∧ t.task tid = some z ∧ z.phase = (if pic.last then .ended else .running) ∧
          z.flags = x.flags ∧ (pic.last = true → z.status = 0) ∧ TasksBut tid s t ∧
          (∃ held, t.session x.p x.cdSess =
            some { y with marks := markBufs y.marks k pic false true false, held := held, keyDue := y.keyDue && !(pic.takes && x.keyForced y) }) ∧
          t.ctr (Addr.med x.p 0x8) = s.ctr (Addr.med x.p 0x8) + BitVec.ofNat 64 pic.coded.length ∧
          t.ctr (Addr.med x.p 0x28) = s.ctr (Addr.med x.p 0x28) + (if pic.takes && x.keyForced y then 1 else 0) ∧
          (∀ a, inRngs [y.pool, x.cdRec, x.cdBits, { base := x.cdSess, len := 256 }] a = false → t.devByte a = s.devByte a) ∧
          Keeps (.tasks :: .codec :: wrote) s t))

/-- R428, R430, R524 to R527. -/
def Obligations.CollectivesExchangeReduceAndEnd : Prop :=
  (∀ (s : State) (tid : Nat) (x : TaskRec) (c : Instr), s.maps.wf = true → s.memGood →
    s.task tid = some x → s.mayRun x = true → s.hasTurn .collectives s.collWaiting x.p = true → s.CanStep x (rngBlocks x.coReads) [] →
    (c = .allReduce tid ∧ x.isKind 5 0 = true) ∨ (c = .allGather tid ∧ x.isKind 5 1 = true) ∨
      (c = .reduceScatter tid ∧ x.isKind 5 2 = true) →
    (s.coOk x = false → ∃ t, exec c s = .next t ∧ Ended x 0x10 s t ∧ Keeps [.tasks, .pages, .touch, .ctrs, .rounds] s t) ∧
    (s.coOk x = true →
      ∃ t, exec c s = .next t ∧ t.task tid = some { x with phase := .running } ∧ TasksBut tid s t ∧
        t.colls = s.colls ++ [{ tid := tid, group := x.f 0x20 2, seq := x.f 0x24 4, p := x.p, list := s.memberList x, me := s.coPlace x,
                                digest := x.coDigest, blocks := cutBlocks (s.coBytes x) }] ∧
        (∃ os, Says os s t) ∧ AgesOnly s t ∧ Keeps [.tasks, .colls, .ports, .outs, .pages, .touch, .ctrs, .rounds] s t)) ∧
  (∀ (s : State) (tid : Nat) (b : CollBlock) (x : TaskRec) (k : CollRec), s.maps.wf = true → s.task tid = some x → x.phase = .running →
    (s.colls.find? fun c => c.tid == tid) = some k → k.p < 8 → b.member < k.list.length → b.member ≠ k.me →
    ((b.digest ≠ k.digest ∨ b.list ≠ k.list) → (∀ r ∈ s.starts, r.tid ≠ tid) →
      ∃ t, exec (.collBlockReceive tid b) s = .next t ∧ Ended x 0x10 s t ∧ t.colls = s.colls.filter (fun c => c.tid != tid) ∧
        t.ctr 0x900078 = s.ctr 0x900078 + 1 ∧ CtrsBut [0x900078] s t ∧ Keeps [.tasks, .colls, .starts, .outs, .ctrs] s t) ∧
    (b.digest = k.digest → b.list = k.list → b.idx < k.blocks.length →
      ((∃ g ∈ k.got, g.member = b.member ∧ g.idx = b.idx) →
        ∃ t, exec (.collBlockReceive tid b) s = .next t ∧ t.ctr (Addr.coll k.p 0x20) = s.ctr (Addr.coll k.p 0x20) + 1 ∧
          Says [.blockAck (k.list.getD b.member 0) k.me b.idx] s t ∧ CtrsBut [Addr.coll k.p 0x20] s t ∧ Keeps [.ctrs, .outs] s t) ∧
      ((∀ g ∈ k.got, ¬(g.member = b.member ∧ g.idx = b.idx)) → b.good = false →
        ∃ t, exec (.collBlockReceive tid b) s = .next t ∧ t.ctr (Addr.ras k.p 0x20) = s.ctr (Addr.ras k.p 0x20) + 1 ∧
          (s.foulRetries ≤ (k.fouls.filter fun f => f == (b.member, b.idx)).length → Ended x 0x20 s t ∧ Says [] s t) ∧
          ((k.fouls.filter fun f => f == (b.member, b.idx)).length < s.foulRetries →
            t.tasks = s.tasks ∧ Says [.blockAgain (k.list.getD b.member 0) k.me b.idx] s t ∧
            t.colls = s.colls.map fun c => if c.tid = k.tid then { k with fouls := (b.member, b.idx) :: k.fouls } else c) ∧
          CtrsBut [Addr.ras k.p 0x20, dropped] s t ∧ Keeps [.tasks, .colls, .outs, .ctrs, .sb] s t) ∧
      (∀ k', (∀ g ∈ k.got, ¬(g.member = b.member ∧ g.idx = b.idx)) → b.good = true → k' = { k with got := k.got ++ [b] } →
        (k'.full = true → s.canWriteAll noDie (rngPages (s.coWrites x)) = true) →
        ∃ t, exec (.collBlockReceive tid b) s = .next t ∧ t.ctr (Addr.coll k.p 0x10) = s.ctr (Addr.coll k.p 0x10) + 1 ∧
          Says [.blockAck (k.list.getD b.member 0) k.me b.idx] s t ∧
          (k'.full = false → t.colls = (s.colls.map fun c => if c.tid = k.tid then k' else c) ∧ CtrsBut [Addr.coll k.p 0x10] s t ∧
            Keeps [.colls, .outs, .ctrs] s t) ∧
          (k'.full = true → k.stored = false → s.coOk x = true → k.list = s.memberList x →
            (∀ a, inRngs (s.coWrites x) a = false → t.devByte a = s.devByte a)) ∧
          (k'.full = true → k'.allAcked = true → Ended x 0 s t ∧ ∀ c ∈ t.colls, c.tid ≠ tid) ∧
          (k'.allAcked = false → t.tasks = s.tasks) ∧ Keeps (.tasks :: .colls :: .outs :: wrote) s t) ∧
      ((∀ g ∈ k.got, ¬(g.member = b.member ∧ g.idx = b.idx)) → b.good = true → CollRec.full { k with got := k.got ++ [b] } = true →
        s.canWriteAll noDie (rngPages (s.coWrites x)) = false → exec (.collBlockReceive tid b) s = .next s))) ∧
  (∀ (s : State) (tid j i : Nat) (x : TaskRec) (k k' : CollRec), s.maps.wf = true → s.task tid = some x → x.phase = .running →
    (s.colls.find? fun c => c.tid == tid) = some k → j < k.list.length → i < k.blocks.length →
    ((j, i) ∈ k.acked → exec (.collBlockAck tid j i) s = .next s) ∧
    ((j, i) ∉ k.acked → k' = { k with acked := k.acked ++ [(j, i)] } → (k.full = false ∨ k.stored = true) →
      ∃ t, exec (.collBlockAck tid j i) s = .next t ∧
        (k.full = true → k'.allAcked = true → Ended x 0 s t ∧ ∀ c ∈ t.colls, c.tid ≠ tid) ∧
        ((k.full = false ∨ k'.allAcked = false) →
          t.tasks = s.tasks ∧ t.colls = s.colls.map fun c => if c.tid = k.tid then k' else c) ∧ Keeps [.tasks, .colls] s t)) ∧
  (∀ (s : State) (tid : Nat) (x : TaskRec) (k : CollRec), s.maps.wf = true → s.task tid = some x → x.p < 8 →
    (s.colls.find? fun c => c.tid == tid) = some k → k.p < 8 →
    (∃ t, exec (.collRouteChange tid) s = .next t ∧ t.colls = s.colls ∧
      t.ctr (Addr.coll k.p 0x18) = s.ctr (Addr.coll k.p 0x18) + BitVec.ofNat 64 ((k.others.map fun j =>
        ((List.range k.blocks.length).filter fun i => !k.acked.contains (j, i)).length).foldl (· + ·) 0) ∧
      (∃ os, Says os s t) ∧ Keeps [.ports, .outs, .ctrs] s t) ∧
    (s.noRoute k = true → x.phase = .running →
      ∃ t, exec (.linkTimeout tid) s = .next t ∧ Ended x 0x30 s t ∧ t.colls = s.colls.filter (fun c => c.tid != tid) ∧
        t.ctr (Addr.ras x.p 0x40) = s.ctr (Addr.ras x.p 0x40) + 1 ∧ CtrsBut [Addr.ras x.p 0x40] s t ∧ Keeps [.tasks, .colls, .ctrs] s t) ∧
    (s.noRoute k = false → exec (.linkTimeout tid) s = .next s))

/-- R391. -/
def Obligations.CallbacksPassThroughTheirQueue : Prop :=
  ∀ (s : State) (tid : Nat) (x : TaskRec), s.maps.wf = true → s.task tid = some x → x.isKind 6 0 = true →
    (s.memGood → s.mayRun x = true → x.desc.length = 128 →
      (x.cbkOk = false → ∃ t, exec (.hostCallback tid) s = .next t ∧ Ended x 0x10 s t ∧ Keeps [.tasks] s t) ∧
      (x.cbkOk = true → s.canWriteAll noDie (rngPages x.cbkWrites) = true → (∀ b ∈ rngBlocks x.cbkReads, s.readable (b / 64) = true) →
        (∀ i j, i < 64 + 64 * pow2 (x.f 0x28 1) → j < 4 → x.f 0x20 8 + i ≠ x.f 0x50 8 + j) →
        ∃ t y, exec (.hostCallback tid) s = .next t ∧ t.task tid = some y ∧ y.phase = .running ∧
          y.mark = (if s.cbkFull x then 1 else 2) ∧ { y with phase := x.phase, mark := x.mark } = x ∧ TasksBut tid s t ∧
          t.devNat (x.f 0x50 8) 4 = 0 ∧
          (s.cbkFull x = false → t.devNat (x.f 0x20 8) 8 = (s.devNat (x.f 0x20 8) 8 + 1) % pow2 64 ∧
            t.devBytes (x.f 0x20 8 + 64 + 64 * (s.devNat (x.f 0x20 8) 8 % pow2 (x.f 0x28 1))) 64 = x.cbkRecord) ∧
          (∀ a, inRngs x.cbkWrites a = false → t.devByte a = s.devByte a) ∧
          (s.cbkFull x = true → MemBut (span (x.f 0x50 8) 4) s t) ∧
          Keeps ([.tasks, .mem, .side, .pages, .moves, .touch, .ctrs, .free]) s t)) ∧
    (s.canWriteAll noDie (rngPages x.cbkWrites) = false → x.phase = .running →
      (∀ n, exec (.callbackQueueRoom tid n) s = .next s) ∧ ∀ v, exec (.callbackDone tid v) s = .next s) ∧
    (∀ consumer, s.canWriteAll noDie (rngPages x.cbkWrites) = true → x.phase = .running → x.mark = 2 →
      ∃ t, exec (.callbackQueueRoom tid consumer) s = .next t ∧ t.devNat (x.f 0x20 8 + 8) 8 = consumer % pow2 64 ∧ t.tasks = s.tasks ∧
        MemBut (span (x.f 0x20 8 + 8) 8) s t ∧ Keeps wrote s t) ∧
    (∀ consumer, s.canWriteAll noDie (rngPages x.cbkWrites) = true → x.phase = .running → x.mark = 1 →
      (s.devNat (x.f 0x20 8) 8 + pow2 64 - consumer % pow2 64) % pow2 64 < pow2 (x.f 0x28 1) →
      ∃ t, exec (.callbackQueueRoom tid consumer) s = .next t ∧ t.task tid = some { x with mark := 2 } ∧ TasksBut tid s t ∧
        t.devNat (x.f 0x20 8) 8 = (s.devNat (x.f 0x20 8) 8 + 1) % pow2 64 ∧
        (∀ a, inRngs x.cbkWrites a = false → t.devByte a = s.devByte a) ∧
        Keeps ([.tasks, .mem, .side, .pages, .moves, .touch, .ctrs, .free]) s t) ∧
    (∀ v : W32, s.canWriteAll noDie (rngPages x.cbkWrites) = true → x.phase = .running → x.mark = 2 →
      ∃ t, exec (.callbackDone tid v) s = .next t ∧ t.devNat (x.f 0x50 8) 4 = v.toNat ∧ MemBut (span (x.f 0x50 8) 4) s t ∧
        (v = 0 → t.tasks = s.tasks) ∧ (v ≠ 0 → Ended { x with aux := v.toNat } 0 s t) ∧ Keeps (.tasks :: wrote) s t)

/-- R517 to R523. -/
def Obligations.PortsCheckAcknowledgeAndReplay : Prop :=
  ∀ (s : State) (i : Nat), s.maps.wf = true → i < 24 →
    (∀ (f : Flit) (stall : Nat), s.portState i ≠ 2 → exec (.flitReceive i f stall) s = .next s) ∧
    (∀ (f : Flit) (stall : Nat), s.portState i = 2 →
      (2 ≤ f.found ∨ (flitHasSeq f = true ∧ f.seq ≠ (s.port i).rxNext) →
        ((s.port i).awaiting = true → f.found < 2 →
          ∃ t, exec (.flitReceive i f stall) s = .next t ∧ t.ctr (Addr.port i 0x40) = s.ctr (Addr.port i 0x40) + BitVec.ofNat 64 stall ∧
            CtrsBut [Addr.port i 0x40] s t ∧ Keeps [.ctrs] s t) ∧
        ((s.port i).awaiting = false ∨ 2 ≤ f.found →
          ∃ t, exec (.flitReceive i f stall) s = .next t ∧ t.port i = { s.port i with awaiting := true } ∧
            (∀ j, j ≠ i → t.port j = s.port j) ∧ t.routes = s.routes ∧ t.ctr (Addr.port i 0x20) = s.ctr (Addr.port i 0x20) + 1 ∧
            Says [.nak i (((s.port i).rxNext + 4095) % 4096)] s t ∧ CtrsBut [Addr.port i 0x40, Addr.port i 0x20] s t ∧
            Keeps [.ports, .ctrs, .outs] s t)) ∧
      (f.found < 2 → flitHasSeq f = true → f.seq = (s.port i).rxNext → f.nak = false → (s.port i).queue = [] →
        (f.kind ≠ 1 ∧ f.kind ≠ 2) ∨ f.part ≠ s.portOwner i ∨ f.dest = s.moduleId →
        ∃ t, exec (.flitReceive i f stall) s = .next t ∧ (t.port i).rxNext = ((s.port i).rxNext + 1) % 4096 ∧ (t.port i).awaiting = false ∧
          (t.port i).unacked = (if f.ackValid then ((s.port i).acked f.ackSeq).unacked else (s.port i).unacked) ∧
          (t.port i).credits = (s.port i).credits.set f.crVc ((s.port i).credit f.crVc + f.crCount) ∧
          (∀ j, j ≠ i → t.port j = s.port j) ∧ t.routes = s.routes ∧ t.ctr (Addr.port i 0x10) = s.ctr (Addr.port i 0x10) + 1 ∧
          t.ctr (Addr.port i 0x18) = s.ctr (Addr.port i 0x18) + (if f.found = 1 then 1 else 0) ∧
          t.ctr (Addr.port i 0x48) = s.ctr (Addr.port i 0x48) +
            (if (f.kind = 1 ∨ f.kind = 2) ∧ (f.part ≠ s.portOwner i ∨ s.portRole i = 2) then 1 else 0) ∧
          Says [.credit i f.vc] s t ∧ CtrsBut ([0x10, 0x18, 0x40, 0x48].map (Addr.port i)) s t ∧ Keeps [.ports, .ctrs, .outs] s t)) ∧
    (∀ ack, s.portState i = 2 →
      (((s.port i).acked ack).unacked = [] →
        ∃ t, exec (.nakReceive i ack) s = .next t ∧ t.port i = (s.port i).acked ack ∧ (∀ j, j ≠ i → t.port j = s.port j) ∧
          t.routes = s.routes ∧ Keeps [.ports] s t) ∧
      (((s.port i).acked ack).unacked ≠ [] →
        ∃ t, exec (.nakReceive i ack) s = .next t ∧ (t.port i).unacked = ((s.port i).acked ack).unacked ∧
          (∀ j, j ≠ i → t.port j = s.port j) ∧ t.ctr (Addr.port i 0x28) = s.ctr (Addr.port i 0x28) + 1 ∧
          Says (((s.port i).acked ack).unacked.map (Out.flit i)) s t ∧
          t.portState i = (if 8 ≤ ((s.port i).acked ack).replays + 1 then 3 else 2) ∧ RegsBut [Addr.port i 0] s t ∧
          CtrsBut ([0x8, 0x28, 0x30].map (Addr.port i)) s t ∧ Keeps [.ports, .ctrs, .outs, .regs] s t)) ∧
    (s.portState i = 2 → (s.port i).unacked ≠ [] →
      ∃ t, exec (.ackTimeout i) s = .next t ∧ t.portState i = 3 ∧ t.ctr (Addr.port i 0x30) = s.ctr (Addr.port i 0x30) + 1 ∧
        RegsBut [Addr.port i 0] s t ∧ CtrsBut [Addr.port i 0x30] s t ∧ Keeps [.regs, .ctrs] s t) ∧
    (∀ partner rate, s.portState i = 1 ∨ s.portState i = 3 → 1 ≤ rate → rate ≤ 2 → ((s.port i).maxRate = 1 → rate = 1) →
      ((s.port i).expected ≠ 0xFFFF → (s.port i).expected ≠ partner % 65536 →
        ∃ t, exec (.portTrained i partner rate) s = .next t ∧ t.portState i = 5 ∧ t.portPartner i = partner % 65536 ∧
          RegsBut [Addr.port i 0] s t ∧ Keeps [.regs] s t) ∧
      ((s.port i).expected = 0xFFFF ∨ (s.port i).expected = partner % 65536 → (s.port i).queue = [] →
        ∃ t, exec (.portTrained i partner rate) s = .next t ∧ t.portState i = 2 ∧ t.portPartner i = partner % 65536 ∧
          t.rd (Addr.port i 0) 7 4 = rate ∧
          (s.portState i = 1 → (t.port i).rxNext = 0 ∧ (t.port i).txNext = 0 ∧ (t.port i).unacked = [] ∧
            (t.port i).credits = [448, 48, 8] ∧ Says [] s t) ∧
          (s.portState i = 3 → t.port i = s.port i ∧ Says ((s.port i).unacked.map (Out.flit i)) s t) ∧
          (∀ j, j ≠ i → t.port j = s.port j) ∧ RegsBut [Addr.port i 0] s t ∧ CtrsBut [Addr.port i 0x8, Addr.port i 0x28] s t ∧
          Keeps [.regs, .ports, .outs, .ctrs] s t)) ∧
    (s.portState i = 4 →
      ∃ t, exec (.portRetrainTimer i) s = .next t ∧ t.portState i = 1 ∧ RegsBut [Addr.port i 0] s t ∧ Keeps [.regs] s t) ∧
    (s.portState i = 3 →
      ∃ t, exec (.linkPortDown i) s = .next t ∧ t.portState i = 4 ∧ (t.port i).unacked = [] ∧ (t.port i).queue = [] ∧
        (∀ j, j ≠ i → t.port j = s.port j) ∧ t.ctr (Addr.port i 0x38) = s.ctr (Addr.port i 0x38) + 1 ∧
        (s.follows = true → s.upPort = i → s.gcAcquired = true → s.rd 0x900000 2 2 = 0 → t.rd 0x900000 2 2 = 1 ∧ t.rd 0x900000 1 1 = 0) ∧
        RegsBut [Addr.port i 0, 0x900000] s t ∧ CtrsBut [Addr.port i 0x38, 0x900070] s t ∧ Keeps [.regs, .ports, .ctrs] s t)

/-- R407 to R413. -/
def Obligations.PartitionCommandsFollowTheirStates : Prop :=
  (∀ (s : State) (p : Nat) (v : W32) (c : Instr) (cmd : Nat), s.maps.wf = true → p < 8 → s.reaches 0 (Addr.sch p 0) = true →
    (c, cmd) ∈ [(Instr.partSave 0 p v, 1), (.partRestore 0 p v [], 2), (.partStart 0 p v, 3), (.partReset 0 p v, 4)] →
    (fld v.toNat 3 0 ≠ cmd → exec c s = .next s) ∧
    (fld v.toNat 3 0 = cmd →
      (s.part p).isNone = true ∨ s.stopped = true ∨ (cmd = 1 ∧ s.pstate p ≠ 0) ∨ ((cmd = 2 ∨ cmd = 3) ∧ s.pstate p ≠ 2) ∨
        (cmd = 4 ∧ s.pstate p = 4) →
      ∃ t, exec c s = .next t ∧ t.rd (Addr.sch p 4) 7 4 = 5 ∧ t.pstate p = s.pstate p ∧ RegsBut [Addr.sch p 0, Addr.sch p 4] s t ∧
        CtrsBut [dropped] s t ∧ Keeps [.regs, .sb, .ctrs] s t)) ∧
  (∀ (s : State) (p : Nat) (v : W32), s.maps.wf = true → p < 8 → s.reaches 0 (Addr.sch p 0) = true → (s.part p).isSome = true →
    s.stopped = false →
    (fld v.toNat 3 0 = 3 → s.pstate p = 2 →
      ∃ t, exec (.partStart 0 p v) s = .next t ∧ t.pstate p = 0 ∧ t.rd (Addr.sch p 4) 7 4 = 0 ∧ (∀ r, r < 16 → t.enabled p r = false) ∧
        t.rings = s.rings ∧ Says ((s.fnOfPart p).toList.map fun fn => Out.msix fn 16) s t ∧
        RegsBut ([Addr.sch p 0, Addr.sch p 4] ++ (List.range 16).flatMap fun r => [Addr.ringCfg p r, Addr.ringStatus p r]) s t ∧
        Keeps [.regs, .rings, .outs] s t) ∧
    (fld v.toNat 3 0 = 2 → s.pstate p = 2 →
      ∃ t, exec (.partRestore 0 p v []) s = .next t ∧ t.pstate p = 3 ∧
        t.ctxCmds = s.ctxCmds ++ [{ p := p, addr := (s.reg (Addr.sch p 8)).toNat / 4096 * 4096, len := (s.reg (Addr.sch p 0x10)).toNat,
                                    slot := fld v.toNat 8 8, toHost := fld v.toNat 4 4 == 1 }] ∧
        t.ctxSlots = s.ctxSlots ∧ RegsBut [Addr.sch p 0, Addr.sch p 4] s t ∧ Keeps [.regs, .ctx] s t) ∧
    (fld v.toNat 3 0 = 1 → s.pstate p = 0 → (∀ r ∈ s.starts, r.p ≠ p) → (∀ c ∈ s.colls, c.p ≠ p) →
      ∃ t, exec (.partSave 0 p v) s = .next t ∧ t.pstate p = 1 ∧ t.ctxCmds.length = s.ctxCmds.length + 1 ∧ t.ctxSlots = s.ctxSlots ∧
        t.tasks.map TaskRec.tid = s.tasks.map TaskRec.tid ∧ (∀ y ∈ s.tasks, y.p ≠ p → y ∈ t.tasks) ∧
        (∀ y ∈ t.tasks, y.p = p → y.phase = .running → ∀ d ∈ s.taskDies y, (d, true) ∈ y.halts) ∧
        (∀ y ∈ s.tasks, y.p = p → ∃ z ∈ t.tasks, { z with halts := y.halts } = y) ∧ RegsBut [Addr.sch p 0, Addr.sch p 4] s t ∧
        Keeps [.regs, .ctx, .tasks] s t) ∧
    (fld v.toNat 3 0 = 4 → s.pstate p ≠ 4 →
      ∃ t, exec (.partReset 0 p v) s = .next t ∧ PartGone p s t ∧ Keeps resetGroups s t ∧
        ((∀ r, r < 16 → s.enabled p r = false) → (∀ r, (s.ring p r).kept = []) →
          ∀ g ∈ s.graphs, g.p = p → ∃ e ∈ (t.ring p g.r).kept, e.seq = g.seq ∧ e.idx = 0xFFFF ∧ e.status = 0x31))) ∧
  (∀ (s : State) (p : Nat) (c : CtxCmd), s.maps.wf = true → p < 8 → (s.ctxCmds.find? fun c => c.p == p) = some c → s.stopped = false →
    (∀ size, s.pstate p = 1 → 256 ≤ size → s.flights = [] → s.entryWait = [] → s.removal = 0 →
      (∀ y ∈ s.tasks, y.p = p → ∀ u ∈ y.units, u.phase ≠ .issued) →
      ((if c.addr = 0 then 201326592 else c.len) < size →
        ∃ t, exec (.saveDone p size) s = .next t ∧ t.pstate p = 0 ∧ t.rd (Addr.sch p 4) 7 4 = 4 ∧
          t.ctxCmds = s.ctxCmds.filter (fun x => x.p != p) ∧ t.ctxSlots = s.ctxSlots ∧
          t.tasks = s.tasks.map (fun y => if y.p = p then y.released else y) ∧
          Says ((s.fnOfPart p).toList.map fun fn => Out.msix fn 16) s t ∧ RegsBut [Addr.sch p 4, Addr.sch p 0x18] s t ∧
          Keeps [.regs, .ctx, .outs, .tasks] s t) ∧
      (size ≤ (if c.addr = 0 then 201326592 else c.len) → size < pow2 64 →
        ∃ t, exec (.saveDone p size) s = .next t ∧ t.pstate p = 2 ∧ t.rd (Addr.sch p 4) 7 4 = 0 ∧
          (t.reg (Addr.sch p 0x18)).toNat = size ∧ t.ctxCmds = s.ctxCmds.filter (fun x => x.p != p) ∧
          t.graphs = s.graphs.filter (fun g => g.p != p) ∧ t.tasks = s.tasks.filter (fun x => x.p != p) ∧
          (∀ r, r < 16 → t.enabled p r = false) ∧ (c.addr = 0 → ∃ x ∈ t.ctxSlots, x.p = p ∧ x.slot = c.slot) ∧
          (s.migs = [] → ∀ pg, rtPart (s.rt pg) ≠ p ∨ rtState (s.rt pg) = 0 → t.rt pg = s.rt pg) ∧
          Keeps [.regs, .ctx, .graphs, .tasks, .rings, .host, .outs, .moves, .pages, .side, .ctrs, .kv, .free] s t)) ∧
    (s.pstate p = 3 →
      (∀ r, s.findImage c = (none, r) → r < 16 →
        ∃ t, exec (.restoreDone p) s = .next t ∧ t.pstate p = 2 ∧ t.rd (Addr.sch p 4) 7 4 = r ∧
          t.ctxCmds = s.ctxCmds.filter (fun x => x.p != p) ∧ t.ctxSlots = s.ctxSlots ∧
          Says ((s.fnOfPart p).toList.map fun fn => Out.msix fn 16) s t ∧ RegsBut [Addr.sch p 4] s t ∧ Keeps [.regs, .ctx, .outs] s t) ∧
      (∀ img r, s.findImage c = (some img, r) → (∀ q ∈ img.rings, q.1.r < 16) →
        ∃ t, exec (.restoreDone p) s = .next t ∧ t.pstate p = 0 ∧ t.rd (Addr.sch p 4) 7 4 = 0 ∧
          t.graphs.length = s.graphs.length + img.graphs.length ∧ t.tasks.length = s.tasks.length + img.tasks.length ∧
          (∀ g ∈ s.graphs, g ∈ t.graphs) ∧ (∀ y ∈ s.tasks, y ∈ t.tasks) ∧
          (∀ g ∈ img.graphs, ∃ h ∈ t.graphs, h.p = p ∧ h.seq = g.seq ∧ h.r = g.r ∧ h.phase = g.phase) ∧
          (∀ y ∈ img.tasks, ∃ z ∈ t.tasks, z.p = p ∧ z.seq = y.seq ∧ z.idx = y.idx ∧ z.desc = y.desc ∧ z.phase = y.phase) ∧
          Says ((s.fnOfPart p).toList.map fun fn => Out.msix fn 16) s t ∧
          Keeps [.regs, .ctx, .graphs, .tasks, .rings, .outs, .books, .tables, .seeds, .reuse, .moves, .pages, .ctrs, .sb, .free] s t))) ∧
  (∀ (s : State) (p : Nat), s.maps.wf = true → p < 8 → s.pstate p = 4 → s.stopped = false →
    (∀ i, i < 512 → s.pcState i ≠ 1 ∧ s.pcState i ≠ 2) →
    ∃ t, exec (.resetDone p) s = .next t ∧ t.pstate p = 0 ∧ t.rd (Addr.sch p 4) 7 4 = 0 ∧ (∀ f ∈ t.frames, f.p ≠ p) ∧
      (∀ f ∈ s.frames, f.p ≠ p → f ∈ t.frames) ∧ Says ((s.fnOfPart p).toList.map fun fn => Out.msix fn 16) s t ∧
      RegsBut [Addr.sch p 4, 0x200018] s t ∧ Keeps [.regs, .moves, .outs, .ctrs, .sb, .parts] s t)

/-- R510, R513, R515, R547, R548, R584. NumVFs of 0 after a reset is the model's choice (log 41). -/
def Obligations.PowerAndLinkEventsResetTheModule : Prop :=
  (∀ (s : State) (n : Nat) (c : Instr) (fall : Bool),
    (c = .pwrenFall n ∧ fall = true) ∨ (c = .supplyLoss n ∧ fall = false) →
    ∃ t, exec c s = .next t ∧ t.boot = .off ∧ t.tasks = [] ∧ t.graphs = [] ∧ t.parts = [] ∧ t.rings = [] ∧ t.sessions = [] ∧
      (∀ a, t.devByte a = 0) ∧ (∀ p, t.rt p = 0) ∧ (∀ a, t.ctr a = 0) ∧ (∀ a, t.snapOf a = 0) ∧
      (∀ a, (∀ pc, a ≠ Addr.hbmPc pc 0) → t.reg a = resetOf a) ∧ t.pwren = (s.pwren && !fall) ∧
      t.supply = (s.supply && fall) ∧ t.fuses = s.fuses ∧ t.fwMarks = s.fwMarks ∧ t.formMarks = s.formMarks ∧
      t.disMap = s.disMap ∧ t.sb.count = s.sb.count ∧ t.sb.nextSeg = s.sb.nextSeg ∧ Keeps
        [.mem, .pages, .side, .regs, .ctrs, .snaps, .acct, .books, .tables, .seeds, .reuse, .rings, .graphs, .tasks, .tenants, .flights,
         .engs, .moves, .touch, .hbm, .kv, .sb, .clock, .starts, .ports, .colls, .rounds, .codec, .ctx, .life, .parts, .power, .diag] s t) ∧
  (∀ (s : State) (c : Instr) (rise : Bool), s.maps.wf = true →
    (c = .pwrenRise ∧ rise = true ∧ s.pwren = false) ∨ (c = .supplyReturn ∧ rise = false ∧ s.supply = false) →
    (s.boot ≠ .off ∨ (rise = true ∧ s.supply = false) ∨ (rise = false ∧ s.pwren = false) →
      ∃ t, exec c s = .next t ∧ t.boot = s.boot ∧ (rise = true → t.pwren = true ∧ t.supply = s.supply) ∧
        (rise = false → t.supply = true ∧ t.pwren = s.pwren) ∧ t.powerHold = s.powerHold ∧ Keeps [.power] s t) ∧
    (s.boot = .off → s.fuses.returning = false → (rise = true → s.supply = true) → (rise = false → s.pwren = true) →
      ∃ t, exec c s = .next t ∧ t.pwren = true ∧ t.supply = true ∧ t.sb.boot = s.sb.count + 1 ∧
        (s.fwChoice = none → t.boot = .recovery ∧ t.rd 0x800008 6 6 = 1 ∧ t.loading = s.loading ∧ t.fuses = s.fuses) ∧
        (∀ i, s.fwChoice = some i → i < 2 → t.boot = .firmware ∧ t.rd 0x800008 5 4 = i ∧ t.sb.count = t.sb.boot ∧
          t.sb.erasing = some s.sb.nextSeg ∧ t.fuses.formMin = s.fuses.formMin ∧ s.fuses.fwMin ≤ t.fuses.fwMin) ∧
        RegsBut [0x8, 0x800008, 0x800010, 0x800018, 0x800020, 0x800028, 0x900088] s t ∧ Keeps [.power, .life, .regs, .sb, .free] s t)) ∧
  (∀ (s : State) (c : Instr) (flr : Bool), s.maps.wf = true →
    (c = .perstNAssert ∧ flr = false) ∨ (c = .pcieLinkDown ∧ flr = false) ∨ (c = .flrPf0 ∧ flr = true) →
    (s.boot = .off ∨ s.dying = true →
      ∃ t, exec c s = .next t ∧ (flr = false → t.rd 0x8 3 0 = 0 ∧ t.rd 0x8 12 8 = 0) ∧ (flr = true → t = s) ∧ RegsBut [0x8] s t ∧
        Keeps [.regs] s t) ∧
    (s.boot = .firmware → s.dying = false → s.removal ≠ 3 →
      ∃ t, exec c s = .next t ∧ t.dying = true ∧ t.stopped = true ∧ t.sb.waiting = s.sb.waiting ++ [2] ∧
        { t.sb with waiting := s.sb.waiting } = s.sb ∧ t.boot = s.boot ∧ t.fuses = s.fuses ∧
        (flr = false → t.rd 0x8 3 0 = 0 ∧ t.rd 0x8 12 8 = 0) ∧ RegsBut [0x8] s t ∧ Keeps [.regs, .sb, .life] s t) ∧
    (s.boot ≠ .off → s.dying = false → s.boot ≠ .firmware ∨ s.removal = 3 → s.flushOwed = true ∨ s.quiescing = true →
      ∃ t, exec c s = .next t ∧ t.dying = true ∧ t.boot = s.boot ∧ t.fuses = s.fuses ∧
        (flr = false → t.rd 0x8 3 0 = 0 ∧ t.rd 0x8 12 8 = 0) ∧ RegsBut [0x8] s t ∧ Keeps [.regs, .life] s t) ∧
    (s.boot ≠ .off → s.dying = false → s.boot ≠ .firmware ∨ s.removal = 3 → s.flushOwed = false → s.quiescing = false →
      s.fuses.returning = false →
      ∃ t, exec c s = .next t ∧ t.boot ≠ .off ∧ t.tasks = [] ∧ t.graphs = [] ∧ t.parts = [] ∧ (∀ a, t.devByte a = 0) ∧
        t.ready = false ∧ t.sb.boot = s.sb.count + 1 ∧ t.disMap = s.disMap ∧ t.fuses.state = s.fuses.state ∧
        t.rd 0x8 3 0 = (if flr then s.rd 0x8 3 0 else 0) ∧ t.numVfs = 0 ∧ t.pwren = s.pwren ∧ t.supply = s.supply ∧
        Keeps [.mem, .pages, .side, .regs, .ctrs, .snaps, .acct, .books, .tables, .seeds, .reuse, .rings, .graphs, .tasks, .tenants,
          .flights, .engs, .moves, .touch, .hbm, .kv, .sb, .clock, .starts, .ports, .colls, .rounds, .codec, .ctx, .life, .parts, .power, .diag,
          .free] s t)) ∧
  (∀ (s : State) (gen width : Nat), s.maps.wf = true →
    (s.boot = .off ∨ gen < 4 ∨ 7 < gen ∨ width ∉ [4, 8, 16] → exec (.pcieLinkUp gen width) s = .next s) ∧
    (s.boot ≠ .off → 4 ≤ gen → gen ≤ 7 → width ∈ [4, 8, 16] →
      ∃ t, exec (.pcieLinkUp gen width) s = .next t ∧ t.rd 0x8 3 0 = gen ∧ t.rd 0x8 12 8 = width ∧
        t.rd 0x8 63 13 = s.rd 0x8 63 13 ∧ t.rd 0x8 7 4 = s.rd 0x8 7 4 ∧
        t.ctr 0x128 = s.ctr 0x128 + (if s.rd 0x8 3 0 = 0 then 0 else 1) ∧ RegsBut [0x8] s t ∧ CtrsBut [0x128] s t ∧
        Keeps [.regs, .ctrs] s t))

/-- R504, R505, R510, R511, R514, R516. -/
def Obligations.FunctionsAndRemoval : Prop :=
  (∀ (s : State) (n : Nat), s.maps.wf = true → 1 ≤ n → n ≤ 8 →
    (s.numVfs < n ∨ s.stopped = true ∨ s.part (n - 1) = none ∨ s.pstate (n - 1) = 4 → exec (.flrVf n) s = .next s) ∧
    (n ≤ s.numVfs → s.stopped = false → (s.part (n - 1)).isSome = true → s.pstate (n - 1) ≠ 4 →
      ∃ t, exec (.flrVf n) s = .next t ∧ PartGone (n - 1) s t ∧ Keeps resetGroups s t)) ∧
  (∀ (s : State) (n : Nat) (master : Bool), s.maps.wf = true → n ≤ 8 →
    (s.boot = .off ∨ s.stopped = true ∨ n = s.numVfs → exec (.vfConfigChange n master) s = .next s) ∧
    (s.boot ≠ .off → s.stopped = false → n ≠ s.numVfs → (∀ x ∈ s.parts, x.p < 8) → (s.parts.map PartRec.p).Nodup →
      ∃ t, exec (.vfConfigChange n master) s = .next t ∧ t.numVfs = n ∧ t.parts = s.parts ∧
        (∀ x ∈ s.parts, (s.fnOfPart x.p).isSome = true → s.fnOfPart x.p ≠ fnWith n x.p →
          t.pstate x.p = 4 ∧ (∀ r, r < 16 → t.enabled x.p r = false) ∧ (s.pstate x.p ≠ 4 → ∀ g ∈ t.graphs, g.p ≠ x.p)) ∧
        ((∀ x ∈ s.parts, (s.fnOfPart x.p).isSome = true → s.fnOfPart x.p = fnWith n x.p) →
          RegsBut ((List.range 9).map fun fn => winKey fn 0x20) s t ∧ Keeps [.parts, .regs] s t) ∧
        (∀ fn, fn ≤ 8 → t.rd (winKey fn 0x20) 39 18 = (((t.part (t.partOfFn fn)).map PartRec.spanBase).getD 0) % pow2 22))) ∧
  (∀ (s : State) (f : HostFault), s.maps.wf = true → (∀ x ∈ f.ring, x.1 < 8 ∧ x.2 < 16) → (∀ b ∈ f.blk, b < 0x10000000) →
    ∃ t, exec (.hostCompletionFault f) s = .next t ∧
      t.ctr (if f.poisoned then 0x110 else 0x118) = s.ctr (if f.poisoned then 0x110 else 0x118) + 1 ∧
      (∀ b ∈ f.blk, rtTier (s.rt (b / 64)) = 3 →
        (t.lost b = true ∨ ∃ g ∈ s.frames, g.page = b / 64 ∧ g.copy = true ∧ b ∉ g.dirty) ∧
        (rtState (s.rt (b / 64)) = 2 ∨ rtState (s.rt (b / 64)) = 3 →
          ∃ g ∈ t.sick, g.tier = 3 ∧ g.frame = rtFrame (s.rt (b / 64)) ∧ g.p = rtPart (s.rt (b / 64)))) ∧
      (∀ b, b ∉ f.blk ∨ rtTier (s.rt (b / 64)) ≠ 3 → t.side b = s.side b) ∧
      (∀ x ∈ f.ring, t.reading = s.reading.filter (fun y => !(y.1 == x.1 && y.2.1 == x.2)) ∧
        t.ctr (Addr.sch x.1 0xE0) = s.ctr (Addr.sch x.1 0xE0) + 1) ∧ (f.ring = none → t.reading = s.reading) ∧ t.rings = s.rings ∧
      Keeps [.ctrs, .side, .pages, .sb, .rings, .moves] s t) ∧
  (∀ (s : State) (c : Instr), s.maps.wf = true → c = .prepareRemove 0 ∨ c = .d3hotEntry 0 →
    s.boot = .firmware →
    (s.dying = true ∨ s.rd 0x8 19 19 = 1 → exec c s = .next s) ∧
    (s.dying = false → s.rd 0x8 19 19 = 0 → s.loading = none →
      (s.fatal = true →
        ∃ t, exec c s = .next t ∧ t.rd 0x8 19 19 = 1 ∧ t.removal = 2 ∧ t.sb.waiting = s.sb.waiting ++ [1] ∧
          RegsBut [0x8, 0x10] s t ∧ Keeps [.regs, .sb, .life] s t) ∧
      (s.fatal = false → (∃ k ∈ s.ctxCmds, s.pstate k.p = 1) →
        ∃ t, exec c s = .next t ∧ t.rd 0x8 19 19 = 1 ∧ t.removal = 1 ∧ t.sec = s.sec ∧ t.boot = s.boot ∧ t.fuses = s.fuses ∧
          RegsBut [0x8, 0x10] s t ∧ Keeps [.regs, .life] s t) ∧
      (s.fatal = false → (∀ k ∈ s.ctxCmds, s.pstate k.p ≠ 1) →
        ∃ t, exec c s = .next t ∧ t.rd 0x8 19 19 = 1 ∧ t.removal = 2 ∧ t.sb.waiting = s.sb.waiting ++ [1] ∧
          (∀ g ∈ t.graphs, ∀ x ∈ s.parts, g.p ≠ x.p) ∧ (∀ a, t.devByte a = s.devByte a) ∧ t.parts = s.parts ∧
          Keeps [.regs, .sb, .life, .graphs, .tasks, .rings, .host, .outs, .flights, .moves, .starts, .colls] s t))) ∧
  (∀ (s : State) (fn : Nat), fn ≤ 8 → fn ≠ 0 → exec (.d3hotEntry fn) s = .next s ∧ exec (.prepareRemove fn) s = .next s)

/-- R529, R530, R558 to R560, R587. -/
def Obligations.SidebandAndAttestationAnswer : Prop :=
  (∀ s : State, s.maps.wf = true →
    (s.boot = .firmware →
      (∃ t, exec .smbusFallback s = .next t ∧ t.smbus = true ∧ t.pwren = s.pwren ∧ t.supply = s.supply ∧ t.powerHold = s.powerHold ∧
        t.tripped = s.tripped ∧ Keeps [.power] s t) ∧
      (∀ n, n ≤ 34 → ∃ t, exec (.pldmGetSensor n) s = .next t ∧ Says [.mgmt [s.sensor n]] s t ∧ Keeps [.outs] s t) ∧
      (∀ w, ∃ t, exec (.pldmSetPowerCap w) s = .next t ∧ t.rd 0xA00008 26 16 = max 400 (min 1650 w) ∧
        t.rd 0xA00008 15 0 = s.rd 0xA00008 15 0 ∧ RegsBut [0xA00008] s t ∧ Keeps [.regs] s t) ∧
      (∃ t, exec .pldmGetFru s = .next t ∧ Says [.mgmt (Config.fruWords ++ [s.identWord.toNat])] s t ∧ Keeps [.outs] s t)) ∧
    (s.boot ≠ .firmware → ∀ n w, n ≤ 34 → exec .smbusFallback s = .next s ∧ exec (.pldmGetSensor n) s = .next s ∧
      exec (.pldmSetPowerCap w) s = .next s ∧ exec .pldmGetFru s = .next s)) ∧
  (∀ (s : State) (c : Instr) (a : SpdmAnswer), s.boot = .firmware →
    ((c = .spdmGetVersion ∧ a = .version 1 3) ∨ (c = .spdmGetCapabilities ∧ a = .capabilities) ∨
      (s.fuses.idKey = true ∧ ((c = .spdmNegotiateAlgorithms ∧ a = .algorithms) ∨
        (c = .spdmGetDigests ∧ a = .digests (sha48 Config.certChain)) ∨
        (∃ off len, c = .spdmGetCertificate off len ∧ a = .certificate ((Config.certChain.drop off).take len)) ∨
        (c = .spdmUnsupported ∧ a = .unsupported) ∨
        (∃ i nonce, (i = 0 ∨ 6 < i) ∧ i ≠ 0xFF ∧ c = .spdmGetMeasurements i nonce ∧ a = .unsupported)))) →
    ∃ t, exec c s = .next t ∧ Says [.spdm a] s t ∧ Keeps [.outs] s t) ∧
  (∀ (s : State) (nonce : List Byte), s.boot = .firmware → s.fuses.idKey = true →
    (∃ t sig, exec (.spdmChallenge nonce) s = .next t ∧ Says [.spdm (.challengeAuth sig)] s t ∧ Keeps [.outs, .free] s t) ∧
    (∀ i, 1 ≤ i → i ≤ 6 →
      ∃ t sig, exec (.spdmGetMeasurements i nonce) s = .next t ∧ Says [.spdm (.measurements [(i, s.measurement i)] sig)] s t ∧
        Keeps [.outs, .free] s t) ∧
    (∃ t sig, exec (.spdmGetMeasurements 0xFF nonce) s = .next t ∧
      Says [.spdm (.measurements ([1, 2, 3, 4, 5, 6].map fun i => (i, s.measurement i)) sig)] s t ∧ Keeps [.outs, .free] s t)) ∧
  (∀ s : State, s.boot ≠ .firmware → exec .spdmGetVersion s = .next s ∧ exec .spdmGetCapabilities s = .next s ∧
    exec .spdmNegotiateAlgorithms s = .next s ∧ exec .spdmUnsupported s = .next s)

/-- R537 to R566: SEC_CMD and formation loads. -/
def Obligations.SecurityCommandsAndFormationLoads : Prop :=
  (∀ (s : State) (slot op : Nat) (c : Instr), s.maps.wf = true → s.answers 0x80003C = true →
    (c, op) ∈ [(Instr.stageFw 0 [], 1), (.stageForm 0 [], 2), (.formLoad 0 slot, 3), (.lcTransition 0 [], 4), (.debugOpen 0 [], 5),
      (.debugClose 0, 6)] →
    (s.secBusy = true → ∃ t, exec c s = .next t ∧ t.ctr 0x800050 = s.ctr 0x800050 + 1 ∧ CtrsBut [0x800050] s t ∧ Keeps [.ctrs] s t) ∧
    (s.secBusy = false → s.boot = .recovery → op ≠ 1 →
      ∃ t, exec c s = .next t ∧ t.sec = some { op := op, result := 8 } ∧ t.secBusy = true ∧ t.ctr 0x800050 = s.ctr 0x800050 + 1 ∧
        t.fuses = s.fuses ∧ t.fwMarks = s.fwMarks ∧ t.formMarks = s.formMarks ∧ t.loading = s.loading ∧ RegsBut [0x80003C] s t ∧
        CtrsBut [0x800050] s t ∧ Keeps [.regs, .ctrs, .life] s t)) ∧
  (∀ (s : State) (fn slot : Nat), 1 ≤ fn → fn ≤ 8 → ∀ c ∈ [Instr.stageFw fn [], .stageForm fn [], .formLoad fn slot, .lcTransition fn [],
    .debugOpen fn [], .debugClose fn], exec c s = .next s) ∧
  (∀ s : State, s.maps.wf = true → s.answers 0x80003C = true → s.secBusy = false →
    (∀ r k, r = s.fwCheck (s.hostAt s.secAddr) (min 0x4000000 s.secLen) → k = s.fwTarget →
      ∃ t, exec (.stageFw 0 []) s = .next t ∧ t.sec = some { op := 1, result := r, slot := k } ∧ t.secBusy = true ∧
        (r ≠ 0 → t.maps.flash = s.maps.flash ∧ t.fwMarks = s.fwMarks ∧ t.ctr 0x800050 = s.ctr 0x800050 + 1) ∧
        (r = 0 → t.fwMarks = s.fwMarks.set k false ∧ t.ctr 0x800050 = s.ctr 0x800050 ∧
          (∀ i, i < fwBody (s.hostAt s.secAddr) + 5312 → Sparse.get 0 t.maps.flash (fwSlotAt k + i) = s.hostByte (s.secAddr + i))) ∧
        t.formMarks = s.formMarks ∧ t.fuses = s.fuses ∧ RegsBut [0x80003C] s t ∧ CtrsBut [0x800050] s t ∧
        Keeps [.regs, .ctrs, .life, .flash] s t) ∧
    (∀ r k, s.boot = .firmware → r = s.fmCheck5 (s.hostAt s.secAddr) (min 0x2000000 s.secLen) → k = s.formTarget →
      ∃ t, exec (.stageForm 0 []) s = .next t ∧ t.sec = some { op := 2, result := r, slot := k } ∧ t.secBusy = true ∧
        (r ≠ 0 → t.maps.flash = s.maps.flash ∧ t.formMarks = s.formMarks ∧ t.ctr 0x800050 = s.ctr 0x800050 + 1) ∧
        (r = 0 → t.formMarks = s.formMarks.set k 0 ∧ t.ctr 0x800050 = s.ctr 0x800050) ∧ t.fwMarks = s.fwMarks ∧ t.fuses = s.fuses ∧
        RegsBut [0x80003C] s t ∧ CtrsBut [0x800050] s t ∧ Keeps [.regs, .ctrs, .life, .flash] s t) ∧
    (∀ slot, s.boot = .firmware →
      (s.formLoadResult slot ≠ 0 →
        ∃ t, exec (.formLoad 0 slot) s = .next t ∧ t.sec = some { op := 3, result := s.formLoadResult slot, slot := slot } ∧
          t.secBusy = true ∧ t.loading = s.loading ∧ t.fuses = s.fuses ∧ t.ctr 0x800050 = s.ctr 0x800050 + 1 ∧ RegsBut [0x80003C] s t ∧
          CtrsBut [0x800050] s t ∧ Keeps [.regs, .ctrs, .life] s t) ∧
      (s.formLoadResult slot = 0 → s.ctxCmds ≠ [] →
        ∃ t, exec (.formLoad 0 slot) s = .next t ∧ t.loading = some slot ∧ t.secBusy = true ∧ t.fuses = s.fuses ∧
          RegsBut [0x80003C] s t ∧ Keeps [.regs, .life] s t) ∧
      (s.formLoadResult slot = 0 → s.ctxCmds = [] →
        ∃ t, exec (.formLoad 0 slot) s = .next t ∧ t.loading = some slot ∧ t.ready = false ∧ t.fuses = s.fuses ∧
          (∀ g ∈ t.graphs, ∀ x ∈ s.parts, g.p ≠ x.p) ∧ (∀ a, t.devByte a = s.devByte a) ∧ t.maps.flash = s.maps.flash)) ∧
    (∀ r new, s.boot = .firmware → r = s.signedResult 4 → new = imNat (s.hostAt s.secAddr) 0x30 4 →
      ∃ t, exec (.lcTransition 0 []) s = .next t ∧ (∃ key, t.sec = some { op := 4, result := r, slot := new, key := key }) ∧
        t.fuses = (if r = 0 ∧ lcZeroises s.fuses.state new = true then { s.fuses with returning := true } else s.fuses) ∧
        (r ≠ 0 → t.ctr 0x800050 = s.ctr 0x800050 + 1 ∧ RegsBut [0x80003C, 0x800010, 0x800018, 0x800020, 0x800028] s t ∧
          Keeps [.regs, .ctrs, .life, .free] s t)) ∧
    (∀ r, s.boot = .firmware → r = s.signedResult 5 →
      ∃ t, exec (.debugOpen 0 []) s = .next t ∧ t.sec = some { op := 5, result := r, slot := imNat (s.hostAt s.secAddr) 0x30 4,
                                                               seconds := imNat (s.hostAt s.secAddr) 0x34 4 } ∧ t.fuses = s.fuses ∧
        t.loading = s.loading ∧ RegsBut [0x80003C, 0x800010, 0x800018, 0x800020, 0x800028] s t ∧ Keeps [.regs, .ctrs, .life, .free] s t) ∧
    (s.boot = .firmware →
      ∃ t, exec (.debugClose 0) s = .next t ∧ t.reg 0x800040 = 0 ∧ t.sec = some { op := 6, result := 0 } ∧ t.fuses = s.fuses ∧
        RegsBut [0x800040, 0x80003C] s t ∧ Keeps [.regs, .life] s t)) ∧
  (∀ s : State, s.maps.wf = true →
    (s.fuses.state = 2 ∨ s.fuses.state = 3 → s.rd 0x800040 2 0 ≠ 0 →
      ∃ t, exec .debugTokenExpire s = .next t ∧ t.reg 0x800040 = 0 ∧ RegsBut [0x800040] s t ∧ Keeps [.regs] s t) ∧
    (s.rd 0x800040 2 0 = 0 → exec .debugTokenExpire s = .next s)) ∧
  (∀ (s : State) (c : SecCmd), s.maps.wf = true → s.sec = some c → c.result < 16 →
    (c.op = 3 → s.loading.isSome = true → exec .secCmdComplete s = .next s) ∧
    (c.result ≠ 0 ∨ c.op = 1 ∨ c.op = 2 ∨ c.op = 3 ∨ c.op = 6 → (c.op = 3 → s.loading = none) → 1 ≤ c.op → c.op ≤ 6 →
      ∃ t, exec .secCmdComplete s = .next t ∧ t.rd 0x80003C 15 12 = c.result ∧ t.secBusy = false ∧ t.sec = none ∧
        t.fwMarks = (if c.result = 0 ∧ c.op = 1 then s.fwMarks.set c.slot true else s.fwMarks) ∧
        t.formMarks = (if c.result = 0 ∧ c.op = 2 then s.formMarks.set c.slot 1 else s.formMarks) ∧ t.fuses = s.fuses ∧
        Says [.msix 0 16] s t ∧ RegsBut [0x80003C] s t ∧ CtrsBut [0x800050] s t ∧ Keeps [.regs, .life, .outs, .ctrs] s t) ∧
    (c.result = 0 → c.op = 5 →
      ∃ t, exec .secCmdComplete s = .next t ∧ t.rd 0x80003C 15 12 = 0 ∧ t.secBusy = false ∧ t.sec = none ∧
        t.rd 0x800040 31 0 = c.slot % pow2 32 ∧ t.ctr 0x800060 = s.ctr 0x800060 + 1 ∧ Says [.msix 0 16] s t ∧
        RegsBut [0x80003C, 0x800040] s t ∧ CtrsBut [0x800060] s t ∧ Keeps [.regs, .life, .outs, .ctrs] s t) ∧
    (c.result = 0 → c.op = 4 → s.boot = .firmware → s.dying = false → s.removal ≠ 3 →
      ∃ t, exec .secCmdComplete s = .next t ∧ t.fuses.state = c.slot ∧ t.dying = true ∧ t.sec = none ∧ Says [.msix 0 16] s t ∧
        (lcZeroises s.fuses.state c.slot = true → t.tasks = [] ∧ t.graphs = [] ∧ t.parts = [] ∧ (∀ a, t.devByte a = 0) ∧
          t.fuses.revoked = true ∧ t.formMarks = [0, 0]))) ∧
  (∀ (s : State) (kat : List (Nat × Nat)), s.maps.wf = true → (∀ x ∈ kat, x.1 < 8) →
    (s.loading = none → exec (.formationLoad kat) s = .next s) ∧
    (∀ slot b, s.loading = some slot → slot < 2 → s.boot = .firmware → s.stopped = false → s.ctxCmds = [] →
      (∀ i, i < 512 → s.pcState i ≠ 1 ∧ s.pcState i ≠ 2) → b = s.flashAt (formSlotAt slot) →
      ((2 ≤ s.failedPcs.length ∨ kat ≠ []) →
        ∃ t, exec (.formationLoad kat) s = .next t ∧ t.ready = false ∧ t.loading = none ∧ t.parts = [] ∧ t.rd 0x800008 23 20 = 9 ∧
          t.rd 0x800008 9 8 = 3 ∧ t.fuses = s.fuses ∧ t.maps.flash = s.maps.flash) ∧
      (s.failedPcs.length < 2 → kat = [] →
        (∀ x ∈ fmParts b, ∀ d ∈ x.dies, d < 8 ∧ ∃ k, k < 17 ∧ s.engineState b d k = 0) →
        ∃ t, exec (.formationLoad kat) s = .next t ∧ t.ready = true ∧ t.loading = none ∧ t.rd 0x800008 9 8 = slot ∧
          t.parts.map PartRec.p = (fmParts b).map PartRec.p ∧ t.tasks = [] ∧ t.graphs = [] ∧ (∀ a, t.devByte a = 0) ∧ (∀ pg, t.rt pg = 0) ∧
          t.formMarks = (s.formMarks.map fun m => min m 1).set slot 2 ∧ (∀ p, p < 8 → t.pstate p = 0) ∧ t.reg 0x100008 = 0 ∧
          t.tickClk = 0 ∧ s.fuses.formMin ≤ t.fuses.formMin ∧ t.maps.flash = s.maps.flash)))

/-- R568 to R576, R591, R592. -/
def Obligations.TestHoldGeneratorsAndSelfTests : Prop :=
  (∀ (s : State) (v : W32), s.maps.wf = true → s.answers 0x709100 = true → s.stopped = false →
    (bit v.toNat 0 = false → exec (.diagHold 0 v) s = .next s) ∧ (bit v.toNat 1 = false → exec (.diagRun 0 v) s = .next s) ∧
    (bit v.toNat 0 = true → s.held = false → s.holding = false → s.inUse = true →
      ∃ t, exec (.diagHold 0 v) s = .next t ∧ t.rd 0x709108 7 4 = 1 ∧ t.holding = false ∧ RegsBut [0x709100, 0x709108] s t ∧
        Keeps [.regs] s t) ∧
    (bit v.toNat 0 = true → s.held = false → s.holding = false → s.inUse = false →
      ∃ t, exec (.diagHold 0 v) s = .next t ∧ t.rd 0x709108 7 4 = 0 ∧ t.holding = true ∧ t.ready = false ∧ t.parts = [] ∧
        (∀ g ∈ t.graphs, ∀ x ∈ s.parts, g.p ≠ x.p) ∧ (∀ a, t.devByte a = s.devByte a) ∧ t.fuses = s.fuses) ∧
    (bit v.toNat 0 = true → s.held = true ∨ s.holding = true →
      ∃ t, exec (.diagHold 0 v) s = .next t ∧ RegsBut [0x709100] s t ∧ Keeps [.regs] s t) ∧
    (bit v.toNat 1 = true → s.held = true → s.testing = false →
      ∃ t, exec (.diagRun 0 v) s = .next t ∧ t.testing = true ∧ t.held = true ∧ t.rd 0x709108 7 4 = 0 ∧ t.rd 0x709108 47 16 = 0 ∧
        t.diag = some (fld v.toNat 15 8, bit v.toNat 2) ∧ t.tgSeeds = s.tgSeeds ∧ t.warm = s.warm ∧ RegsBut [0x709100, 0x709108] s t ∧
        Keeps [.regs, .diag] s t) ∧
    (bit v.toNat 1 = true → s.held = false ∨ s.testing = true →
      ∃ t, exec (.diagRun 0 v) s = .next t ∧ RegsBut [0x709100] s t ∧ Keeps [.regs] s t)) ∧
  (∀ s : State, s.maps.wf = true →
    (s.holding = true → s.stopped = false →
      ∃ t, exec .testHoldScrubDone s = .next t ∧ t.held = true ∧ t.holding = false ∧ (∀ a, t.devByte a = 0) ∧ (∀ pg, t.rt pg = 0) ∧
        t.ctxSlots = [] ∧ t.sessions = [] ∧ RegsBut [0x709108] s t ∧ CtrsBut ((List.range 8).map fun p => Addr.keep p 0x20) s t ∧
        Keeps [.mem, .side, .pages, .moves, .touch, .kv, .ctx, .codec, .diag, .regs, .ctrs] s t) ∧
    (s.holding = false → exec .testHoldScrubDone s = .next s) ∧
    (s.testing = true → s.diagStop = true →
      ∃ t, exec .diagAbort s = .next t ∧ t.testing = false ∧ t.rd 0x709108 7 4 = 2 ∧ t.diag = none ∧ t.disMap = s.disMap ∧
        RegsBut [0x709108] s t ∧ Keeps [.regs, .diag] s t) ∧
    (s.testing = false ∨ s.diagStop = false → exec .diagAbort s = .next s) ∧
    (∀ tests requal fails, s.diag = some (tests, requal) → s.stopped = false → s.tripped = false → s.diagStop = false →
      ∃ t, exec (.diagRunComplete fails) s = .next t ∧ t.testing = false ∧ t.diag = none ∧
        (fails = [] → s.rd 0x709108 31 16 = t.rd 0x709108 31 16) ∧
        (requal = false → t.disMap = s.disMap) ∧
        (requal = true → (∀ f ∈ fails, ∀ x, f.test < 8 → bit tests f.test = true → diagEntry f = some x → s.fused x.1 x.2.1 x.2.2 = false →
            ∃ e ∈ t.disMap, (e.what, e.die, e.idx) = x) ∧
          (∀ e ∈ s.disMap, s.sb.boot ≤ e.boot → e ∈ t.disMap)) ∧
        RegsBut [0x709108, 0x200018] s t ∧ CtrsBut [dropped] s t ∧ Keeps [.regs, .diag, .parts, .sb, .ctrs] s t)) ∧
  (∀ (s : State) (ch core : Nat) (v : W64), s.maps.wf = true → ch < 256 → core < 8 → s.answers (Addr.tg ch 0) = true → s.stopped = false →
    (getBits v 0 0 = 1 → s.held = true → s.rd (Addr.tg ch 0x18) 0 0 = 0 → s.rd (Addr.tg ch 8) 22 0 ≤ s.rd (Addr.tg ch 8) 54 32 →
      ∃ t, exec (.hbmTgStart 0 ch v core) s = .next t ∧ t.reg (Addr.tg ch 0x18) = 1 ∧ t.reg (Addr.tg ch 0x20) = 0 ∧
        (∃ seed, (ch, seed) ∈ t.tgSeeds ∧ (s.reg (Addr.tg ch 0x10) ≠ 0 ∨ getBits v 10 8 ≠ 3 → seed = s.reg (Addr.tg ch 0x10))) ∧
        (∀ x ∈ s.tgSeeds, x.1 ≠ ch → x ∈ t.tgSeeds) ∧ t.diag = s.diag ∧
        RegsBut [Addr.tg ch 0, Addr.tg ch 0x18, Addr.tg ch 0x20, 0x600808] s t ∧ Keeps [.regs, .diag] s t) ∧
    (getBits v 0 0 = 1 → s.held = false ∨ s.rd (Addr.tg ch 0x18) 0 0 = 1 ∨ s.rd (Addr.tg ch 8) 54 32 < s.rd (Addr.tg ch 8) 22 0 →
      ∃ t, exec (.hbmTgStart 0 ch v core) s = .next t ∧ RegsBut [Addr.tg ch 0] s t ∧ Keeps [.regs] s t) ∧
    (getBits v 1 1 = 1 → s.rd (Addr.tg ch 0x18) 0 0 = 1 →
      ∃ t, exec (.hbmTgStop 0 ch v) s = .next t ∧ ch ∈ t.tgStops ∧ (∀ k ∈ s.tgStops, k ∈ t.tgStops) ∧ t.tgSeeds = s.tgSeeds ∧
        RegsBut [Addr.tg ch 0] s t ∧ Keeps [.regs, .diag] s t)) ∧
  (∀ (s : State) (ch : Nat) (r : TgResult), s.maps.wf = true → ch < 256 → s.stopped = false →
    (s.rd (Addr.tg ch 0x18) 0 0 = 0 ∨ s.tripped = true ∨ (s.rd (Addr.tg ch 0) 31 24 = 0 ∧ ch ∉ s.tgStops) → exec (.hbmTgRunDone ch r) s = .next s) ∧
    (s.rd (Addr.tg ch 0x18) 0 0 = 1 → s.tripped = false → s.rd (Addr.tg ch 0) 31 24 ≠ 0 ∨ ch ∈ s.tgStops →
      ∃ t, exec (.hbmTgRunDone ch r) s = .next t ∧ t.rd (Addr.tg ch 0x18) 0 0 = 0 ∧ t.rd (Addr.tg ch 0x18) 1 1 = 1 ∧
        t.rd (Addr.tg ch 0x18) 2 2 = (if r.mismatch = 0 then 0 else 1) ∧ ch ∉ t.tgStops ∧
        t.ctr (Addr.tg ch 0x28) = s.ctr (Addr.tg ch 0x28) + BitVec.ofNat 64 r.sectors ∧
        t.ctr (Addr.tg ch 0x30) = s.ctr (Addr.tg ch 0x30) + BitVec.ofNat 64 r.mismatch ∧
        t.ctr (Addr.tg ch 0x38) = s.ctr (Addr.tg ch 0x38) + BitVec.ofNat 64 r.corr ∧ RegsBut [Addr.tg ch 0x18, Addr.tg ch 0x20] s t ∧
        CtrsBut [Addr.tg ch 0x28, Addr.tg ch 0x30, Addr.tg ch 0x38] s t ∧ Keeps [.regs, .ctrs, .diag] s t))

/-- R579 to R581. The count of a flush and its record are written after its COUNT (R580). -/
def Obligations.ScorebookMirrorsAndFlushes : Prop :=
  ∀ s : State, s.maps.wf = true →
    (s.boot = .firmware → s.sb.mirrored < s.sb.head →
      ∃ t, exec .scorebookMirrorCopy s = .next t ∧ t.sb = { s.sb with mirrored := s.sb.mirrored + 1 } ∧ Keeps [.sb] s t) ∧
    (s.boot ≠ .firmware ∨ s.sb.head ≤ s.sb.mirrored → exec .scorebookMirrorCopy s = .next s) ∧
    (∀ reason rest unreadable, s.sb.waiting = reason :: rest →
      (s.boot = .firmware → s.sb.flushing = none → s.sb.segs.getD s.sb.nextSeg none = none → s.sb.erasing ≠ some s.sb.nextSeg →
        ∃ t, exec (.scorebookFlush unreadable) s = .next t ∧ t.sb.waiting = rest ∧
          t.sb.flushing = some (s.sb.nextSeg, reason, s.sb.frozen unreadable) ∧ t.sb.nextSeg = (s.sb.nextSeg + 1) % 8 ∧
          t.sb.held = unreadable ∧ t.sb.recs = s.sb.recs ∧ t.sb.head = s.sb.head ∧
          (∀ j, j ≠ s.sb.nextSeg → t.sb.segs[j]? = s.sb.segs[j]?) ∧ Keeps [.sb] s t) ∧
      (s.boot ≠ .firmware ∨ s.sb.flushing.isSome = true ∨ (s.sb.segs.getD s.sb.nextSeg none).isSome = true ∨
          s.sb.erasing = some s.sb.nextSeg → exec (.scorebookFlush unreadable) s = .next s)) ∧
    (∀ unreadable, s.sb.waiting = [] → exec (.scorebookFlush unreadable) s = .next s) ∧
    (s.sb.flushing = none → exec .flushComplete s = .next s) ∧
    (∀ seg reason recs, s.sb.flushing = some (seg, reason, recs) →
      ((s.dying = false ∨ reason ≠ 2) → (s.removal ≠ 2 ∨ reason ≠ 1) →
        ∃ t, exec .flushComplete s = .next t ∧ t.sb.flushing = none ∧ t.sb.held = false ∧ t.sb.head = s.sb.head + 1 ∧
          (t.sb.recs.map SbRec.code).head? = some 0x70 ∧ t.ctr 0x709040 = s.ctr 0x709040 + 1 ∧ t.sb.erasing = some s.sb.nextSeg ∧
          (∀ j, j ≠ seg → t.sb.segs[j]? = s.sb.segs[j]?) ∧
          (∀ g, s.sb.segs[seg]? = some (some g) → t.sb.segs[seg]? = some (some { g with recs := recs, count := some recs.length })) ∧
          CtrsBut [0x709040] s t ∧ Keeps [.sb, .ctrs] s t) ∧
      (s.removal = 2 → reason = 1 → s.dying = false →
        ∃ t, exec .flushComplete s = .next t ∧ t.removal = 3 ∧ t.rd 0x8 20 20 = 1 ∧ t.sb.flushing = none ∧
          Says [.pin "ALERT_N" false, .pin "ALERT_N" true, .msix 0 17] s t ∧ RegsBut [0x8] s t ∧
          Keeps [.sb, .ctrs, .regs, .life, .outs] s t) ∧
      (s.dying = true → reason = 2 → s.quiescing = true ∨ 2 ∈ s.sb.waiting →
        ∃ t, exec .flushComplete s = .next t ∧ t.dying = true ∧ t.sb.flushing = none ∧ Keeps [.sb, .ctrs] s t) ∧
      (s.dying = true → reason = 2 → s.quiescing = false → 2 ∉ s.sb.waiting → s.fuses.returning = false →
        ∃ t, exec .flushComplete s = .next t ∧ t.dying = false ∧ t.boot ≠ .off ∧ t.tasks = [] ∧ t.parts = [] ∧ (∀ a, t.devByte a = 0) ∧
          t.sb.boot = s.sb.count + 1 ∧ t.rd 0x8 3 0 = s.rd 0x8 3 0 ∧
          (∀ g, s.sb.segs[seg]? = some (some g) → t.sb.segs[seg]? = some (some { g with recs := recs, count := some recs.length })))) ∧
    (∀ i, s.sb.erasing = some i →
      ∃ t, exec .segmentEraseDone s = .next t ∧ t.sb = { s.sb with segs := s.sb.segs.set i none, erasing := none } ∧ Keeps [.sb] s t) ∧
    (s.sb.erasing = none → exec .segmentEraseDone s = .next s)

/-- R586 to R588. -/
def Obligations.LimitsOfHeatAndPower : Prop :=
  ∀ s : State, s.maps.wf = true →
    (∀ n temp, n < 28 →
      (s.boot ≠ .firmware ∨ temp < s.critOf n → exec (.thermalCritical n temp) s = .next s) ∧
      (s.boot = .firmware → s.critOf n ≤ temp →
        ∃ t, exec (.thermalCritical n temp) s = .next t ∧ t.rd 0xA00000 2 2 = 1 ∧ t.rd 0xA0000C 26 16 = 400 ∧
          Says [.pin "THERM_N" false] s t ∧
          (s.sb.held = false → (t.sb.recs.head?.map fun r => (r.code, r.unitId, r.arg0, r.arg1)) = some (0x51, thermUnit n, n, temp % pow2 32)) ∧
          RegsBut [0xA00000, 0xA0000C, if n < 20 then 0xA00100 + 8 * n else 0x300100 + 8 * (n - 20)] s t ∧ CtrsBut [dropped] s t ∧
          Keeps [.regs, .sb, .ctrs, .outs] s t)) ∧
    (∀ dies hbms : List Nat, dies.length = 20 → hbms.length = 8 →
      (s.rd 0xA00000 2 2 = 0 ∨ (∃ n, n < 28 ∧ s.critOf n < (dies ++ hbms).getD n 0 + 10) →
        exec (.thermNDeassert dies hbms) s = .next s) ∧
      (s.rd 0xA00000 2 2 = 1 → (∀ n, n < 28 → (dies ++ hbms).getD n 0 + 10 ≤ s.critOf n) →
        ∃ t, exec (.thermNDeassert dies hbms) s = .next t ∧ t.rd 0xA00000 2 2 = 0 ∧ Says [.pin "THERM_N" true] s t ∧
          t.rd 0xA00000 1 0 = s.rd 0xA00000 1 0 ∧ t.rd 0xA00000 63 3 = s.rd 0xA00000 63 3 ∧
          RegsBut (0xA00000 :: run64 0xA00100 20 ++ run64 0x300100 8) s t ∧ Keeps [.regs, .outs] s t)) ∧
    (s.boot = .firmware → s.rd 0xA00000 15 8 ≠ 64 →
      ∃ t, exec .grantExhausted s = .next t ∧ t.powerHold = true ∧ t.tripped = s.tripped ∧ t.pwren = s.pwren ∧ t.supply = s.supply ∧
        Keeps [.power] s t) ∧
    (s.boot ≠ .firmware ∨ s.rd 0xA00000 15 8 = 64 → exec .grantExhausted s = .next s) ∧
    (∀ w, (s.boot ≠ .firmware ∨ 10 * w ≤ 11 * s.rd 0xA0000C 10 0 → exec (.powerTrip w) s = .next s) ∧
      (s.boot = .firmware → 11 * s.rd 0xA0000C 10 0 < 10 * w →
        ∃ t, exec (.powerTrip w) s = .next t ∧ t.rd 0xA00000 3 3 = 1 ∧ t.tripped = true ∧ t.powerHold = s.powerHold ∧
          t.ctr 0xA00030 = s.ctr 0xA00030 + (if s.tripped then 0 else 1) ∧
          (s.sb.held = false → t.sb.head = s.sb.head + 1 ∧ (t.sb.recs.map SbRec.code).head? = some 0x52) ∧
          RegsBut [0xA00000] s t ∧ CtrsBut [0xA00030, dropped] s t ∧ Keeps [.regs, .sb, .ctrs, .power] s t))
end

