-- ==== Sys2Proof/Laws/Sparse.lean ====
section
/-! SUPPORT. The laws of sparse tables: a read after a write, and every operation keeps the canonical form. -/
namespace Sys2Proof

variable {w : Nat} {d : BitVec w}

theorem Sparse.wfFrom_mono {m : Sparse w} {lo hi : Nat} (h : lo ≤ hi) (hw : Sparse.wfFrom d hi m = true) :
    Sparse.wfFrom d lo m = true := by
  cases m with
  | nil => rfl
  | cons e m =>
    simp only [Sparse.wfFrom, Bool.and_eq_true, decide_eq_true_eq] at hw ⊢
    exact ⟨⟨by omega, hw.1.2⟩, hw.2⟩

theorem Sparse.get_below {m : Sparse w} {lo a : Nat} (h : a < lo) (hw : Sparse.wfFrom d lo m = true) :
    Sparse.get d m a = d := by
  cases m with
  | nil => rfl
  | cons e m =>
    simp only [Sparse.wfFrom, Bool.and_eq_true, decide_eq_true_eq] at hw
    have h1 : e.1 ≠ a := by omega
    have h2 : a < e.1 := by omega
    simp [Sparse.get, h1, h2]

/-- A key reads what was written to it. -/
theorem Sparse.get_set_same {m : Sparse w} {lo : Nat} (hw : Sparse.wfFrom d lo m = true) (a : Nat) (v : BitVec w) :
    Sparse.get d (Sparse.set d m a v) a = v := by
  induction m generalizing lo with
  | nil => by_cases hv : v = d <;> simp [Sparse.set, Sparse.get, hv]
  | cons e m ih =>
    obtain ⟨k, u⟩ := e
    simp only [Sparse.wfFrom, Bool.and_eq_true, decide_eq_true_eq] at hw
    by_cases hk : k = a
    · subst hk
      by_cases hv : v = d
      · simpa [Sparse.set, hv] using Sparse.get_below (Nat.lt_succ_self k) hw.2
      · simp [Sparse.set, hv, Sparse.get]
    · by_cases hl : a < k
      · by_cases hv : v = d <;> simp [Sparse.set, hk, hl, hv, Sparse.get]
      · simpa [Sparse.set, hk, hl, Sparse.get] using ih hw.2

/-- Every other key reads as before. -/
theorem Sparse.get_set_other {m : Sparse w} {lo : Nat} (hw : Sparse.wfFrom d lo m = true) {a b : Nat} (v : BitVec w) (h : b ≠ a) :
    Sparse.get d (Sparse.set d m a v) b = Sparse.get d m b := by
  induction m generalizing lo with
  | nil =>
    by_cases hv : v = d
    · simp [Sparse.set, hv]
    · have : a ≠ b := fun e => h e.symm
      simp [Sparse.set, hv, Sparse.get, this]
  | cons e m ih =>
    obtain ⟨k, u⟩ := e
    simp only [Sparse.wfFrom, Bool.and_eq_true, decide_eq_true_eq] at hw
    have hab : a ≠ b := fun e => h e.symm
    by_cases hk : k = a
    · subst hk
      by_cases hv : v = d
      · by_cases hb : b < k
        · simp [Sparse.set, hv, Sparse.get, hab, hb, Sparse.get_below (Nat.lt_succ_of_lt hb) hw.2]
        · simp [Sparse.set, hv, Sparse.get, hab, hb]
      · by_cases hb : b < k <;> simp [Sparse.set, hv, Sparse.get, hab, hb]
    · by_cases hl : a < k
      · by_cases hv : v = d
        · simp [Sparse.set, hk, hl, hv]
        · by_cases hb : b < a
          · have h1 : k ≠ b := by omega
            have h2 : b < k := by omega
            simp [Sparse.set, hk, hl, hv, Sparse.get, hab, hb, h1, h2]
          · simp [Sparse.set, hk, hl, hv, Sparse.get, hab, hb]
      · have := ih hw.2
        by_cases hkb : k = b
        · subst hkb
          simp [Sparse.set, h, hl, Sparse.get]
        · by_cases hb : b < k <;> simp [Sparse.set, hk, hl, Sparse.get, hkb, hb, this]

theorem Sparse.wfFrom_set {m : Sparse w} {lo a : Nat} {v : BitVec w} (ha : lo ≤ a) (hw : Sparse.wfFrom d lo m = true) :
    Sparse.wfFrom d lo (Sparse.set d m a v) = true := by
  induction m generalizing lo with
  | nil => by_cases hv : v = d <;> simp [Sparse.set, Sparse.wfFrom, hv, ha]
  | cons e m ih =>
    obtain ⟨k, u⟩ := e
    simp only [Sparse.wfFrom, Bool.and_eq_true, decide_eq_true_eq] at hw
    by_cases hk : k = a
    · subst hk
      by_cases hv : v = d
      · simpa [Sparse.set, hv] using Sparse.wfFrom_mono (Nat.le_succ_of_le hw.1.1) hw.2
      · simp [Sparse.set, hv, Sparse.wfFrom, hw.1.1, hw.2]
    · by_cases hl : a < k
      · have hw' : Sparse.wfFrom d (a + 1) ((k, u) :: m) = true := by
          simp only [Sparse.wfFrom, Bool.and_eq_true, decide_eq_true_eq]
          exact ⟨⟨hl, hw.1.2⟩, hw.2⟩
        by_cases hv : v = d
        · simp [Sparse.set, hk, hl, hv, Sparse.wfFrom, hw.1.1, hw.1.2, hw.2]
        · rw [Sparse.set, if_neg hk, if_pos hl, if_neg hv, Sparse.wfFrom, hw']
          simp [ha, hv]
      · have := ih (lo := k + 1) (by omega) hw.2
        simp [Sparse.set, hk, hl, Sparse.wfFrom, hw.1.1, hw.1.2, this]

/-- A write keeps the canonical form. -/
theorem Sparse.wf_set {m : Sparse w} (hw : Sparse.wf d m = true) (a : Nat) (v : BitVec w) :
    Sparse.wf d (Sparse.set d m a v) = true := Sparse.wfFrom_set (Nat.zero_le a) hw

/-- A write splits a table at its key. -/
theorem Sparse.set_split (m : Sparse w) (a : Nat) (v : BitVec w) :
    Sparse.set d m a v = m.takeWhile (fun e => decide (e.1 < a)) ++ Sparse.put d a v (Sparse.skip a (m.dropWhile fun e => decide (e.1 < a))) := by
  induction m with
  | nil => simp [Sparse.set, Sparse.skip, Sparse.put]
  | cons e m ih =>
    obtain ⟨k, u⟩ := e
    by_cases hk : k = a
    · subst hk
      simp [Sparse.set, Sparse.skip, Sparse.put]
    · by_cases hl : a < k
      · have : ¬k < a := by omega
        simp [Sparse.set, hk, hl, this, Sparse.skip, Sparse.put]
      · have : k < a := by omega
        simp [Sparse.set, hk, hl, this, ih]

/-- Writes above every key of the front of a table change only what follows it. -/
theorem Sparse.setEach_append (l m : Sparse w) (vs : List (Nat × BitVec w)) (h : ∀ e ∈ l, ∀ x ∈ vs, e.1 < x.1) :
    Sparse.setEach d (l ++ m) vs = l ++ Sparse.setEach d m vs := by
  induction vs generalizing m with
  | nil => rfl
  | cons x vs ih =>
    obtain ⟨a, v⟩ := x
    have hs : Sparse.set d (l ++ m) a v = l ++ Sparse.set d m a v := by
      have hl : ∀ e ∈ l, e.1 < a := fun e he => h e he (a, v) (List.mem_cons_self ..)
      clear h ih
      induction l with
      | nil => rfl
      | cons e l ih =>
        have h1 := hl e (List.mem_cons_self ..)
        have h2 : e.1 ≠ a := by omega
        have h3 : ¬a < e.1 := by omega
        rw [List.cons_append, Sparse.set, if_neg h2, if_neg h3, ih fun x hx => hl x (List.mem_cons_of_mem _ hx), List.cons_append]
    rw [Sparse.setEach, hs, ih _ fun e he x hx => h e he x (List.mem_cons_of_mem _ hx), Sparse.setEach]

theorem Sparse.rising_head {x : Nat × BitVec w} {vs : List (Nat × BitVec w)} (h : Sparse.rising (x :: vs) = true) :
    ∀ y ∈ vs, x.1 < y.1 := by
  induction vs generalizing x with
  | nil => simp
  | cons y vs ih =>
    simp only [Sparse.rising, Bool.and_eq_true, decide_eq_true_eq] at h
    intro z hz
    rcases List.mem_cons.mp hz with rfl | hz
    · exact h.1
    · exact Nat.lt_trans h.1 (ih h.2 z hz)

theorem Sparse.rising_tail {x : Nat × BitVec w} {vs : List (Nat × BitVec w)} (h : Sparse.rising (x :: vs) = true) :
    Sparse.rising vs = true := by
  cases vs with
  | nil => rfl
  | cons y vs =>
    simp only [Sparse.rising, Bool.and_eq_true] at h
    exact h.2

theorem Sparse.setRising_eq (m : Sparse w) (vs : List (Nat × BitVec w)) (h : Sparse.rising vs = true) :
    Sparse.setRising d m vs = Sparse.setEach d m vs := by
  induction vs generalizing m with
  | nil => rfl
  | cons x vs ih =>
    obtain ⟨a, v⟩ := x
    have ha := Sparse.rising_head h
    rw [Sparse.setEach, Sparse.set_split, Sparse.setRising, ih _ (Sparse.rising_tail h), Sparse.setEach_append]
    · congr 1
      by_cases hv : v = d
      · simp [Sparse.put, hv]
      · simp only [Sparse.put, if_neg hv]
        refine (Sparse.setEach_append [(a, v)] _ vs ?_).symm
        intro e he x hx
        rw [List.mem_singleton.mp he]
        exact ha x hx
    · intro e he x hx
      have h1 : e.1 < a := of_decide_eq_true (List.all_eq_true.mp List.all_takeWhile e he)
      exact Nat.lt_trans h1 (ha x hx)

/-- Writing a list is writing its words one by one. -/
theorem Sparse.setAll_eq (m : Sparse w) (vs : List (Nat × BitVec w)) : Sparse.setAll d m vs = Sparse.setEach d m vs := by
  unfold Sparse.setAll
  split
  · exact Sparse.setRising_eq m vs ‹_›
  · rfl

/-- Writing a run is writing its words one by one. -/
theorem Sparse.setList_cons (m : Sparse w) (a : Nat) (v : BitVec w) (vs : List (BitVec w)) :
    Sparse.setList d m a (v :: vs) = Sparse.setList d (Sparse.set d m a v) (a + 1) vs := by
  simp only [Sparse.setList, Sparse.setAll_eq, Sparse.numbered, Sparse.setEach]

@[simp] theorem Sparse.setList_nil (m : Sparse w) (a : Nat) : Sparse.setList d m a [] = m := rfl

theorem Sparse.wf_setAll {m : Sparse w} (hw : Sparse.wf d m = true) (vs : List (Nat × BitVec w)) :
    Sparse.wf d (Sparse.setAll d m vs) = true := by
  rw [Sparse.setAll_eq]
  induction vs generalizing m with
  | nil => exact hw
  | cons v vs ih => exact ih (Sparse.wf_set hw v.1 v.2)

theorem Sparse.wf_setList {m : Sparse w} (hw : Sparse.wf d m = true) (a : Nat) (vs : List (BitVec w)) :
    Sparse.wf d (Sparse.setList d m a vs) = true := Sparse.wf_setAll hw _

theorem Sparse.wfFrom_erase {m : Sparse w} {lo : Nat} (p : Nat → Bool) (hw : Sparse.wfFrom d lo m = true) :
    Sparse.wfFrom d lo (Sparse.erase p m) = true := by
  induction m generalizing lo with
  | nil => rfl
  | cons e m ih =>
    obtain ⟨k, u⟩ := e
    simp only [Sparse.wfFrom, Bool.and_eq_true, decide_eq_true_eq] at hw
    have := ih hw.2
    cases hp : p k
    · simp only [Sparse.erase] at this
      simp [Sparse.erase, hp, Sparse.wfFrom, hw.1.1, hw.1.2, this]
    · simpa [Sparse.erase, hp] using Sparse.wfFrom_mono (Nat.le_succ_of_le hw.1.1) this

/-- Erasing keeps the canonical form. -/
theorem Sparse.wf_erase {m : Sparse w} (p : Nat → Bool) (hw : Sparse.wf d m = true) : Sparse.wf d (Sparse.erase p m) = true :=
  Sparse.wfFrom_erase p hw

/-- An erased key reads as an unlisted one. -/
theorem Sparse.get_erase_of {m : Sparse w} (p : Nat → Bool) {a : Nat} (h : p a = true) : Sparse.get d (Sparse.erase p m) a = d := by
  induction m with
  | nil => rfl
  | cons e m ih =>
    obtain ⟨k, u⟩ := e
    simp only [Sparse.erase] at ih
    cases hp : p k
    · have hk : k ≠ a := fun e => by simp [e, h] at hp
      by_cases hl : a < k <;> simp [Sparse.erase, hp, Sparse.get, hk, hl, ih]
    · simp [Sparse.erase, hp, ih]

/-- A run that is written leaves every key outside it alone. -/
theorem Sparse.get_setList_other {m : Sparse w} (hw : Sparse.wf d m = true) {a b : Nat} (vs : List (BitVec w))
    (h : b < a ∨ a + vs.length ≤ b) : Sparse.get d (Sparse.setList d m a vs) b = Sparse.get d m b := by
  induction vs generalizing m a with
  | nil => rfl
  | cons v vs ih =>
    simp only [List.length_cons] at h
    rw [Sparse.setList_cons, ih (Sparse.wf_set hw a v) (by omega), Sparse.get_set_other hw v (by omega)]

/-- A run that is written reads back, word by word. -/
theorem Sparse.get_setList {m : Sparse w} (hw : Sparse.wf d m = true) (a : Nat) (vs : List (BitVec w)) (i : Nat)
    (h : i < vs.length) : Sparse.get d (Sparse.setList d m a vs) (a + i) = vs.getD i d := by
  induction vs generalizing m a i with
  | nil => simp at h
  | cons v vs ih =>
    rw [Sparse.setList_cons]
    cases i with
    | zero =>
      rw [Sparse.get_setList_other (Sparse.wf_set hw a v) vs (by omega), Nat.add_zero, Sparse.get_set_same hw]
      rfl
    | succ i =>
      have := ih (Sparse.wf_set hw a v) (a + 1) i (by simpa using h)
      rw [show a + (i + 1) = a + 1 + i by omega, this]
      rfl

/-- Writes to other keys leave a key alone. -/
theorem Sparse.get_setAll_other {m : Sparse w} (hw : Sparse.wf d m = true) {b : Nat} (vs : List (Nat × BitVec w))
    (h : ∀ x ∈ vs, x.1 ≠ b) : Sparse.get d (Sparse.setAll d m vs) b = Sparse.get d m b := by
  rw [Sparse.setAll_eq]
  induction vs generalizing m with
  | nil => rfl
  | cons v vs ih =>
    rw [Sparse.setEach, ih (Sparse.wf_set hw v.1 v.2) fun x hx => h x (List.mem_cons_of_mem _ hx),
      Sparse.get_set_other hw v.2 (h v (List.mem_cons_self ..)).symm]

/-- The keys of a numbered run. -/
theorem Sparse.mem_numbered {a : Nat} {vs : List (BitVec w)} {x : Nat × BitVec w} (h : x ∈ Sparse.numbered a vs) :
    a ≤ x.1 ∧ x.1 < a + vs.length := by
  induction vs generalizing a with
  | nil => simp [Sparse.numbered] at h
  | cons v vs ih =>
    rcases List.mem_cons.mp h with rfl | h
    · simp
    · have := ih h
      simp only [List.length_cons]
      omega

end Sys2Proof
end

