-- ==== Sys2Proof/Laws/State.lean ====
section
/-! SUPPORT. What each named update of the state leaves unchanged, field by field. -/
namespace Sys2Proof.Machine
open Sys2Proof

/-! `setReg`. -/
@[simp] theorem State.setReg_pending (s : State) (a : Nat) (v : W64) : (s.setReg a v).pending = s.pending := rfl
@[simp] theorem State.setReg_free (s : State) (a : Nat) (v : W64) : (s.setReg a v).free = s.free := rfl
@[simp] theorem State.setReg_boot (s : State) (a : Nat) (v : W64) : (s.setReg a v).boot = s.boot := rfl
@[simp] theorem State.setReg_grade (s : State) (a : Nat) (v : W64) : (s.setReg a v).grade = s.grade := rfl
@[simp] theorem State.setReg_numVfs (s : State) (a : Nat) (v : W64) : (s.setReg a v).numVfs = s.numVfs := rfl
@[simp] theorem State.setReg_tickClk (s : State) (a : Nat) (v : W64) : (s.setReg a v).tickClk = s.tickClk := rfl
@[simp] theorem State.setReg_reading (s : State) (a : Nat) (v : W64) : (s.setReg a v).reading = s.reading := rfl
@[simp] theorem State.setReg_readNo (s : State) (a : Nat) (v : W64) : (s.setReg a v).readNo = s.readNo := rfl
@[simp] theorem State.setReg_readClk (s : State) (a : Nat) (v : W64) : (s.setReg a v).readClk = s.readClk := rfl
@[simp] theorem State.setReg_nextGid (s : State) (a : Nat) (v : W64) : (s.setReg a v).nextGid = s.nextGid := rfl
@[simp] theorem State.setReg_nextTid (s : State) (a : Nat) (v : W64) : (s.setReg a v).nextTid = s.nextTid := rfl
@[simp] theorem State.setReg_parts (s : State) (a : Nat) (v : W64) : (s.setReg a v).parts = s.parts := rfl
@[simp] theorem State.setReg_rings (s : State) (a : Nat) (v : W64) : (s.setReg a v).rings = s.rings := rfl
@[simp] theorem State.setReg_graphs (s : State) (a : Nat) (v : W64) : (s.setReg a v).graphs = s.graphs := rfl
@[simp] theorem State.setReg_tasks (s : State) (a : Nat) (v : W64) : (s.setReg a v).tasks = s.tasks := rfl
@[simp] theorem State.setReg_tenants (s : State) (a : Nat) (v : W64) : (s.setReg a v).tenants = s.tenants := rfl
@[simp] theorem State.setReg_flights (s : State) (a : Nat) (v : W64) : (s.setReg a v).flights = s.flights := rfl
@[simp] theorem State.setReg_engs (s : State) (a : Nat) (v : W64) : (s.setReg a v).engs = s.engs := rfl
@[simp] theorem State.setReg_migs (s : State) (a : Nat) (v : W64) : (s.setReg a v).migs = s.migs := rfl
@[simp] theorem State.setReg_frames (s : State) (a : Nat) (v : W64) : (s.setReg a v).frames = s.frames := rfl
@[simp] theorem State.setReg_badFrames (s : State) (a : Nat) (v : W64) : (s.setReg a v).badFrames = s.badFrames := rfl
@[simp] theorem State.setReg_sick (s : State) (a : Nat) (v : W64) : (s.setReg a v).sick = s.sick := rfl
@[simp] theorem State.setReg_hbmRows (s : State) (a : Nat) (v : W64) : (s.setReg a v).hbmRows = s.hbmRows := rfl
@[simp] theorem State.setReg_hbmPcs (s : State) (a : Nat) (v : W64) : (s.setReg a v).hbmPcs = s.hbmPcs := rfl
@[simp] theorem State.setReg_hbmDue (s : State) (a : Nat) (v : W64) : (s.setReg a v).hbmDue = s.hbmDue := rfl
@[simp] theorem State.setReg_hbmHold (s : State) (a : Nat) (v : W64) : (s.setReg a v).hbmHold = s.hbmHold := rfl
@[simp] theorem State.setReg_hbmWait (s : State) (a : Nat) (v : W64) : (s.setReg a v).hbmWait = s.hbmWait := rfl
@[simp] theorem State.setReg_entryWait (s : State) (a : Nat) (v : W64) : (s.setReg a v).entryWait = s.entryWait := rfl
@[simp] theorem State.setReg_hostSkips (s : State) (a : Nat) (v : W64) : (s.setReg a v).hostSkips = s.hostSkips := rfl
@[simp] theorem State.setReg_hbmSpare (s : State) (a : Nat) (v : W64) : (s.setReg a v).hbmSpare = s.hbmSpare := rfl
@[simp] theorem State.setReg_narrowDue (s : State) (a : Nat) (v : W64) : (s.setReg a v).narrowDue = s.narrowDue := rfl
@[simp] theorem State.setReg_shared (s : State) (a : Nat) (v : W64) : (s.setReg a v).shared = s.shared := rfl
@[simp] theorem State.setReg_touched (s : State) (a : Nat) (v : W64) : (s.setReg a v).touched = s.touched := rfl
@[simp] theorem State.setReg_touchedPrev (s : State) (a : Nat) (v : W64) : (s.setReg a v).touchedPrev = s.touchedPrev := rfl
@[simp] theorem State.setReg_lastDies (s : State) (a : Nat) (v : W64) : (s.setReg a v).lastDies = s.lastDies := rfl
@[simp] theorem State.setReg_moves (s : State) (a : Nat) (v : W64) : (s.setReg a v).moves = s.moves := rfl
@[simp] theorem State.setReg_kvRecs (s : State) (a : Nat) (v : W64) : (s.setReg a v).kvRecs = s.kvRecs := rfl
@[simp] theorem State.setReg_kvStuck (s : State) (a : Nat) (v : W64) : (s.setReg a v).kvStuck = s.kvStuck := rfl
@[simp] theorem State.setReg_kvFreed (s : State) (a : Nat) (v : W64) : (s.setReg a v).kvFreed = s.kvFreed := rfl
@[simp] theorem State.setReg_kvWait (s : State) (a : Nat) (v : W64) : (s.setReg a v).kvWait = s.kvWait := rfl
@[simp] theorem State.setReg_evicting (s : State) (a : Nat) (v : W64) : (s.setReg a v).evicting = s.evicting := rfl
@[simp] theorem State.setReg_reuseSlots (s : State) (a : Nat) (v : W64) : (s.setReg a v).reuseSlots = s.reuseSlots := rfl
@[simp] theorem State.setReg_slotsOn (s : State) (a : Nat) (v : W64) : (s.setReg a v).slotsOn = s.slotsOn := rfl
@[simp] theorem State.setReg_sb (s : State) (a : Nat) (v : W64) : (s.setReg a v).sb = s.sb := rfl
@[simp] theorem State.setReg_starts (s : State) (a : Nat) (v : W64) : (s.setReg a v).starts = s.starts := rfl
@[simp] theorem State.setReg_startMsgs (s : State) (a : Nat) (v : W64) : (s.setReg a v).startMsgs = s.startMsgs := rfl
@[simp] theorem State.setReg_gcAcquired (s : State) (a : Nat) (v : W64) : (s.setReg a v).gcAcquired = s.gcAcquired := rfl
@[simp] theorem State.setReg_gcOffset (s : State) (a : Nat) (v : W64) : (s.setReg a v).gcOffset = s.gcOffset := rfl
@[simp] theorem State.setReg_gcAhead (s : State) (a : Nat) (v : W64) : (s.setReg a v).gcAhead = s.gcAhead := rfl
@[simp] theorem State.setReg_fsync (s : State) (a : Nat) (v : W64) : (s.setReg a v).fsync = s.fsync := rfl
@[simp] theorem State.setReg_ports (s : State) (a : Nat) (v : W64) : (s.setReg a v).ports = s.ports := rfl
@[simp] theorem State.setReg_routes (s : State) (a : Nat) (v : W64) : (s.setReg a v).routes = s.routes := rfl
@[simp] theorem State.setReg_colls (s : State) (a : Nat) (v : W64) : (s.setReg a v).colls = s.colls := rfl
@[simp] theorem State.setReg_rounds (s : State) (a : Nat) (v : W64) : (s.setReg a v).rounds = s.rounds := rfl
@[simp] theorem State.setReg_sessions (s : State) (a : Nat) (v : W64) : (s.setReg a v).sessions = s.sessions := rfl
@[simp] theorem State.setReg_coreErrs (s : State) (a : Nat) (v : W64) : (s.setReg a v).coreErrs = s.coreErrs := rfl
@[simp] theorem State.setReg_ctxCmds (s : State) (a : Nat) (v : W64) : (s.setReg a v).ctxCmds = s.ctxCmds := rfl
@[simp] theorem State.setReg_ctxSlots (s : State) (a : Nat) (v : W64) : (s.setReg a v).ctxSlots = s.ctxSlots := rfl
@[simp] theorem State.setReg_hostImages (s : State) (a : Nat) (v : W64) : (s.setReg a v).hostImages = s.hostImages := rfl
@[simp] theorem State.setReg_fuses (s : State) (a : Nat) (v : W64) : (s.setReg a v).fuses = s.fuses := rfl
@[simp] theorem State.setReg_fusedOff (s : State) (a : Nat) (v : W64) : (s.setReg a v).fusedOff = s.fusedOff := rfl
@[simp] theorem State.setReg_disMap (s : State) (a : Nat) (v : W64) : (s.setReg a v).disMap = s.disMap := rfl
@[simp] theorem State.setReg_fwMarks (s : State) (a : Nat) (v : W64) : (s.setReg a v).fwMarks = s.fwMarks := rfl
@[simp] theorem State.setReg_formMarks (s : State) (a : Nat) (v : W64) : (s.setReg a v).formMarks = s.formMarks := rfl
@[simp] theorem State.setReg_sec (s : State) (a : Nat) (v : W64) : (s.setReg a v).sec = s.sec := rfl
@[simp] theorem State.setReg_loading (s : State) (a : Nat) (v : W64) : (s.setReg a v).loading = s.loading := rfl
@[simp] theorem State.setReg_dying (s : State) (a : Nat) (v : W64) : (s.setReg a v).dying = s.dying := rfl
@[simp] theorem State.setReg_removal (s : State) (a : Nat) (v : W64) : (s.setReg a v).removal = s.removal := rfl
@[simp] theorem State.setReg_mapMeas (s : State) (a : Nat) (v : W64) : (s.setReg a v).mapMeas = s.mapMeas := rfl
@[simp] theorem State.setReg_debugClk (s : State) (a : Nat) (v : W64) : (s.setReg a v).debugClk = s.debugClk := rfl
@[simp] theorem State.setReg_pwren (s : State) (a : Nat) (v : W64) : (s.setReg a v).pwren = s.pwren := rfl
@[simp] theorem State.setReg_supply (s : State) (a : Nat) (v : W64) : (s.setReg a v).supply = s.supply := rfl
@[simp] theorem State.setReg_smbus (s : State) (a : Nat) (v : W64) : (s.setReg a v).smbus = s.smbus := rfl
@[simp] theorem State.setReg_powerHold (s : State) (a : Nat) (v : W64) : (s.setReg a v).powerHold = s.powerHold := rfl
@[simp] theorem State.setReg_tripped (s : State) (a : Nat) (v : W64) : (s.setReg a v).tripped = s.tripped := rfl
@[simp] theorem State.setReg_tgSeeds (s : State) (a : Nat) (v : W64) : (s.setReg a v).tgSeeds = s.tgSeeds := rfl
@[simp] theorem State.setReg_warm (s : State) (a : Nat) (v : W64) : (s.setReg a v).warm = s.warm := rfl
@[simp] theorem State.setReg_tgStops (s : State) (a : Nat) (v : W64) : (s.setReg a v).tgStops = s.tgStops := rfl
@[simp] theorem State.setReg_holding (s : State) (a : Nat) (v : W64) : (s.setReg a v).holding = s.holding := rfl
@[simp] theorem State.setReg_diag (s : State) (a : Nat) (v : W64) : (s.setReg a v).diag = s.diag := rfl
@[simp] theorem State.setReg_outs (s : State) (a : Nat) (v : W64) : (s.setReg a v).outs = s.outs := rfl
@[simp] theorem State.setReg_maps_dev (s : State) (a : Nat) (v : W64) : (s.setReg a v).maps.dev = s.maps.dev := rfl
@[simp] theorem State.setReg_maps_host (s : State) (a : Nat) (v : W64) : (s.setReg a v).maps.host = s.maps.host := rfl
@[simp] theorem State.setReg_maps_flash (s : State) (a : Nat) (v : W64) : (s.setReg a v).maps.flash = s.maps.flash := rfl
@[simp] theorem State.setReg_maps_rt (s : State) (a : Nat) (v : W64) : (s.setReg a v).maps.rt = s.maps.rt := rfl
@[simp] theorem State.setReg_maps_side (s : State) (a : Nat) (v : W64) : (s.setReg a v).maps.side = s.maps.side := rfl
@[simp] theorem State.setReg_maps_ctr (s : State) (a : Nat) (v : W64) : (s.setReg a v).maps.ctr = s.maps.ctr := rfl
@[simp] theorem State.setReg_maps_snap (s : State) (a : Nat) (v : W64) : (s.setReg a v).maps.snap = s.maps.snap := rfl
@[simp] theorem State.setReg_maps_acct (s : State) (a : Nat) (v : W64) : (s.setReg a v).maps.acct = s.maps.acct := rfl
@[simp] theorem State.setReg_maps_cbk (s : State) (a : Nat) (v : W64) : (s.setReg a v).maps.cbk = s.maps.cbk := rfl
@[simp] theorem State.setReg_maps_ft (s : State) (a : Nat) (v : W64) : (s.setReg a v).maps.ft = s.maps.ft := rfl
@[simp] theorem State.setReg_maps_seeds (s : State) (a : Nat) (v : W64) : (s.setReg a v).maps.seeds = s.maps.seeds := rfl
@[simp] theorem State.setReg_maps_reuse (s : State) (a : Nat) (v : W64) : (s.setReg a v).maps.reuse = s.maps.reuse := rfl

/-! `setFld`. -/
@[simp] theorem State.setFld_pending (s : State) (a hi lo v : Nat) : (s.setFld a hi lo v).pending = s.pending := rfl
@[simp] theorem State.setFld_free (s : State) (a hi lo v : Nat) : (s.setFld a hi lo v).free = s.free := rfl
@[simp] theorem State.setFld_boot (s : State) (a hi lo v : Nat) : (s.setFld a hi lo v).boot = s.boot := rfl
@[simp] theorem State.setFld_grade (s : State) (a hi lo v : Nat) : (s.setFld a hi lo v).grade = s.grade := rfl
@[simp] theorem State.setFld_numVfs (s : State) (a hi lo v : Nat) : (s.setFld a hi lo v).numVfs = s.numVfs := rfl
@[simp] theorem State.setFld_tickClk (s : State) (a hi lo v : Nat) : (s.setFld a hi lo v).tickClk = s.tickClk := rfl
@[simp] theorem State.setFld_reading (s : State) (a hi lo v : Nat) : (s.setFld a hi lo v).reading = s.reading := rfl
@[simp] theorem State.setFld_readNo (s : State) (a hi lo v : Nat) : (s.setFld a hi lo v).readNo = s.readNo := rfl
@[simp] theorem State.setFld_readClk (s : State) (a hi lo v : Nat) : (s.setFld a hi lo v).readClk = s.readClk := rfl
@[simp] theorem State.setFld_nextGid (s : State) (a hi lo v : Nat) : (s.setFld a hi lo v).nextGid = s.nextGid := rfl
@[simp] theorem State.setFld_nextTid (s : State) (a hi lo v : Nat) : (s.setFld a hi lo v).nextTid = s.nextTid := rfl
@[simp] theorem State.setFld_parts (s : State) (a hi lo v : Nat) : (s.setFld a hi lo v).parts = s.parts := rfl
@[simp] theorem State.setFld_rings (s : State) (a hi lo v : Nat) : (s.setFld a hi lo v).rings = s.rings := rfl
@[simp] theorem State.setFld_graphs (s : State) (a hi lo v : Nat) : (s.setFld a hi lo v).graphs = s.graphs := rfl
@[simp] theorem State.setFld_tasks (s : State) (a hi lo v : Nat) : (s.setFld a hi lo v).tasks = s.tasks := rfl
@[simp] theorem State.setFld_tenants (s : State) (a hi lo v : Nat) : (s.setFld a hi lo v).tenants = s.tenants := rfl
@[simp] theorem State.setFld_flights (s : State) (a hi lo v : Nat) : (s.setFld a hi lo v).flights = s.flights := rfl
@[simp] theorem State.setFld_engs (s : State) (a hi lo v : Nat) : (s.setFld a hi lo v).engs = s.engs := rfl
@[simp] theorem State.setFld_migs (s : State) (a hi lo v : Nat) : (s.setFld a hi lo v).migs = s.migs := rfl
@[simp] theorem State.setFld_frames (s : State) (a hi lo v : Nat) : (s.setFld a hi lo v).frames = s.frames := rfl
@[simp] theorem State.setFld_badFrames (s : State) (a hi lo v : Nat) : (s.setFld a hi lo v).badFrames = s.badFrames := rfl
@[simp] theorem State.setFld_sick (s : State) (a hi lo v : Nat) : (s.setFld a hi lo v).sick = s.sick := rfl
@[simp] theorem State.setFld_hbmRows (s : State) (a hi lo v : Nat) : (s.setFld a hi lo v).hbmRows = s.hbmRows := rfl
@[simp] theorem State.setFld_hbmPcs (s : State) (a hi lo v : Nat) : (s.setFld a hi lo v).hbmPcs = s.hbmPcs := rfl
@[simp] theorem State.setFld_hbmDue (s : State) (a hi lo v : Nat) : (s.setFld a hi lo v).hbmDue = s.hbmDue := rfl
@[simp] theorem State.setFld_hbmHold (s : State) (a hi lo v : Nat) : (s.setFld a hi lo v).hbmHold = s.hbmHold := rfl
@[simp] theorem State.setFld_hbmWait (s : State) (a hi lo v : Nat) : (s.setFld a hi lo v).hbmWait = s.hbmWait := rfl
@[simp] theorem State.setFld_entryWait (s : State) (a hi lo v : Nat) : (s.setFld a hi lo v).entryWait = s.entryWait := rfl
@[simp] theorem State.setFld_hostSkips (s : State) (a hi lo v : Nat) : (s.setFld a hi lo v).hostSkips = s.hostSkips := rfl
@[simp] theorem State.setFld_hbmSpare (s : State) (a hi lo v : Nat) : (s.setFld a hi lo v).hbmSpare = s.hbmSpare := rfl
@[simp] theorem State.setFld_narrowDue (s : State) (a hi lo v : Nat) : (s.setFld a hi lo v).narrowDue = s.narrowDue := rfl
@[simp] theorem State.setFld_shared (s : State) (a hi lo v : Nat) : (s.setFld a hi lo v).shared = s.shared := rfl
@[simp] theorem State.setFld_touched (s : State) (a hi lo v : Nat) : (s.setFld a hi lo v).touched = s.touched := rfl
@[simp] theorem State.setFld_touchedPrev (s : State) (a hi lo v : Nat) : (s.setFld a hi lo v).touchedPrev = s.touchedPrev := rfl
@[simp] theorem State.setFld_lastDies (s : State) (a hi lo v : Nat) : (s.setFld a hi lo v).lastDies = s.lastDies := rfl
@[simp] theorem State.setFld_moves (s : State) (a hi lo v : Nat) : (s.setFld a hi lo v).moves = s.moves := rfl
@[simp] theorem State.setFld_kvRecs (s : State) (a hi lo v : Nat) : (s.setFld a hi lo v).kvRecs = s.kvRecs := rfl
@[simp] theorem State.setFld_kvStuck (s : State) (a hi lo v : Nat) : (s.setFld a hi lo v).kvStuck = s.kvStuck := rfl
@[simp] theorem State.setFld_kvFreed (s : State) (a hi lo v : Nat) : (s.setFld a hi lo v).kvFreed = s.kvFreed := rfl
@[simp] theorem State.setFld_kvWait (s : State) (a hi lo v : Nat) : (s.setFld a hi lo v).kvWait = s.kvWait := rfl
@[simp] theorem State.setFld_evicting (s : State) (a hi lo v : Nat) : (s.setFld a hi lo v).evicting = s.evicting := rfl
@[simp] theorem State.setFld_reuseSlots (s : State) (a hi lo v : Nat) : (s.setFld a hi lo v).reuseSlots = s.reuseSlots := rfl
@[simp] theorem State.setFld_slotsOn (s : State) (a hi lo v : Nat) : (s.setFld a hi lo v).slotsOn = s.slotsOn := rfl
@[simp] theorem State.setFld_sb (s : State) (a hi lo v : Nat) : (s.setFld a hi lo v).sb = s.sb := rfl
@[simp] theorem State.setFld_starts (s : State) (a hi lo v : Nat) : (s.setFld a hi lo v).starts = s.starts := rfl
@[simp] theorem State.setFld_startMsgs (s : State) (a hi lo v : Nat) : (s.setFld a hi lo v).startMsgs = s.startMsgs := rfl
@[simp] theorem State.setFld_gcAcquired (s : State) (a hi lo v : Nat) : (s.setFld a hi lo v).gcAcquired = s.gcAcquired := rfl
@[simp] theorem State.setFld_gcOffset (s : State) (a hi lo v : Nat) : (s.setFld a hi lo v).gcOffset = s.gcOffset := rfl
@[simp] theorem State.setFld_gcAhead (s : State) (a hi lo v : Nat) : (s.setFld a hi lo v).gcAhead = s.gcAhead := rfl
@[simp] theorem State.setFld_fsync (s : State) (a hi lo v : Nat) : (s.setFld a hi lo v).fsync = s.fsync := rfl
@[simp] theorem State.setFld_ports (s : State) (a hi lo v : Nat) : (s.setFld a hi lo v).ports = s.ports := rfl
@[simp] theorem State.setFld_routes (s : State) (a hi lo v : Nat) : (s.setFld a hi lo v).routes = s.routes := rfl
@[simp] theorem State.setFld_colls (s : State) (a hi lo v : Nat) : (s.setFld a hi lo v).colls = s.colls := rfl
@[simp] theorem State.setFld_rounds (s : State) (a hi lo v : Nat) : (s.setFld a hi lo v).rounds = s.rounds := rfl
@[simp] theorem State.setFld_sessions (s : State) (a hi lo v : Nat) : (s.setFld a hi lo v).sessions = s.sessions := rfl
@[simp] theorem State.setFld_coreErrs (s : State) (a hi lo v : Nat) : (s.setFld a hi lo v).coreErrs = s.coreErrs := rfl
@[simp] theorem State.setFld_ctxCmds (s : State) (a hi lo v : Nat) : (s.setFld a hi lo v).ctxCmds = s.ctxCmds := rfl
@[simp] theorem State.setFld_ctxSlots (s : State) (a hi lo v : Nat) : (s.setFld a hi lo v).ctxSlots = s.ctxSlots := rfl
@[simp] theorem State.setFld_hostImages (s : State) (a hi lo v : Nat) : (s.setFld a hi lo v).hostImages = s.hostImages := rfl
@[simp] theorem State.setFld_fuses (s : State) (a hi lo v : Nat) : (s.setFld a hi lo v).fuses = s.fuses := rfl
@[simp] theorem State.setFld_fusedOff (s : State) (a hi lo v : Nat) : (s.setFld a hi lo v).fusedOff = s.fusedOff := rfl
@[simp] theorem State.setFld_disMap (s : State) (a hi lo v : Nat) : (s.setFld a hi lo v).disMap = s.disMap := rfl
@[simp] theorem State.setFld_fwMarks (s : State) (a hi lo v : Nat) : (s.setFld a hi lo v).fwMarks = s.fwMarks := rfl
@[simp] theorem State.setFld_formMarks (s : State) (a hi lo v : Nat) : (s.setFld a hi lo v).formMarks = s.formMarks := rfl
@[simp] theorem State.setFld_sec (s : State) (a hi lo v : Nat) : (s.setFld a hi lo v).sec = s.sec := rfl
@[simp] theorem State.setFld_loading (s : State) (a hi lo v : Nat) : (s.setFld a hi lo v).loading = s.loading := rfl
@[simp] theorem State.setFld_dying (s : State) (a hi lo v : Nat) : (s.setFld a hi lo v).dying = s.dying := rfl
@[simp] theorem State.setFld_removal (s : State) (a hi lo v : Nat) : (s.setFld a hi lo v).removal = s.removal := rfl
@[simp] theorem State.setFld_mapMeas (s : State) (a hi lo v : Nat) : (s.setFld a hi lo v).mapMeas = s.mapMeas := rfl
@[simp] theorem State.setFld_debugClk (s : State) (a hi lo v : Nat) : (s.setFld a hi lo v).debugClk = s.debugClk := rfl
@[simp] theorem State.setFld_pwren (s : State) (a hi lo v : Nat) : (s.setFld a hi lo v).pwren = s.pwren := rfl
@[simp] theorem State.setFld_supply (s : State) (a hi lo v : Nat) : (s.setFld a hi lo v).supply = s.supply := rfl
@[simp] theorem State.setFld_smbus (s : State) (a hi lo v : Nat) : (s.setFld a hi lo v).smbus = s.smbus := rfl
@[simp] theorem State.setFld_powerHold (s : State) (a hi lo v : Nat) : (s.setFld a hi lo v).powerHold = s.powerHold := rfl
@[simp] theorem State.setFld_tripped (s : State) (a hi lo v : Nat) : (s.setFld a hi lo v).tripped = s.tripped := rfl
@[simp] theorem State.setFld_tgSeeds (s : State) (a hi lo v : Nat) : (s.setFld a hi lo v).tgSeeds = s.tgSeeds := rfl
@[simp] theorem State.setFld_warm (s : State) (a hi lo v : Nat) : (s.setFld a hi lo v).warm = s.warm := rfl
@[simp] theorem State.setFld_tgStops (s : State) (a hi lo v : Nat) : (s.setFld a hi lo v).tgStops = s.tgStops := rfl
@[simp] theorem State.setFld_holding (s : State) (a hi lo v : Nat) : (s.setFld a hi lo v).holding = s.holding := rfl
@[simp] theorem State.setFld_diag (s : State) (a hi lo v : Nat) : (s.setFld a hi lo v).diag = s.diag := rfl
@[simp] theorem State.setFld_outs (s : State) (a hi lo v : Nat) : (s.setFld a hi lo v).outs = s.outs := rfl
@[simp] theorem State.setFld_maps_dev (s : State) (a hi lo v : Nat) : (s.setFld a hi lo v).maps.dev = s.maps.dev := rfl
@[simp] theorem State.setFld_maps_host (s : State) (a hi lo v : Nat) : (s.setFld a hi lo v).maps.host = s.maps.host := rfl
@[simp] theorem State.setFld_maps_flash (s : State) (a hi lo v : Nat) : (s.setFld a hi lo v).maps.flash = s.maps.flash := rfl
@[simp] theorem State.setFld_maps_rt (s : State) (a hi lo v : Nat) : (s.setFld a hi lo v).maps.rt = s.maps.rt := rfl
@[simp] theorem State.setFld_maps_side (s : State) (a hi lo v : Nat) : (s.setFld a hi lo v).maps.side = s.maps.side := rfl
@[simp] theorem State.setFld_maps_ctr (s : State) (a hi lo v : Nat) : (s.setFld a hi lo v).maps.ctr = s.maps.ctr := rfl
@[simp] theorem State.setFld_maps_snap (s : State) (a hi lo v : Nat) : (s.setFld a hi lo v).maps.snap = s.maps.snap := rfl
@[simp] theorem State.setFld_maps_acct (s : State) (a hi lo v : Nat) : (s.setFld a hi lo v).maps.acct = s.maps.acct := rfl
@[simp] theorem State.setFld_maps_cbk (s : State) (a hi lo v : Nat) : (s.setFld a hi lo v).maps.cbk = s.maps.cbk := rfl
@[simp] theorem State.setFld_maps_ft (s : State) (a hi lo v : Nat) : (s.setFld a hi lo v).maps.ft = s.maps.ft := rfl
@[simp] theorem State.setFld_maps_seeds (s : State) (a hi lo v : Nat) : (s.setFld a hi lo v).maps.seeds = s.maps.seeds := rfl
@[simp] theorem State.setFld_maps_reuse (s : State) (a hi lo v : Nat) : (s.setFld a hi lo v).maps.reuse = s.maps.reuse := rfl

/-! `setCtr`. -/
@[simp] theorem State.setCtr_pending (s : State) (a : Nat) (v : W64) : (s.setCtr a v).pending = s.pending := rfl
@[simp] theorem State.setCtr_free (s : State) (a : Nat) (v : W64) : (s.setCtr a v).free = s.free := rfl
@[simp] theorem State.setCtr_boot (s : State) (a : Nat) (v : W64) : (s.setCtr a v).boot = s.boot := rfl
@[simp] theorem State.setCtr_grade (s : State) (a : Nat) (v : W64) : (s.setCtr a v).grade = s.grade := rfl
@[simp] theorem State.setCtr_numVfs (s : State) (a : Nat) (v : W64) : (s.setCtr a v).numVfs = s.numVfs := rfl
@[simp] theorem State.setCtr_tickClk (s : State) (a : Nat) (v : W64) : (s.setCtr a v).tickClk = s.tickClk := rfl
@[simp] theorem State.setCtr_reading (s : State) (a : Nat) (v : W64) : (s.setCtr a v).reading = s.reading := rfl
@[simp] theorem State.setCtr_readNo (s : State) (a : Nat) (v : W64) : (s.setCtr a v).readNo = s.readNo := rfl
@[simp] theorem State.setCtr_readClk (s : State) (a : Nat) (v : W64) : (s.setCtr a v).readClk = s.readClk := rfl
@[simp] theorem State.setCtr_nextGid (s : State) (a : Nat) (v : W64) : (s.setCtr a v).nextGid = s.nextGid := rfl
@[simp] theorem State.setCtr_nextTid (s : State) (a : Nat) (v : W64) : (s.setCtr a v).nextTid = s.nextTid := rfl
@[simp] theorem State.setCtr_parts (s : State) (a : Nat) (v : W64) : (s.setCtr a v).parts = s.parts := rfl
@[simp] theorem State.setCtr_rings (s : State) (a : Nat) (v : W64) : (s.setCtr a v).rings = s.rings := rfl
@[simp] theorem State.setCtr_graphs (s : State) (a : Nat) (v : W64) : (s.setCtr a v).graphs = s.graphs := rfl
@[simp] theorem State.setCtr_tasks (s : State) (a : Nat) (v : W64) : (s.setCtr a v).tasks = s.tasks := rfl
@[simp] theorem State.setCtr_tenants (s : State) (a : Nat) (v : W64) : (s.setCtr a v).tenants = s.tenants := rfl
@[simp] theorem State.setCtr_flights (s : State) (a : Nat) (v : W64) : (s.setCtr a v).flights = s.flights := rfl
@[simp] theorem State.setCtr_engs (s : State) (a : Nat) (v : W64) : (s.setCtr a v).engs = s.engs := rfl
@[simp] theorem State.setCtr_migs (s : State) (a : Nat) (v : W64) : (s.setCtr a v).migs = s.migs := rfl
@[simp] theorem State.setCtr_frames (s : State) (a : Nat) (v : W64) : (s.setCtr a v).frames = s.frames := rfl
@[simp] theorem State.setCtr_badFrames (s : State) (a : Nat) (v : W64) : (s.setCtr a v).badFrames = s.badFrames := rfl
@[simp] theorem State.setCtr_sick (s : State) (a : Nat) (v : W64) : (s.setCtr a v).sick = s.sick := rfl
@[simp] theorem State.setCtr_hbmRows (s : State) (a : Nat) (v : W64) : (s.setCtr a v).hbmRows = s.hbmRows := rfl
@[simp] theorem State.setCtr_hbmPcs (s : State) (a : Nat) (v : W64) : (s.setCtr a v).hbmPcs = s.hbmPcs := rfl
@[simp] theorem State.setCtr_hbmDue (s : State) (a : Nat) (v : W64) : (s.setCtr a v).hbmDue = s.hbmDue := rfl
@[simp] theorem State.setCtr_hbmHold (s : State) (a : Nat) (v : W64) : (s.setCtr a v).hbmHold = s.hbmHold := rfl
@[simp] theorem State.setCtr_hbmWait (s : State) (a : Nat) (v : W64) : (s.setCtr a v).hbmWait = s.hbmWait := rfl
@[simp] theorem State.setCtr_entryWait (s : State) (a : Nat) (v : W64) : (s.setCtr a v).entryWait = s.entryWait := rfl
@[simp] theorem State.setCtr_hostSkips (s : State) (a : Nat) (v : W64) : (s.setCtr a v).hostSkips = s.hostSkips := rfl
@[simp] theorem State.setCtr_hbmSpare (s : State) (a : Nat) (v : W64) : (s.setCtr a v).hbmSpare = s.hbmSpare := rfl
@[simp] theorem State.setCtr_narrowDue (s : State) (a : Nat) (v : W64) : (s.setCtr a v).narrowDue = s.narrowDue := rfl
@[simp] theorem State.setCtr_shared (s : State) (a : Nat) (v : W64) : (s.setCtr a v).shared = s.shared := rfl
@[simp] theorem State.setCtr_touched (s : State) (a : Nat) (v : W64) : (s.setCtr a v).touched = s.touched := rfl
@[simp] theorem State.setCtr_touchedPrev (s : State) (a : Nat) (v : W64) : (s.setCtr a v).touchedPrev = s.touchedPrev := rfl
@[simp] theorem State.setCtr_lastDies (s : State) (a : Nat) (v : W64) : (s.setCtr a v).lastDies = s.lastDies := rfl
@[simp] theorem State.setCtr_moves (s : State) (a : Nat) (v : W64) : (s.setCtr a v).moves = s.moves := rfl
@[simp] theorem State.setCtr_kvRecs (s : State) (a : Nat) (v : W64) : (s.setCtr a v).kvRecs = s.kvRecs := rfl
@[simp] theorem State.setCtr_kvStuck (s : State) (a : Nat) (v : W64) : (s.setCtr a v).kvStuck = s.kvStuck := rfl
@[simp] theorem State.setCtr_kvFreed (s : State) (a : Nat) (v : W64) : (s.setCtr a v).kvFreed = s.kvFreed := rfl
@[simp] theorem State.setCtr_kvWait (s : State) (a : Nat) (v : W64) : (s.setCtr a v).kvWait = s.kvWait := rfl
@[simp] theorem State.setCtr_evicting (s : State) (a : Nat) (v : W64) : (s.setCtr a v).evicting = s.evicting := rfl
@[simp] theorem State.setCtr_reuseSlots (s : State) (a : Nat) (v : W64) : (s.setCtr a v).reuseSlots = s.reuseSlots := rfl
@[simp] theorem State.setCtr_slotsOn (s : State) (a : Nat) (v : W64) : (s.setCtr a v).slotsOn = s.slotsOn := rfl
@[simp] theorem State.setCtr_sb (s : State) (a : Nat) (v : W64) : (s.setCtr a v).sb = s.sb := rfl
@[simp] theorem State.setCtr_starts (s : State) (a : Nat) (v : W64) : (s.setCtr a v).starts = s.starts := rfl
@[simp] theorem State.setCtr_startMsgs (s : State) (a : Nat) (v : W64) : (s.setCtr a v).startMsgs = s.startMsgs := rfl
@[simp] theorem State.setCtr_gcAcquired (s : State) (a : Nat) (v : W64) : (s.setCtr a v).gcAcquired = s.gcAcquired := rfl
@[simp] theorem State.setCtr_gcOffset (s : State) (a : Nat) (v : W64) : (s.setCtr a v).gcOffset = s.gcOffset := rfl
@[simp] theorem State.setCtr_gcAhead (s : State) (a : Nat) (v : W64) : (s.setCtr a v).gcAhead = s.gcAhead := rfl
@[simp] theorem State.setCtr_fsync (s : State) (a : Nat) (v : W64) : (s.setCtr a v).fsync = s.fsync := rfl
@[simp] theorem State.setCtr_ports (s : State) (a : Nat) (v : W64) : (s.setCtr a v).ports = s.ports := rfl
@[simp] theorem State.setCtr_routes (s : State) (a : Nat) (v : W64) : (s.setCtr a v).routes = s.routes := rfl
@[simp] theorem State.setCtr_colls (s : State) (a : Nat) (v : W64) : (s.setCtr a v).colls = s.colls := rfl
@[simp] theorem State.setCtr_rounds (s : State) (a : Nat) (v : W64) : (s.setCtr a v).rounds = s.rounds := rfl
@[simp] theorem State.setCtr_sessions (s : State) (a : Nat) (v : W64) : (s.setCtr a v).sessions = s.sessions := rfl
@[simp] theorem State.setCtr_coreErrs (s : State) (a : Nat) (v : W64) : (s.setCtr a v).coreErrs = s.coreErrs := rfl
@[simp] theorem State.setCtr_ctxCmds (s : State) (a : Nat) (v : W64) : (s.setCtr a v).ctxCmds = s.ctxCmds := rfl
@[simp] theorem State.setCtr_ctxSlots (s : State) (a : Nat) (v : W64) : (s.setCtr a v).ctxSlots = s.ctxSlots := rfl
@[simp] theorem State.setCtr_hostImages (s : State) (a : Nat) (v : W64) : (s.setCtr a v).hostImages = s.hostImages := rfl
@[simp] theorem State.setCtr_fuses (s : State) (a : Nat) (v : W64) : (s.setCtr a v).fuses = s.fuses := rfl
@[simp] theorem State.setCtr_fusedOff (s : State) (a : Nat) (v : W64) : (s.setCtr a v).fusedOff = s.fusedOff := rfl
@[simp] theorem State.setCtr_disMap (s : State) (a : Nat) (v : W64) : (s.setCtr a v).disMap = s.disMap := rfl
@[simp] theorem State.setCtr_fwMarks (s : State) (a : Nat) (v : W64) : (s.setCtr a v).fwMarks = s.fwMarks := rfl
@[simp] theorem State.setCtr_formMarks (s : State) (a : Nat) (v : W64) : (s.setCtr a v).formMarks = s.formMarks := rfl
@[simp] theorem State.setCtr_sec (s : State) (a : Nat) (v : W64) : (s.setCtr a v).sec = s.sec := rfl
@[simp] theorem State.setCtr_loading (s : State) (a : Nat) (v : W64) : (s.setCtr a v).loading = s.loading := rfl
@[simp] theorem State.setCtr_dying (s : State) (a : Nat) (v : W64) : (s.setCtr a v).dying = s.dying := rfl
@[simp] theorem State.setCtr_removal (s : State) (a : Nat) (v : W64) : (s.setCtr a v).removal = s.removal := rfl
@[simp] theorem State.setCtr_mapMeas (s : State) (a : Nat) (v : W64) : (s.setCtr a v).mapMeas = s.mapMeas := rfl
@[simp] theorem State.setCtr_debugClk (s : State) (a : Nat) (v : W64) : (s.setCtr a v).debugClk = s.debugClk := rfl
@[simp] theorem State.setCtr_pwren (s : State) (a : Nat) (v : W64) : (s.setCtr a v).pwren = s.pwren := rfl
@[simp] theorem State.setCtr_supply (s : State) (a : Nat) (v : W64) : (s.setCtr a v).supply = s.supply := rfl
@[simp] theorem State.setCtr_smbus (s : State) (a : Nat) (v : W64) : (s.setCtr a v).smbus = s.smbus := rfl
@[simp] theorem State.setCtr_powerHold (s : State) (a : Nat) (v : W64) : (s.setCtr a v).powerHold = s.powerHold := rfl
@[simp] theorem State.setCtr_tripped (s : State) (a : Nat) (v : W64) : (s.setCtr a v).tripped = s.tripped := rfl
@[simp] theorem State.setCtr_tgSeeds (s : State) (a : Nat) (v : W64) : (s.setCtr a v).tgSeeds = s.tgSeeds := rfl
@[simp] theorem State.setCtr_warm (s : State) (a : Nat) (v : W64) : (s.setCtr a v).warm = s.warm := rfl
@[simp] theorem State.setCtr_tgStops (s : State) (a : Nat) (v : W64) : (s.setCtr a v).tgStops = s.tgStops := rfl
@[simp] theorem State.setCtr_holding (s : State) (a : Nat) (v : W64) : (s.setCtr a v).holding = s.holding := rfl
@[simp] theorem State.setCtr_diag (s : State) (a : Nat) (v : W64) : (s.setCtr a v).diag = s.diag := rfl
@[simp] theorem State.setCtr_outs (s : State) (a : Nat) (v : W64) : (s.setCtr a v).outs = s.outs := rfl
@[simp] theorem State.setCtr_maps_dev (s : State) (a : Nat) (v : W64) : (s.setCtr a v).maps.dev = s.maps.dev := rfl
@[simp] theorem State.setCtr_maps_host (s : State) (a : Nat) (v : W64) : (s.setCtr a v).maps.host = s.maps.host := rfl
@[simp] theorem State.setCtr_maps_flash (s : State) (a : Nat) (v : W64) : (s.setCtr a v).maps.flash = s.maps.flash := rfl
@[simp] theorem State.setCtr_maps_rt (s : State) (a : Nat) (v : W64) : (s.setCtr a v).maps.rt = s.maps.rt := rfl
@[simp] theorem State.setCtr_maps_side (s : State) (a : Nat) (v : W64) : (s.setCtr a v).maps.side = s.maps.side := rfl
@[simp] theorem State.setCtr_maps_reg (s : State) (a : Nat) (v : W64) : (s.setCtr a v).maps.reg = s.maps.reg := rfl
@[simp] theorem State.setCtr_maps_snap (s : State) (a : Nat) (v : W64) : (s.setCtr a v).maps.snap = s.maps.snap := rfl
@[simp] theorem State.setCtr_maps_acct (s : State) (a : Nat) (v : W64) : (s.setCtr a v).maps.acct = s.maps.acct := rfl
@[simp] theorem State.setCtr_maps_cbk (s : State) (a : Nat) (v : W64) : (s.setCtr a v).maps.cbk = s.maps.cbk := rfl
@[simp] theorem State.setCtr_maps_ft (s : State) (a : Nat) (v : W64) : (s.setCtr a v).maps.ft = s.maps.ft := rfl
@[simp] theorem State.setCtr_maps_seeds (s : State) (a : Nat) (v : W64) : (s.setCtr a v).maps.seeds = s.maps.seeds := rfl
@[simp] theorem State.setCtr_maps_reuse (s : State) (a : Nat) (v : W64) : (s.setCtr a v).maps.reuse = s.maps.reuse := rfl

/-! `bump`. -/
@[simp] theorem State.bump_pending (s : State) (a n : Nat) : (s.bump a n).pending = s.pending := rfl
@[simp] theorem State.bump_free (s : State) (a n : Nat) : (s.bump a n).free = s.free := rfl
@[simp] theorem State.bump_boot (s : State) (a n : Nat) : (s.bump a n).boot = s.boot := rfl
@[simp] theorem State.bump_grade (s : State) (a n : Nat) : (s.bump a n).grade = s.grade := rfl
@[simp] theorem State.bump_numVfs (s : State) (a n : Nat) : (s.bump a n).numVfs = s.numVfs := rfl
@[simp] theorem State.bump_tickClk (s : State) (a n : Nat) : (s.bump a n).tickClk = s.tickClk := rfl
@[simp] theorem State.bump_reading (s : State) (a n : Nat) : (s.bump a n).reading = s.reading := rfl
@[simp] theorem State.bump_readNo (s : State) (a n : Nat) : (s.bump a n).readNo = s.readNo := rfl
@[simp] theorem State.bump_readClk (s : State) (a n : Nat) : (s.bump a n).readClk = s.readClk := rfl
@[simp] theorem State.bump_nextGid (s : State) (a n : Nat) : (s.bump a n).nextGid = s.nextGid := rfl
@[simp] theorem State.bump_nextTid (s : State) (a n : Nat) : (s.bump a n).nextTid = s.nextTid := rfl
@[simp] theorem State.bump_parts (s : State) (a n : Nat) : (s.bump a n).parts = s.parts := rfl
@[simp] theorem State.bump_rings (s : State) (a n : Nat) : (s.bump a n).rings = s.rings := rfl
@[simp] theorem State.bump_graphs (s : State) (a n : Nat) : (s.bump a n).graphs = s.graphs := rfl
@[simp] theorem State.bump_tasks (s : State) (a n : Nat) : (s.bump a n).tasks = s.tasks := rfl
@[simp] theorem State.bump_tenants (s : State) (a n : Nat) : (s.bump a n).tenants = s.tenants := rfl
@[simp] theorem State.bump_flights (s : State) (a n : Nat) : (s.bump a n).flights = s.flights := rfl
@[simp] theorem State.bump_engs (s : State) (a n : Nat) : (s.bump a n).engs = s.engs := rfl
@[simp] theorem State.bump_migs (s : State) (a n : Nat) : (s.bump a n).migs = s.migs := rfl
@[simp] theorem State.bump_frames (s : State) (a n : Nat) : (s.bump a n).frames = s.frames := rfl
@[simp] theorem State.bump_badFrames (s : State) (a n : Nat) : (s.bump a n).badFrames = s.badFrames := rfl
@[simp] theorem State.bump_sick (s : State) (a n : Nat) : (s.bump a n).sick = s.sick := rfl
@[simp] theorem State.bump_hbmRows (s : State) (a n : Nat) : (s.bump a n).hbmRows = s.hbmRows := rfl
@[simp] theorem State.bump_hbmPcs (s : State) (a n : Nat) : (s.bump a n).hbmPcs = s.hbmPcs := rfl
@[simp] theorem State.bump_hbmDue (s : State) (a n : Nat) : (s.bump a n).hbmDue = s.hbmDue := rfl
@[simp] theorem State.bump_hbmHold (s : State) (a n : Nat) : (s.bump a n).hbmHold = s.hbmHold := rfl
@[simp] theorem State.bump_hbmWait (s : State) (a n : Nat) : (s.bump a n).hbmWait = s.hbmWait := rfl
@[simp] theorem State.bump_entryWait (s : State) (a n : Nat) : (s.bump a n).entryWait = s.entryWait := rfl
@[simp] theorem State.bump_hostSkips (s : State) (a n : Nat) : (s.bump a n).hostSkips = s.hostSkips := rfl
@[simp] theorem State.bump_hbmSpare (s : State) (a n : Nat) : (s.bump a n).hbmSpare = s.hbmSpare := rfl
@[simp] theorem State.bump_narrowDue (s : State) (a n : Nat) : (s.bump a n).narrowDue = s.narrowDue := rfl
@[simp] theorem State.bump_shared (s : State) (a n : Nat) : (s.bump a n).shared = s.shared := rfl
@[simp] theorem State.bump_touched (s : State) (a n : Nat) : (s.bump a n).touched = s.touched := rfl
@[simp] theorem State.bump_touchedPrev (s : State) (a n : Nat) : (s.bump a n).touchedPrev = s.touchedPrev := rfl
@[simp] theorem State.bump_lastDies (s : State) (a n : Nat) : (s.bump a n).lastDies = s.lastDies := rfl
@[simp] theorem State.bump_moves (s : State) (a n : Nat) : (s.bump a n).moves = s.moves := rfl
@[simp] theorem State.bump_kvRecs (s : State) (a n : Nat) : (s.bump a n).kvRecs = s.kvRecs := rfl
@[simp] theorem State.bump_kvStuck (s : State) (a n : Nat) : (s.bump a n).kvStuck = s.kvStuck := rfl
@[simp] theorem State.bump_kvFreed (s : State) (a n : Nat) : (s.bump a n).kvFreed = s.kvFreed := rfl
@[simp] theorem State.bump_kvWait (s : State) (a n : Nat) : (s.bump a n).kvWait = s.kvWait := rfl
@[simp] theorem State.bump_evicting (s : State) (a n : Nat) : (s.bump a n).evicting = s.evicting := rfl
@[simp] theorem State.bump_reuseSlots (s : State) (a n : Nat) : (s.bump a n).reuseSlots = s.reuseSlots := rfl
@[simp] theorem State.bump_slotsOn (s : State) (a n : Nat) : (s.bump a n).slotsOn = s.slotsOn := rfl
@[simp] theorem State.bump_sb (s : State) (a n : Nat) : (s.bump a n).sb = s.sb := rfl
@[simp] theorem State.bump_starts (s : State) (a n : Nat) : (s.bump a n).starts = s.starts := rfl
@[simp] theorem State.bump_startMsgs (s : State) (a n : Nat) : (s.bump a n).startMsgs = s.startMsgs := rfl
@[simp] theorem State.bump_gcAcquired (s : State) (a n : Nat) : (s.bump a n).gcAcquired = s.gcAcquired := rfl
@[simp] theorem State.bump_gcOffset (s : State) (a n : Nat) : (s.bump a n).gcOffset = s.gcOffset := rfl
@[simp] theorem State.bump_gcAhead (s : State) (a n : Nat) : (s.bump a n).gcAhead = s.gcAhead := rfl
@[simp] theorem State.bump_fsync (s : State) (a n : Nat) : (s.bump a n).fsync = s.fsync := rfl
@[simp] theorem State.bump_ports (s : State) (a n : Nat) : (s.bump a n).ports = s.ports := rfl
@[simp] theorem State.bump_routes (s : State) (a n : Nat) : (s.bump a n).routes = s.routes := rfl
@[simp] theorem State.bump_colls (s : State) (a n : Nat) : (s.bump a n).colls = s.colls := rfl
@[simp] theorem State.bump_rounds (s : State) (a n : Nat) : (s.bump a n).rounds = s.rounds := rfl
@[simp] theorem State.bump_sessions (s : State) (a n : Nat) : (s.bump a n).sessions = s.sessions := rfl
@[simp] theorem State.bump_coreErrs (s : State) (a n : Nat) : (s.bump a n).coreErrs = s.coreErrs := rfl
@[simp] theorem State.bump_ctxCmds (s : State) (a n : Nat) : (s.bump a n).ctxCmds = s.ctxCmds := rfl
@[simp] theorem State.bump_ctxSlots (s : State) (a n : Nat) : (s.bump a n).ctxSlots = s.ctxSlots := rfl
@[simp] theorem State.bump_hostImages (s : State) (a n : Nat) : (s.bump a n).hostImages = s.hostImages := rfl
@[simp] theorem State.bump_fuses (s : State) (a n : Nat) : (s.bump a n).fuses = s.fuses := rfl
@[simp] theorem State.bump_fusedOff (s : State) (a n : Nat) : (s.bump a n).fusedOff = s.fusedOff := rfl
@[simp] theorem State.bump_disMap (s : State) (a n : Nat) : (s.bump a n).disMap = s.disMap := rfl
@[simp] theorem State.bump_fwMarks (s : State) (a n : Nat) : (s.bump a n).fwMarks = s.fwMarks := rfl
@[simp] theorem State.bump_formMarks (s : State) (a n : Nat) : (s.bump a n).formMarks = s.formMarks := rfl
@[simp] theorem State.bump_sec (s : State) (a n : Nat) : (s.bump a n).sec = s.sec := rfl
@[simp] theorem State.bump_loading (s : State) (a n : Nat) : (s.bump a n).loading = s.loading := rfl
@[simp] theorem State.bump_dying (s : State) (a n : Nat) : (s.bump a n).dying = s.dying := rfl
@[simp] theorem State.bump_removal (s : State) (a n : Nat) : (s.bump a n).removal = s.removal := rfl
@[simp] theorem State.bump_mapMeas (s : State) (a n : Nat) : (s.bump a n).mapMeas = s.mapMeas := rfl
@[simp] theorem State.bump_debugClk (s : State) (a n : Nat) : (s.bump a n).debugClk = s.debugClk := rfl
@[simp] theorem State.bump_pwren (s : State) (a n : Nat) : (s.bump a n).pwren = s.pwren := rfl
@[simp] theorem State.bump_supply (s : State) (a n : Nat) : (s.bump a n).supply = s.supply := rfl
@[simp] theorem State.bump_smbus (s : State) (a n : Nat) : (s.bump a n).smbus = s.smbus := rfl
@[simp] theorem State.bump_powerHold (s : State) (a n : Nat) : (s.bump a n).powerHold = s.powerHold := rfl
@[simp] theorem State.bump_tripped (s : State) (a n : Nat) : (s.bump a n).tripped = s.tripped := rfl
@[simp] theorem State.bump_tgSeeds (s : State) (a n : Nat) : (s.bump a n).tgSeeds = s.tgSeeds := rfl
@[simp] theorem State.bump_warm (s : State) (a n : Nat) : (s.bump a n).warm = s.warm := rfl
@[simp] theorem State.bump_tgStops (s : State) (a n : Nat) : (s.bump a n).tgStops = s.tgStops := rfl
@[simp] theorem State.bump_holding (s : State) (a n : Nat) : (s.bump a n).holding = s.holding := rfl
@[simp] theorem State.bump_diag (s : State) (a n : Nat) : (s.bump a n).diag = s.diag := rfl
@[simp] theorem State.bump_outs (s : State) (a n : Nat) : (s.bump a n).outs = s.outs := rfl
@[simp] theorem State.bump_maps_dev (s : State) (a n : Nat) : (s.bump a n).maps.dev = s.maps.dev := rfl
@[simp] theorem State.bump_maps_host (s : State) (a n : Nat) : (s.bump a n).maps.host = s.maps.host := rfl
@[simp] theorem State.bump_maps_flash (s : State) (a n : Nat) : (s.bump a n).maps.flash = s.maps.flash := rfl
@[simp] theorem State.bump_maps_rt (s : State) (a n : Nat) : (s.bump a n).maps.rt = s.maps.rt := rfl
@[simp] theorem State.bump_maps_side (s : State) (a n : Nat) : (s.bump a n).maps.side = s.maps.side := rfl
@[simp] theorem State.bump_maps_reg (s : State) (a n : Nat) : (s.bump a n).maps.reg = s.maps.reg := rfl
@[simp] theorem State.bump_maps_snap (s : State) (a n : Nat) : (s.bump a n).maps.snap = s.maps.snap := rfl
@[simp] theorem State.bump_maps_acct (s : State) (a n : Nat) : (s.bump a n).maps.acct = s.maps.acct := rfl
@[simp] theorem State.bump_maps_cbk (s : State) (a n : Nat) : (s.bump a n).maps.cbk = s.maps.cbk := rfl
@[simp] theorem State.bump_maps_ft (s : State) (a n : Nat) : (s.bump a n).maps.ft = s.maps.ft := rfl
@[simp] theorem State.bump_maps_seeds (s : State) (a n : Nat) : (s.bump a n).maps.seeds = s.maps.seeds := rfl
@[simp] theorem State.bump_maps_reuse (s : State) (a n : Nat) : (s.bump a n).maps.reuse = s.maps.reuse := rfl

/-! `charge`. -/
@[simp] theorem State.charge_pending (s : State) (a n : Nat) : (s.charge a n).pending = s.pending := rfl
@[simp] theorem State.charge_free (s : State) (a n : Nat) : (s.charge a n).free = s.free := rfl
@[simp] theorem State.charge_boot (s : State) (a n : Nat) : (s.charge a n).boot = s.boot := rfl
@[simp] theorem State.charge_grade (s : State) (a n : Nat) : (s.charge a n).grade = s.grade := rfl
@[simp] theorem State.charge_numVfs (s : State) (a n : Nat) : (s.charge a n).numVfs = s.numVfs := rfl
@[simp] theorem State.charge_tickClk (s : State) (a n : Nat) : (s.charge a n).tickClk = s.tickClk := rfl
@[simp] theorem State.charge_reading (s : State) (a n : Nat) : (s.charge a n).reading = s.reading := rfl
@[simp] theorem State.charge_readNo (s : State) (a n : Nat) : (s.charge a n).readNo = s.readNo := rfl
@[simp] theorem State.charge_readClk (s : State) (a n : Nat) : (s.charge a n).readClk = s.readClk := rfl
@[simp] theorem State.charge_nextGid (s : State) (a n : Nat) : (s.charge a n).nextGid = s.nextGid := rfl
@[simp] theorem State.charge_nextTid (s : State) (a n : Nat) : (s.charge a n).nextTid = s.nextTid := rfl
@[simp] theorem State.charge_parts (s : State) (a n : Nat) : (s.charge a n).parts = s.parts := rfl
@[simp] theorem State.charge_rings (s : State) (a n : Nat) : (s.charge a n).rings = s.rings := rfl
@[simp] theorem State.charge_graphs (s : State) (a n : Nat) : (s.charge a n).graphs = s.graphs := rfl
@[simp] theorem State.charge_tasks (s : State) (a n : Nat) : (s.charge a n).tasks = s.tasks := rfl
@[simp] theorem State.charge_tenants (s : State) (a n : Nat) : (s.charge a n).tenants = s.tenants := rfl
@[simp] theorem State.charge_flights (s : State) (a n : Nat) : (s.charge a n).flights = s.flights := rfl
@[simp] theorem State.charge_engs (s : State) (a n : Nat) : (s.charge a n).engs = s.engs := rfl
@[simp] theorem State.charge_migs (s : State) (a n : Nat) : (s.charge a n).migs = s.migs := rfl
@[simp] theorem State.charge_frames (s : State) (a n : Nat) : (s.charge a n).frames = s.frames := rfl
@[simp] theorem State.charge_badFrames (s : State) (a n : Nat) : (s.charge a n).badFrames = s.badFrames := rfl
@[simp] theorem State.charge_sick (s : State) (a n : Nat) : (s.charge a n).sick = s.sick := rfl
@[simp] theorem State.charge_hbmRows (s : State) (a n : Nat) : (s.charge a n).hbmRows = s.hbmRows := rfl
@[simp] theorem State.charge_hbmPcs (s : State) (a n : Nat) : (s.charge a n).hbmPcs = s.hbmPcs := rfl
@[simp] theorem State.charge_hbmDue (s : State) (a n : Nat) : (s.charge a n).hbmDue = s.hbmDue := rfl
@[simp] theorem State.charge_hbmHold (s : State) (a n : Nat) : (s.charge a n).hbmHold = s.hbmHold := rfl
@[simp] theorem State.charge_hbmWait (s : State) (a n : Nat) : (s.charge a n).hbmWait = s.hbmWait := rfl
@[simp] theorem State.charge_entryWait (s : State) (a n : Nat) : (s.charge a n).entryWait = s.entryWait := rfl
@[simp] theorem State.charge_hostSkips (s : State) (a n : Nat) : (s.charge a n).hostSkips = s.hostSkips := rfl
@[simp] theorem State.charge_hbmSpare (s : State) (a n : Nat) : (s.charge a n).hbmSpare = s.hbmSpare := rfl
@[simp] theorem State.charge_narrowDue (s : State) (a n : Nat) : (s.charge a n).narrowDue = s.narrowDue := rfl
@[simp] theorem State.charge_shared (s : State) (a n : Nat) : (s.charge a n).shared = s.shared := rfl
@[simp] theorem State.charge_touched (s : State) (a n : Nat) : (s.charge a n).touched = s.touched := rfl
@[simp] theorem State.charge_touchedPrev (s : State) (a n : Nat) : (s.charge a n).touchedPrev = s.touchedPrev := rfl
@[simp] theorem State.charge_lastDies (s : State) (a n : Nat) : (s.charge a n).lastDies = s.lastDies := rfl
@[simp] theorem State.charge_moves (s : State) (a n : Nat) : (s.charge a n).moves = s.moves := rfl
@[simp] theorem State.charge_kvRecs (s : State) (a n : Nat) : (s.charge a n).kvRecs = s.kvRecs := rfl
@[simp] theorem State.charge_kvStuck (s : State) (a n : Nat) : (s.charge a n).kvStuck = s.kvStuck := rfl
@[simp] theorem State.charge_kvFreed (s : State) (a n : Nat) : (s.charge a n).kvFreed = s.kvFreed := rfl
@[simp] theorem State.charge_kvWait (s : State) (a n : Nat) : (s.charge a n).kvWait = s.kvWait := rfl
@[simp] theorem State.charge_evicting (s : State) (a n : Nat) : (s.charge a n).evicting = s.evicting := rfl
@[simp] theorem State.charge_reuseSlots (s : State) (a n : Nat) : (s.charge a n).reuseSlots = s.reuseSlots := rfl
@[simp] theorem State.charge_slotsOn (s : State) (a n : Nat) : (s.charge a n).slotsOn = s.slotsOn := rfl
@[simp] theorem State.charge_sb (s : State) (a n : Nat) : (s.charge a n).sb = s.sb := rfl
@[simp] theorem State.charge_starts (s : State) (a n : Nat) : (s.charge a n).starts = s.starts := rfl
@[simp] theorem State.charge_startMsgs (s : State) (a n : Nat) : (s.charge a n).startMsgs = s.startMsgs := rfl
@[simp] theorem State.charge_gcAcquired (s : State) (a n : Nat) : (s.charge a n).gcAcquired = s.gcAcquired := rfl
@[simp] theorem State.charge_gcOffset (s : State) (a n : Nat) : (s.charge a n).gcOffset = s.gcOffset := rfl
@[simp] theorem State.charge_gcAhead (s : State) (a n : Nat) : (s.charge a n).gcAhead = s.gcAhead := rfl
@[simp] theorem State.charge_fsync (s : State) (a n : Nat) : (s.charge a n).fsync = s.fsync := rfl
@[simp] theorem State.charge_ports (s : State) (a n : Nat) : (s.charge a n).ports = s.ports := rfl
@[simp] theorem State.charge_routes (s : State) (a n : Nat) : (s.charge a n).routes = s.routes := rfl
@[simp] theorem State.charge_colls (s : State) (a n : Nat) : (s.charge a n).colls = s.colls := rfl
@[simp] theorem State.charge_rounds (s : State) (a n : Nat) : (s.charge a n).rounds = s.rounds := rfl
@[simp] theorem State.charge_sessions (s : State) (a n : Nat) : (s.charge a n).sessions = s.sessions := rfl
@[simp] theorem State.charge_coreErrs (s : State) (a n : Nat) : (s.charge a n).coreErrs = s.coreErrs := rfl
@[simp] theorem State.charge_ctxCmds (s : State) (a n : Nat) : (s.charge a n).ctxCmds = s.ctxCmds := rfl
@[simp] theorem State.charge_ctxSlots (s : State) (a n : Nat) : (s.charge a n).ctxSlots = s.ctxSlots := rfl
@[simp] theorem State.charge_hostImages (s : State) (a n : Nat) : (s.charge a n).hostImages = s.hostImages := rfl
@[simp] theorem State.charge_fuses (s : State) (a n : Nat) : (s.charge a n).fuses = s.fuses := rfl
@[simp] theorem State.charge_fusedOff (s : State) (a n : Nat) : (s.charge a n).fusedOff = s.fusedOff := rfl
@[simp] theorem State.charge_disMap (s : State) (a n : Nat) : (s.charge a n).disMap = s.disMap := rfl
@[simp] theorem State.charge_fwMarks (s : State) (a n : Nat) : (s.charge a n).fwMarks = s.fwMarks := rfl
@[simp] theorem State.charge_formMarks (s : State) (a n : Nat) : (s.charge a n).formMarks = s.formMarks := rfl
@[simp] theorem State.charge_sec (s : State) (a n : Nat) : (s.charge a n).sec = s.sec := rfl
@[simp] theorem State.charge_loading (s : State) (a n : Nat) : (s.charge a n).loading = s.loading := rfl
@[simp] theorem State.charge_dying (s : State) (a n : Nat) : (s.charge a n).dying = s.dying := rfl
@[simp] theorem State.charge_removal (s : State) (a n : Nat) : (s.charge a n).removal = s.removal := rfl
@[simp] theorem State.charge_mapMeas (s : State) (a n : Nat) : (s.charge a n).mapMeas = s.mapMeas := rfl
@[simp] theorem State.charge_debugClk (s : State) (a n : Nat) : (s.charge a n).debugClk = s.debugClk := rfl
@[simp] theorem State.charge_pwren (s : State) (a n : Nat) : (s.charge a n).pwren = s.pwren := rfl
@[simp] theorem State.charge_supply (s : State) (a n : Nat) : (s.charge a n).supply = s.supply := rfl
@[simp] theorem State.charge_smbus (s : State) (a n : Nat) : (s.charge a n).smbus = s.smbus := rfl
@[simp] theorem State.charge_powerHold (s : State) (a n : Nat) : (s.charge a n).powerHold = s.powerHold := rfl
@[simp] theorem State.charge_tripped (s : State) (a n : Nat) : (s.charge a n).tripped = s.tripped := rfl
@[simp] theorem State.charge_tgSeeds (s : State) (a n : Nat) : (s.charge a n).tgSeeds = s.tgSeeds := rfl
@[simp] theorem State.charge_warm (s : State) (a n : Nat) : (s.charge a n).warm = s.warm := rfl
@[simp] theorem State.charge_tgStops (s : State) (a n : Nat) : (s.charge a n).tgStops = s.tgStops := rfl
@[simp] theorem State.charge_holding (s : State) (a n : Nat) : (s.charge a n).holding = s.holding := rfl
@[simp] theorem State.charge_diag (s : State) (a n : Nat) : (s.charge a n).diag = s.diag := rfl
@[simp] theorem State.charge_outs (s : State) (a n : Nat) : (s.charge a n).outs = s.outs := rfl
@[simp] theorem State.charge_maps_dev (s : State) (a n : Nat) : (s.charge a n).maps.dev = s.maps.dev := rfl
@[simp] theorem State.charge_maps_host (s : State) (a n : Nat) : (s.charge a n).maps.host = s.maps.host := rfl
@[simp] theorem State.charge_maps_flash (s : State) (a n : Nat) : (s.charge a n).maps.flash = s.maps.flash := rfl
@[simp] theorem State.charge_maps_rt (s : State) (a n : Nat) : (s.charge a n).maps.rt = s.maps.rt := rfl
@[simp] theorem State.charge_maps_side (s : State) (a n : Nat) : (s.charge a n).maps.side = s.maps.side := rfl
@[simp] theorem State.charge_maps_reg (s : State) (a n : Nat) : (s.charge a n).maps.reg = s.maps.reg := rfl
@[simp] theorem State.charge_maps_ctr (s : State) (a n : Nat) : (s.charge a n).maps.ctr = s.maps.ctr := rfl
@[simp] theorem State.charge_maps_snap (s : State) (a n : Nat) : (s.charge a n).maps.snap = s.maps.snap := rfl
@[simp] theorem State.charge_maps_cbk (s : State) (a n : Nat) : (s.charge a n).maps.cbk = s.maps.cbk := rfl
@[simp] theorem State.charge_maps_ft (s : State) (a n : Nat) : (s.charge a n).maps.ft = s.maps.ft := rfl
@[simp] theorem State.charge_maps_seeds (s : State) (a n : Nat) : (s.charge a n).maps.seeds = s.maps.seeds := rfl
@[simp] theorem State.charge_maps_reuse (s : State) (a n : Nat) : (s.charge a n).maps.reuse = s.maps.reuse := rfl

/-! `setRt`. -/
@[simp] theorem State.setRt_pending (s : State) (page : Nat) (e : W64) : (s.setRt page e).pending = s.pending := rfl
@[simp] theorem State.setRt_free (s : State) (page : Nat) (e : W64) : (s.setRt page e).free = s.free := rfl
@[simp] theorem State.setRt_boot (s : State) (page : Nat) (e : W64) : (s.setRt page e).boot = s.boot := rfl
@[simp] theorem State.setRt_grade (s : State) (page : Nat) (e : W64) : (s.setRt page e).grade = s.grade := rfl
@[simp] theorem State.setRt_numVfs (s : State) (page : Nat) (e : W64) : (s.setRt page e).numVfs = s.numVfs := rfl
@[simp] theorem State.setRt_tickClk (s : State) (page : Nat) (e : W64) : (s.setRt page e).tickClk = s.tickClk := rfl
@[simp] theorem State.setRt_reading (s : State) (page : Nat) (e : W64) : (s.setRt page e).reading = s.reading := rfl
@[simp] theorem State.setRt_readNo (s : State) (page : Nat) (e : W64) : (s.setRt page e).readNo = s.readNo := rfl
@[simp] theorem State.setRt_readClk (s : State) (page : Nat) (e : W64) : (s.setRt page e).readClk = s.readClk := rfl
@[simp] theorem State.setRt_nextGid (s : State) (page : Nat) (e : W64) : (s.setRt page e).nextGid = s.nextGid := rfl
@[simp] theorem State.setRt_nextTid (s : State) (page : Nat) (e : W64) : (s.setRt page e).nextTid = s.nextTid := rfl
@[simp] theorem State.setRt_parts (s : State) (page : Nat) (e : W64) : (s.setRt page e).parts = s.parts := rfl
@[simp] theorem State.setRt_rings (s : State) (page : Nat) (e : W64) : (s.setRt page e).rings = s.rings := rfl
@[simp] theorem State.setRt_graphs (s : State) (page : Nat) (e : W64) : (s.setRt page e).graphs = s.graphs := rfl
@[simp] theorem State.setRt_tasks (s : State) (page : Nat) (e : W64) : (s.setRt page e).tasks = s.tasks := rfl
@[simp] theorem State.setRt_tenants (s : State) (page : Nat) (e : W64) : (s.setRt page e).tenants = s.tenants := rfl
@[simp] theorem State.setRt_flights (s : State) (page : Nat) (e : W64) : (s.setRt page e).flights = s.flights := rfl
@[simp] theorem State.setRt_engs (s : State) (page : Nat) (e : W64) : (s.setRt page e).engs = s.engs := rfl
@[simp] theorem State.setRt_migs (s : State) (page : Nat) (e : W64) : (s.setRt page e).migs = s.migs := rfl
@[simp] theorem State.setRt_frames (s : State) (page : Nat) (e : W64) : (s.setRt page e).frames = s.frames := rfl
@[simp] theorem State.setRt_badFrames (s : State) (page : Nat) (e : W64) : (s.setRt page e).badFrames = s.badFrames := rfl
@[simp] theorem State.setRt_sick (s : State) (page : Nat) (e : W64) : (s.setRt page e).sick = s.sick := rfl
@[simp] theorem State.setRt_hbmRows (s : State) (page : Nat) (e : W64) : (s.setRt page e).hbmRows = s.hbmRows := rfl
@[simp] theorem State.setRt_hbmPcs (s : State) (page : Nat) (e : W64) : (s.setRt page e).hbmPcs = s.hbmPcs := rfl
@[simp] theorem State.setRt_hbmDue (s : State) (page : Nat) (e : W64) : (s.setRt page e).hbmDue = s.hbmDue := rfl
@[simp] theorem State.setRt_hbmHold (s : State) (page : Nat) (e : W64) : (s.setRt page e).hbmHold = s.hbmHold := rfl
@[simp] theorem State.setRt_hbmWait (s : State) (page : Nat) (e : W64) : (s.setRt page e).hbmWait = s.hbmWait := rfl
@[simp] theorem State.setRt_entryWait (s : State) (page : Nat) (e : W64) : (s.setRt page e).entryWait = s.entryWait := rfl
@[simp] theorem State.setRt_hostSkips (s : State) (page : Nat) (e : W64) : (s.setRt page e).hostSkips = s.hostSkips := rfl
@[simp] theorem State.setRt_hbmSpare (s : State) (page : Nat) (e : W64) : (s.setRt page e).hbmSpare = s.hbmSpare := rfl
@[simp] theorem State.setRt_narrowDue (s : State) (page : Nat) (e : W64) : (s.setRt page e).narrowDue = s.narrowDue := rfl
@[simp] theorem State.setRt_shared (s : State) (page : Nat) (e : W64) : (s.setRt page e).shared = s.shared := rfl
@[simp] theorem State.setRt_touched (s : State) (page : Nat) (e : W64) : (s.setRt page e).touched = s.touched := rfl
@[simp] theorem State.setRt_touchedPrev (s : State) (page : Nat) (e : W64) : (s.setRt page e).touchedPrev = s.touchedPrev := rfl
@[simp] theorem State.setRt_lastDies (s : State) (page : Nat) (e : W64) : (s.setRt page e).lastDies = s.lastDies := rfl
@[simp] theorem State.setRt_moves (s : State) (page : Nat) (e : W64) : (s.setRt page e).moves = s.moves := rfl
@[simp] theorem State.setRt_kvRecs (s : State) (page : Nat) (e : W64) : (s.setRt page e).kvRecs = s.kvRecs := rfl
@[simp] theorem State.setRt_kvStuck (s : State) (page : Nat) (e : W64) : (s.setRt page e).kvStuck = s.kvStuck := rfl
@[simp] theorem State.setRt_kvFreed (s : State) (page : Nat) (e : W64) : (s.setRt page e).kvFreed = s.kvFreed := rfl
@[simp] theorem State.setRt_kvWait (s : State) (page : Nat) (e : W64) : (s.setRt page e).kvWait = s.kvWait := rfl
@[simp] theorem State.setRt_evicting (s : State) (page : Nat) (e : W64) : (s.setRt page e).evicting = s.evicting := rfl
@[simp] theorem State.setRt_reuseSlots (s : State) (page : Nat) (e : W64) : (s.setRt page e).reuseSlots = s.reuseSlots := rfl
@[simp] theorem State.setRt_slotsOn (s : State) (page : Nat) (e : W64) : (s.setRt page e).slotsOn = s.slotsOn := rfl
@[simp] theorem State.setRt_sb (s : State) (page : Nat) (e : W64) : (s.setRt page e).sb = s.sb := rfl
@[simp] theorem State.setRt_starts (s : State) (page : Nat) (e : W64) : (s.setRt page e).starts = s.starts := rfl
@[simp] theorem State.setRt_startMsgs (s : State) (page : Nat) (e : W64) : (s.setRt page e).startMsgs = s.startMsgs := rfl
@[simp] theorem State.setRt_gcAcquired (s : State) (page : Nat) (e : W64) : (s.setRt page e).gcAcquired = s.gcAcquired := rfl
@[simp] theorem State.setRt_gcOffset (s : State) (page : Nat) (e : W64) : (s.setRt page e).gcOffset = s.gcOffset := rfl
@[simp] theorem State.setRt_gcAhead (s : State) (page : Nat) (e : W64) : (s.setRt page e).gcAhead = s.gcAhead := rfl
@[simp] theorem State.setRt_fsync (s : State) (page : Nat) (e : W64) : (s.setRt page e).fsync = s.fsync := rfl
@[simp] theorem State.setRt_ports (s : State) (page : Nat) (e : W64) : (s.setRt page e).ports = s.ports := rfl
@[simp] theorem State.setRt_routes (s : State) (page : Nat) (e : W64) : (s.setRt page e).routes = s.routes := rfl
@[simp] theorem State.setRt_colls (s : State) (page : Nat) (e : W64) : (s.setRt page e).colls = s.colls := rfl
@[simp] theorem State.setRt_rounds (s : State) (page : Nat) (e : W64) : (s.setRt page e).rounds = s.rounds := rfl
@[simp] theorem State.setRt_sessions (s : State) (page : Nat) (e : W64) : (s.setRt page e).sessions = s.sessions := rfl
@[simp] theorem State.setRt_coreErrs (s : State) (page : Nat) (e : W64) : (s.setRt page e).coreErrs = s.coreErrs := rfl
@[simp] theorem State.setRt_ctxCmds (s : State) (page : Nat) (e : W64) : (s.setRt page e).ctxCmds = s.ctxCmds := rfl
@[simp] theorem State.setRt_ctxSlots (s : State) (page : Nat) (e : W64) : (s.setRt page e).ctxSlots = s.ctxSlots := rfl
@[simp] theorem State.setRt_hostImages (s : State) (page : Nat) (e : W64) : (s.setRt page e).hostImages = s.hostImages := rfl
@[simp] theorem State.setRt_fuses (s : State) (page : Nat) (e : W64) : (s.setRt page e).fuses = s.fuses := rfl
@[simp] theorem State.setRt_fusedOff (s : State) (page : Nat) (e : W64) : (s.setRt page e).fusedOff = s.fusedOff := rfl
@[simp] theorem State.setRt_disMap (s : State) (page : Nat) (e : W64) : (s.setRt page e).disMap = s.disMap := rfl
@[simp] theorem State.setRt_fwMarks (s : State) (page : Nat) (e : W64) : (s.setRt page e).fwMarks = s.fwMarks := rfl
@[simp] theorem State.setRt_formMarks (s : State) (page : Nat) (e : W64) : (s.setRt page e).formMarks = s.formMarks := rfl
@[simp] theorem State.setRt_sec (s : State) (page : Nat) (e : W64) : (s.setRt page e).sec = s.sec := rfl
@[simp] theorem State.setRt_loading (s : State) (page : Nat) (e : W64) : (s.setRt page e).loading = s.loading := rfl
@[simp] theorem State.setRt_dying (s : State) (page : Nat) (e : W64) : (s.setRt page e).dying = s.dying := rfl
@[simp] theorem State.setRt_removal (s : State) (page : Nat) (e : W64) : (s.setRt page e).removal = s.removal := rfl
@[simp] theorem State.setRt_mapMeas (s : State) (page : Nat) (e : W64) : (s.setRt page e).mapMeas = s.mapMeas := rfl
@[simp] theorem State.setRt_debugClk (s : State) (page : Nat) (e : W64) : (s.setRt page e).debugClk = s.debugClk := rfl
@[simp] theorem State.setRt_pwren (s : State) (page : Nat) (e : W64) : (s.setRt page e).pwren = s.pwren := rfl
@[simp] theorem State.setRt_supply (s : State) (page : Nat) (e : W64) : (s.setRt page e).supply = s.supply := rfl
@[simp] theorem State.setRt_smbus (s : State) (page : Nat) (e : W64) : (s.setRt page e).smbus = s.smbus := rfl
@[simp] theorem State.setRt_powerHold (s : State) (page : Nat) (e : W64) : (s.setRt page e).powerHold = s.powerHold := rfl
@[simp] theorem State.setRt_tripped (s : State) (page : Nat) (e : W64) : (s.setRt page e).tripped = s.tripped := rfl
@[simp] theorem State.setRt_tgSeeds (s : State) (page : Nat) (e : W64) : (s.setRt page e).tgSeeds = s.tgSeeds := rfl
@[simp] theorem State.setRt_warm (s : State) (page : Nat) (e : W64) : (s.setRt page e).warm = s.warm := rfl
@[simp] theorem State.setRt_tgStops (s : State) (page : Nat) (e : W64) : (s.setRt page e).tgStops = s.tgStops := rfl
@[simp] theorem State.setRt_holding (s : State) (page : Nat) (e : W64) : (s.setRt page e).holding = s.holding := rfl
@[simp] theorem State.setRt_diag (s : State) (page : Nat) (e : W64) : (s.setRt page e).diag = s.diag := rfl
@[simp] theorem State.setRt_outs (s : State) (page : Nat) (e : W64) : (s.setRt page e).outs = s.outs := rfl
@[simp] theorem State.setRt_maps_dev (s : State) (page : Nat) (e : W64) : (s.setRt page e).maps.dev = s.maps.dev := rfl
@[simp] theorem State.setRt_maps_host (s : State) (page : Nat) (e : W64) : (s.setRt page e).maps.host = s.maps.host := rfl
@[simp] theorem State.setRt_maps_flash (s : State) (page : Nat) (e : W64) : (s.setRt page e).maps.flash = s.maps.flash := rfl
@[simp] theorem State.setRt_maps_side (s : State) (page : Nat) (e : W64) : (s.setRt page e).maps.side = s.maps.side := rfl
@[simp] theorem State.setRt_maps_reg (s : State) (page : Nat) (e : W64) : (s.setRt page e).maps.reg = s.maps.reg := rfl
@[simp] theorem State.setRt_maps_ctr (s : State) (page : Nat) (e : W64) : (s.setRt page e).maps.ctr = s.maps.ctr := rfl
@[simp] theorem State.setRt_maps_snap (s : State) (page : Nat) (e : W64) : (s.setRt page e).maps.snap = s.maps.snap := rfl
@[simp] theorem State.setRt_maps_acct (s : State) (page : Nat) (e : W64) : (s.setRt page e).maps.acct = s.maps.acct := rfl
@[simp] theorem State.setRt_maps_cbk (s : State) (page : Nat) (e : W64) : (s.setRt page e).maps.cbk = s.maps.cbk := rfl
@[simp] theorem State.setRt_maps_ft (s : State) (page : Nat) (e : W64) : (s.setRt page e).maps.ft = s.maps.ft := rfl
@[simp] theorem State.setRt_maps_seeds (s : State) (page : Nat) (e : W64) : (s.setRt page e).maps.seeds = s.maps.seeds := rfl
@[simp] theorem State.setRt_maps_reuse (s : State) (page : Nat) (e : W64) : (s.setRt page e).maps.reuse = s.maps.reuse := rfl

/-! `setSide`. -/
@[simp] theorem State.setSide_pending (s : State) (blk : Nat) (v : W64) : (s.setSide blk v).pending = s.pending := rfl
@[simp] theorem State.setSide_free (s : State) (blk : Nat) (v : W64) : (s.setSide blk v).free = s.free := rfl
@[simp] theorem State.setSide_boot (s : State) (blk : Nat) (v : W64) : (s.setSide blk v).boot = s.boot := rfl
@[simp] theorem State.setSide_grade (s : State) (blk : Nat) (v : W64) : (s.setSide blk v).grade = s.grade := rfl
@[simp] theorem State.setSide_numVfs (s : State) (blk : Nat) (v : W64) : (s.setSide blk v).numVfs = s.numVfs := rfl
@[simp] theorem State.setSide_tickClk (s : State) (blk : Nat) (v : W64) : (s.setSide blk v).tickClk = s.tickClk := rfl
@[simp] theorem State.setSide_reading (s : State) (blk : Nat) (v : W64) : (s.setSide blk v).reading = s.reading := rfl
@[simp] theorem State.setSide_readNo (s : State) (blk : Nat) (v : W64) : (s.setSide blk v).readNo = s.readNo := rfl
@[simp] theorem State.setSide_readClk (s : State) (blk : Nat) (v : W64) : (s.setSide blk v).readClk = s.readClk := rfl
@[simp] theorem State.setSide_nextGid (s : State) (blk : Nat) (v : W64) : (s.setSide blk v).nextGid = s.nextGid := rfl
@[simp] theorem State.setSide_nextTid (s : State) (blk : Nat) (v : W64) : (s.setSide blk v).nextTid = s.nextTid := rfl
@[simp] theorem State.setSide_parts (s : State) (blk : Nat) (v : W64) : (s.setSide blk v).parts = s.parts := rfl
@[simp] theorem State.setSide_rings (s : State) (blk : Nat) (v : W64) : (s.setSide blk v).rings = s.rings := rfl
@[simp] theorem State.setSide_graphs (s : State) (blk : Nat) (v : W64) : (s.setSide blk v).graphs = s.graphs := rfl
@[simp] theorem State.setSide_tasks (s : State) (blk : Nat) (v : W64) : (s.setSide blk v).tasks = s.tasks := rfl
@[simp] theorem State.setSide_tenants (s : State) (blk : Nat) (v : W64) : (s.setSide blk v).tenants = s.tenants := rfl
@[simp] theorem State.setSide_flights (s : State) (blk : Nat) (v : W64) : (s.setSide blk v).flights = s.flights := rfl
@[simp] theorem State.setSide_engs (s : State) (blk : Nat) (v : W64) : (s.setSide blk v).engs = s.engs := rfl
@[simp] theorem State.setSide_migs (s : State) (blk : Nat) (v : W64) : (s.setSide blk v).migs = s.migs := rfl
@[simp] theorem State.setSide_frames (s : State) (blk : Nat) (v : W64) : (s.setSide blk v).frames = s.frames := rfl
@[simp] theorem State.setSide_badFrames (s : State) (blk : Nat) (v : W64) : (s.setSide blk v).badFrames = s.badFrames := rfl
@[simp] theorem State.setSide_sick (s : State) (blk : Nat) (v : W64) : (s.setSide blk v).sick = s.sick := rfl
@[simp] theorem State.setSide_hbmRows (s : State) (blk : Nat) (v : W64) : (s.setSide blk v).hbmRows = s.hbmRows := rfl
@[simp] theorem State.setSide_hbmPcs (s : State) (blk : Nat) (v : W64) : (s.setSide blk v).hbmPcs = s.hbmPcs := rfl
@[simp] theorem State.setSide_hbmDue (s : State) (blk : Nat) (v : W64) : (s.setSide blk v).hbmDue = s.hbmDue := rfl
@[simp] theorem State.setSide_hbmHold (s : State) (blk : Nat) (v : W64) : (s.setSide blk v).hbmHold = s.hbmHold := rfl
@[simp] theorem State.setSide_hbmWait (s : State) (blk : Nat) (v : W64) : (s.setSide blk v).hbmWait = s.hbmWait := rfl
@[simp] theorem State.setSide_entryWait (s : State) (blk : Nat) (v : W64) : (s.setSide blk v).entryWait = s.entryWait := rfl
@[simp] theorem State.setSide_hostSkips (s : State) (blk : Nat) (v : W64) : (s.setSide blk v).hostSkips = s.hostSkips := rfl
@[simp] theorem State.setSide_hbmSpare (s : State) (blk : Nat) (v : W64) : (s.setSide blk v).hbmSpare = s.hbmSpare := rfl
@[simp] theorem State.setSide_narrowDue (s : State) (blk : Nat) (v : W64) : (s.setSide blk v).narrowDue = s.narrowDue := rfl
@[simp] theorem State.setSide_shared (s : State) (blk : Nat) (v : W64) : (s.setSide blk v).shared = s.shared := rfl
@[simp] theorem State.setSide_touched (s : State) (blk : Nat) (v : W64) : (s.setSide blk v).touched = s.touched := rfl
@[simp] theorem State.setSide_touchedPrev (s : State) (blk : Nat) (v : W64) : (s.setSide blk v).touchedPrev = s.touchedPrev := rfl
@[simp] theorem State.setSide_lastDies (s : State) (blk : Nat) (v : W64) : (s.setSide blk v).lastDies = s.lastDies := rfl
@[simp] theorem State.setSide_moves (s : State) (blk : Nat) (v : W64) : (s.setSide blk v).moves = s.moves := rfl
@[simp] theorem State.setSide_kvRecs (s : State) (blk : Nat) (v : W64) : (s.setSide blk v).kvRecs = s.kvRecs := rfl
@[simp] theorem State.setSide_kvStuck (s : State) (blk : Nat) (v : W64) : (s.setSide blk v).kvStuck = s.kvStuck := rfl
@[simp] theorem State.setSide_kvFreed (s : State) (blk : Nat) (v : W64) : (s.setSide blk v).kvFreed = s.kvFreed := rfl
@[simp] theorem State.setSide_kvWait (s : State) (blk : Nat) (v : W64) : (s.setSide blk v).kvWait = s.kvWait := rfl
@[simp] theorem State.setSide_evicting (s : State) (blk : Nat) (v : W64) : (s.setSide blk v).evicting = s.evicting := rfl
@[simp] theorem State.setSide_reuseSlots (s : State) (blk : Nat) (v : W64) : (s.setSide blk v).reuseSlots = s.reuseSlots := rfl
@[simp] theorem State.setSide_slotsOn (s : State) (blk : Nat) (v : W64) : (s.setSide blk v).slotsOn = s.slotsOn := rfl
@[simp] theorem State.setSide_sb (s : State) (blk : Nat) (v : W64) : (s.setSide blk v).sb = s.sb := rfl
@[simp] theorem State.setSide_starts (s : State) (blk : Nat) (v : W64) : (s.setSide blk v).starts = s.starts := rfl
@[simp] theorem State.setSide_startMsgs (s : State) (blk : Nat) (v : W64) : (s.setSide blk v).startMsgs = s.startMsgs := rfl
@[simp] theorem State.setSide_gcAcquired (s : State) (blk : Nat) (v : W64) : (s.setSide blk v).gcAcquired = s.gcAcquired := rfl
@[simp] theorem State.setSide_gcOffset (s : State) (blk : Nat) (v : W64) : (s.setSide blk v).gcOffset = s.gcOffset := rfl
@[simp] theorem State.setSide_gcAhead (s : State) (blk : Nat) (v : W64) : (s.setSide blk v).gcAhead = s.gcAhead := rfl
@[simp] theorem State.setSide_fsync (s : State) (blk : Nat) (v : W64) : (s.setSide blk v).fsync = s.fsync := rfl
@[simp] theorem State.setSide_ports (s : State) (blk : Nat) (v : W64) : (s.setSide blk v).ports = s.ports := rfl
@[simp] theorem State.setSide_routes (s : State) (blk : Nat) (v : W64) : (s.setSide blk v).routes = s.routes := rfl
@[simp] theorem State.setSide_colls (s : State) (blk : Nat) (v : W64) : (s.setSide blk v).colls = s.colls := rfl
@[simp] theorem State.setSide_rounds (s : State) (blk : Nat) (v : W64) : (s.setSide blk v).rounds = s.rounds := rfl
@[simp] theorem State.setSide_sessions (s : State) (blk : Nat) (v : W64) : (s.setSide blk v).sessions = s.sessions := rfl
@[simp] theorem State.setSide_coreErrs (s : State) (blk : Nat) (v : W64) : (s.setSide blk v).coreErrs = s.coreErrs := rfl
@[simp] theorem State.setSide_ctxCmds (s : State) (blk : Nat) (v : W64) : (s.setSide blk v).ctxCmds = s.ctxCmds := rfl
@[simp] theorem State.setSide_ctxSlots (s : State) (blk : Nat) (v : W64) : (s.setSide blk v).ctxSlots = s.ctxSlots := rfl
@[simp] theorem State.setSide_hostImages (s : State) (blk : Nat) (v : W64) : (s.setSide blk v).hostImages = s.hostImages := rfl
@[simp] theorem State.setSide_fuses (s : State) (blk : Nat) (v : W64) : (s.setSide blk v).fuses = s.fuses := rfl
@[simp] theorem State.setSide_fusedOff (s : State) (blk : Nat) (v : W64) : (s.setSide blk v).fusedOff = s.fusedOff := rfl
@[simp] theorem State.setSide_disMap (s : State) (blk : Nat) (v : W64) : (s.setSide blk v).disMap = s.disMap := rfl
@[simp] theorem State.setSide_fwMarks (s : State) (blk : Nat) (v : W64) : (s.setSide blk v).fwMarks = s.fwMarks := rfl
@[simp] theorem State.setSide_formMarks (s : State) (blk : Nat) (v : W64) : (s.setSide blk v).formMarks = s.formMarks := rfl
@[simp] theorem State.setSide_sec (s : State) (blk : Nat) (v : W64) : (s.setSide blk v).sec = s.sec := rfl
@[simp] theorem State.setSide_loading (s : State) (blk : Nat) (v : W64) : (s.setSide blk v).loading = s.loading := rfl
@[simp] theorem State.setSide_dying (s : State) (blk : Nat) (v : W64) : (s.setSide blk v).dying = s.dying := rfl
@[simp] theorem State.setSide_removal (s : State) (blk : Nat) (v : W64) : (s.setSide blk v).removal = s.removal := rfl
@[simp] theorem State.setSide_mapMeas (s : State) (blk : Nat) (v : W64) : (s.setSide blk v).mapMeas = s.mapMeas := rfl
@[simp] theorem State.setSide_debugClk (s : State) (blk : Nat) (v : W64) : (s.setSide blk v).debugClk = s.debugClk := rfl
@[simp] theorem State.setSide_pwren (s : State) (blk : Nat) (v : W64) : (s.setSide blk v).pwren = s.pwren := rfl
@[simp] theorem State.setSide_supply (s : State) (blk : Nat) (v : W64) : (s.setSide blk v).supply = s.supply := rfl
@[simp] theorem State.setSide_smbus (s : State) (blk : Nat) (v : W64) : (s.setSide blk v).smbus = s.smbus := rfl
@[simp] theorem State.setSide_powerHold (s : State) (blk : Nat) (v : W64) : (s.setSide blk v).powerHold = s.powerHold := rfl
@[simp] theorem State.setSide_tripped (s : State) (blk : Nat) (v : W64) : (s.setSide blk v).tripped = s.tripped := rfl
@[simp] theorem State.setSide_tgSeeds (s : State) (blk : Nat) (v : W64) : (s.setSide blk v).tgSeeds = s.tgSeeds := rfl
@[simp] theorem State.setSide_warm (s : State) (blk : Nat) (v : W64) : (s.setSide blk v).warm = s.warm := rfl
@[simp] theorem State.setSide_tgStops (s : State) (blk : Nat) (v : W64) : (s.setSide blk v).tgStops = s.tgStops := rfl
@[simp] theorem State.setSide_holding (s : State) (blk : Nat) (v : W64) : (s.setSide blk v).holding = s.holding := rfl
@[simp] theorem State.setSide_diag (s : State) (blk : Nat) (v : W64) : (s.setSide blk v).diag = s.diag := rfl
@[simp] theorem State.setSide_outs (s : State) (blk : Nat) (v : W64) : (s.setSide blk v).outs = s.outs := rfl
@[simp] theorem State.setSide_maps_dev (s : State) (blk : Nat) (v : W64) : (s.setSide blk v).maps.dev = s.maps.dev := rfl
@[simp] theorem State.setSide_maps_host (s : State) (blk : Nat) (v : W64) : (s.setSide blk v).maps.host = s.maps.host := rfl
@[simp] theorem State.setSide_maps_flash (s : State) (blk : Nat) (v : W64) : (s.setSide blk v).maps.flash = s.maps.flash := rfl
@[simp] theorem State.setSide_maps_rt (s : State) (blk : Nat) (v : W64) : (s.setSide blk v).maps.rt = s.maps.rt := rfl
@[simp] theorem State.setSide_maps_reg (s : State) (blk : Nat) (v : W64) : (s.setSide blk v).maps.reg = s.maps.reg := rfl
@[simp] theorem State.setSide_maps_ctr (s : State) (blk : Nat) (v : W64) : (s.setSide blk v).maps.ctr = s.maps.ctr := rfl
@[simp] theorem State.setSide_maps_snap (s : State) (blk : Nat) (v : W64) : (s.setSide blk v).maps.snap = s.maps.snap := rfl
@[simp] theorem State.setSide_maps_acct (s : State) (blk : Nat) (v : W64) : (s.setSide blk v).maps.acct = s.maps.acct := rfl
@[simp] theorem State.setSide_maps_cbk (s : State) (blk : Nat) (v : W64) : (s.setSide blk v).maps.cbk = s.maps.cbk := rfl
@[simp] theorem State.setSide_maps_ft (s : State) (blk : Nat) (v : W64) : (s.setSide blk v).maps.ft = s.maps.ft := rfl
@[simp] theorem State.setSide_maps_seeds (s : State) (blk : Nat) (v : W64) : (s.setSide blk v).maps.seeds = s.maps.seeds := rfl
@[simp] theorem State.setSide_maps_reuse (s : State) (blk : Nat) (v : W64) : (s.setSide blk v).maps.reuse = s.maps.reuse := rfl

/-! `hostWrite`. -/
@[simp] theorem State.hostWrite_pending (s : State) (a : Nat) (bs : List Byte) : (s.hostWrite a bs).pending = s.pending := rfl
@[simp] theorem State.hostWrite_free (s : State) (a : Nat) (bs : List Byte) : (s.hostWrite a bs).free = s.free := rfl
@[simp] theorem State.hostWrite_boot (s : State) (a : Nat) (bs : List Byte) : (s.hostWrite a bs).boot = s.boot := rfl
@[simp] theorem State.hostWrite_grade (s : State) (a : Nat) (bs : List Byte) : (s.hostWrite a bs).grade = s.grade := rfl
@[simp] theorem State.hostWrite_numVfs (s : State) (a : Nat) (bs : List Byte) : (s.hostWrite a bs).numVfs = s.numVfs := rfl
@[simp] theorem State.hostWrite_tickClk (s : State) (a : Nat) (bs : List Byte) : (s.hostWrite a bs).tickClk = s.tickClk := rfl
@[simp] theorem State.hostWrite_reading (s : State) (a : Nat) (bs : List Byte) : (s.hostWrite a bs).reading = s.reading := rfl
@[simp] theorem State.hostWrite_readNo (s : State) (a : Nat) (bs : List Byte) : (s.hostWrite a bs).readNo = s.readNo := rfl
@[simp] theorem State.hostWrite_readClk (s : State) (a : Nat) (bs : List Byte) : (s.hostWrite a bs).readClk = s.readClk := rfl
@[simp] theorem State.hostWrite_nextGid (s : State) (a : Nat) (bs : List Byte) : (s.hostWrite a bs).nextGid = s.nextGid := rfl
@[simp] theorem State.hostWrite_nextTid (s : State) (a : Nat) (bs : List Byte) : (s.hostWrite a bs).nextTid = s.nextTid := rfl
@[simp] theorem State.hostWrite_parts (s : State) (a : Nat) (bs : List Byte) : (s.hostWrite a bs).parts = s.parts := rfl
@[simp] theorem State.hostWrite_rings (s : State) (a : Nat) (bs : List Byte) : (s.hostWrite a bs).rings = s.rings := rfl
@[simp] theorem State.hostWrite_graphs (s : State) (a : Nat) (bs : List Byte) : (s.hostWrite a bs).graphs = s.graphs := rfl
@[simp] theorem State.hostWrite_tasks (s : State) (a : Nat) (bs : List Byte) : (s.hostWrite a bs).tasks = s.tasks := rfl
@[simp] theorem State.hostWrite_tenants (s : State) (a : Nat) (bs : List Byte) : (s.hostWrite a bs).tenants = s.tenants := rfl
@[simp] theorem State.hostWrite_flights (s : State) (a : Nat) (bs : List Byte) : (s.hostWrite a bs).flights = s.flights := rfl
@[simp] theorem State.hostWrite_engs (s : State) (a : Nat) (bs : List Byte) : (s.hostWrite a bs).engs = s.engs := rfl
@[simp] theorem State.hostWrite_migs (s : State) (a : Nat) (bs : List Byte) : (s.hostWrite a bs).migs = s.migs := rfl
@[simp] theorem State.hostWrite_frames (s : State) (a : Nat) (bs : List Byte) : (s.hostWrite a bs).frames = s.frames := rfl
@[simp] theorem State.hostWrite_badFrames (s : State) (a : Nat) (bs : List Byte) : (s.hostWrite a bs).badFrames = s.badFrames := rfl
@[simp] theorem State.hostWrite_sick (s : State) (a : Nat) (bs : List Byte) : (s.hostWrite a bs).sick = s.sick := rfl
@[simp] theorem State.hostWrite_hbmRows (s : State) (a : Nat) (bs : List Byte) : (s.hostWrite a bs).hbmRows = s.hbmRows := rfl
@[simp] theorem State.hostWrite_hbmPcs (s : State) (a : Nat) (bs : List Byte) : (s.hostWrite a bs).hbmPcs = s.hbmPcs := rfl
@[simp] theorem State.hostWrite_hbmDue (s : State) (a : Nat) (bs : List Byte) : (s.hostWrite a bs).hbmDue = s.hbmDue := rfl
@[simp] theorem State.hostWrite_hbmHold (s : State) (a : Nat) (bs : List Byte) : (s.hostWrite a bs).hbmHold = s.hbmHold := rfl
@[simp] theorem State.hostWrite_hbmWait (s : State) (a : Nat) (bs : List Byte) : (s.hostWrite a bs).hbmWait = s.hbmWait := rfl
@[simp] theorem State.hostWrite_entryWait (s : State) (a : Nat) (bs : List Byte) : (s.hostWrite a bs).entryWait = s.entryWait := rfl
@[simp] theorem State.hostWrite_hostSkips (s : State) (a : Nat) (bs : List Byte) : (s.hostWrite a bs).hostSkips = s.hostSkips := rfl
@[simp] theorem State.hostWrite_hbmSpare (s : State) (a : Nat) (bs : List Byte) : (s.hostWrite a bs).hbmSpare = s.hbmSpare := rfl
@[simp] theorem State.hostWrite_narrowDue (s : State) (a : Nat) (bs : List Byte) : (s.hostWrite a bs).narrowDue = s.narrowDue := rfl
@[simp] theorem State.hostWrite_shared (s : State) (a : Nat) (bs : List Byte) : (s.hostWrite a bs).shared = s.shared := rfl
@[simp] theorem State.hostWrite_touched (s : State) (a : Nat) (bs : List Byte) : (s.hostWrite a bs).touched = s.touched := rfl
@[simp] theorem State.hostWrite_touchedPrev (s : State) (a : Nat) (bs : List Byte) : (s.hostWrite a bs).touchedPrev = s.touchedPrev := rfl
@[simp] theorem State.hostWrite_lastDies (s : State) (a : Nat) (bs : List Byte) : (s.hostWrite a bs).lastDies = s.lastDies := rfl
@[simp] theorem State.hostWrite_moves (s : State) (a : Nat) (bs : List Byte) : (s.hostWrite a bs).moves = s.moves := rfl
@[simp] theorem State.hostWrite_kvRecs (s : State) (a : Nat) (bs : List Byte) : (s.hostWrite a bs).kvRecs = s.kvRecs := rfl
@[simp] theorem State.hostWrite_kvStuck (s : State) (a : Nat) (bs : List Byte) : (s.hostWrite a bs).kvStuck = s.kvStuck := rfl
@[simp] theorem State.hostWrite_kvFreed (s : State) (a : Nat) (bs : List Byte) : (s.hostWrite a bs).kvFreed = s.kvFreed := rfl
@[simp] theorem State.hostWrite_kvWait (s : State) (a : Nat) (bs : List Byte) : (s.hostWrite a bs).kvWait = s.kvWait := rfl
@[simp] theorem State.hostWrite_evicting (s : State) (a : Nat) (bs : List Byte) : (s.hostWrite a bs).evicting = s.evicting := rfl
@[simp] theorem State.hostWrite_reuseSlots (s : State) (a : Nat) (bs : List Byte) : (s.hostWrite a bs).reuseSlots = s.reuseSlots := rfl
@[simp] theorem State.hostWrite_slotsOn (s : State) (a : Nat) (bs : List Byte) : (s.hostWrite a bs).slotsOn = s.slotsOn := rfl
@[simp] theorem State.hostWrite_sb (s : State) (a : Nat) (bs : List Byte) : (s.hostWrite a bs).sb = s.sb := rfl
@[simp] theorem State.hostWrite_starts (s : State) (a : Nat) (bs : List Byte) : (s.hostWrite a bs).starts = s.starts := rfl
@[simp] theorem State.hostWrite_startMsgs (s : State) (a : Nat) (bs : List Byte) : (s.hostWrite a bs).startMsgs = s.startMsgs := rfl
@[simp] theorem State.hostWrite_gcAcquired (s : State) (a : Nat) (bs : List Byte) : (s.hostWrite a bs).gcAcquired = s.gcAcquired := rfl
@[simp] theorem State.hostWrite_gcOffset (s : State) (a : Nat) (bs : List Byte) : (s.hostWrite a bs).gcOffset = s.gcOffset := rfl
@[simp] theorem State.hostWrite_gcAhead (s : State) (a : Nat) (bs : List Byte) : (s.hostWrite a bs).gcAhead = s.gcAhead := rfl
@[simp] theorem State.hostWrite_fsync (s : State) (a : Nat) (bs : List Byte) : (s.hostWrite a bs).fsync = s.fsync := rfl
@[simp] theorem State.hostWrite_ports (s : State) (a : Nat) (bs : List Byte) : (s.hostWrite a bs).ports = s.ports := rfl
@[simp] theorem State.hostWrite_routes (s : State) (a : Nat) (bs : List Byte) : (s.hostWrite a bs).routes = s.routes := rfl
@[simp] theorem State.hostWrite_colls (s : State) (a : Nat) (bs : List Byte) : (s.hostWrite a bs).colls = s.colls := rfl
@[simp] theorem State.hostWrite_rounds (s : State) (a : Nat) (bs : List Byte) : (s.hostWrite a bs).rounds = s.rounds := rfl
@[simp] theorem State.hostWrite_sessions (s : State) (a : Nat) (bs : List Byte) : (s.hostWrite a bs).sessions = s.sessions := rfl
@[simp] theorem State.hostWrite_coreErrs (s : State) (a : Nat) (bs : List Byte) : (s.hostWrite a bs).coreErrs = s.coreErrs := rfl
@[simp] theorem State.hostWrite_ctxCmds (s : State) (a : Nat) (bs : List Byte) : (s.hostWrite a bs).ctxCmds = s.ctxCmds := rfl
@[simp] theorem State.hostWrite_ctxSlots (s : State) (a : Nat) (bs : List Byte) : (s.hostWrite a bs).ctxSlots = s.ctxSlots := rfl
@[simp] theorem State.hostWrite_hostImages (s : State) (a : Nat) (bs : List Byte) : (s.hostWrite a bs).hostImages = s.hostImages := rfl
@[simp] theorem State.hostWrite_fuses (s : State) (a : Nat) (bs : List Byte) : (s.hostWrite a bs).fuses = s.fuses := rfl
@[simp] theorem State.hostWrite_fusedOff (s : State) (a : Nat) (bs : List Byte) : (s.hostWrite a bs).fusedOff = s.fusedOff := rfl
@[simp] theorem State.hostWrite_disMap (s : State) (a : Nat) (bs : List Byte) : (s.hostWrite a bs).disMap = s.disMap := rfl
@[simp] theorem State.hostWrite_fwMarks (s : State) (a : Nat) (bs : List Byte) : (s.hostWrite a bs).fwMarks = s.fwMarks := rfl
@[simp] theorem State.hostWrite_formMarks (s : State) (a : Nat) (bs : List Byte) : (s.hostWrite a bs).formMarks = s.formMarks := rfl
@[simp] theorem State.hostWrite_sec (s : State) (a : Nat) (bs : List Byte) : (s.hostWrite a bs).sec = s.sec := rfl
@[simp] theorem State.hostWrite_loading (s : State) (a : Nat) (bs : List Byte) : (s.hostWrite a bs).loading = s.loading := rfl
@[simp] theorem State.hostWrite_dying (s : State) (a : Nat) (bs : List Byte) : (s.hostWrite a bs).dying = s.dying := rfl
@[simp] theorem State.hostWrite_removal (s : State) (a : Nat) (bs : List Byte) : (s.hostWrite a bs).removal = s.removal := rfl
@[simp] theorem State.hostWrite_mapMeas (s : State) (a : Nat) (bs : List Byte) : (s.hostWrite a bs).mapMeas = s.mapMeas := rfl
@[simp] theorem State.hostWrite_debugClk (s : State) (a : Nat) (bs : List Byte) : (s.hostWrite a bs).debugClk = s.debugClk := rfl
@[simp] theorem State.hostWrite_pwren (s : State) (a : Nat) (bs : List Byte) : (s.hostWrite a bs).pwren = s.pwren := rfl
@[simp] theorem State.hostWrite_supply (s : State) (a : Nat) (bs : List Byte) : (s.hostWrite a bs).supply = s.supply := rfl
@[simp] theorem State.hostWrite_smbus (s : State) (a : Nat) (bs : List Byte) : (s.hostWrite a bs).smbus = s.smbus := rfl
@[simp] theorem State.hostWrite_powerHold (s : State) (a : Nat) (bs : List Byte) : (s.hostWrite a bs).powerHold = s.powerHold := rfl
@[simp] theorem State.hostWrite_tripped (s : State) (a : Nat) (bs : List Byte) : (s.hostWrite a bs).tripped = s.tripped := rfl
@[simp] theorem State.hostWrite_tgSeeds (s : State) (a : Nat) (bs : List Byte) : (s.hostWrite a bs).tgSeeds = s.tgSeeds := rfl
@[simp] theorem State.hostWrite_warm (s : State) (a : Nat) (bs : List Byte) : (s.hostWrite a bs).warm = s.warm := rfl
@[simp] theorem State.hostWrite_tgStops (s : State) (a : Nat) (bs : List Byte) : (s.hostWrite a bs).tgStops = s.tgStops := rfl
@[simp] theorem State.hostWrite_holding (s : State) (a : Nat) (bs : List Byte) : (s.hostWrite a bs).holding = s.holding := rfl
@[simp] theorem State.hostWrite_diag (s : State) (a : Nat) (bs : List Byte) : (s.hostWrite a bs).diag = s.diag := rfl
@[simp] theorem State.hostWrite_outs (s : State) (a : Nat) (bs : List Byte) : (s.hostWrite a bs).outs = s.outs := rfl
@[simp] theorem State.hostWrite_maps_dev (s : State) (a : Nat) (bs : List Byte) : (s.hostWrite a bs).maps.dev = s.maps.dev := rfl
@[simp] theorem State.hostWrite_maps_flash (s : State) (a : Nat) (bs : List Byte) : (s.hostWrite a bs).maps.flash = s.maps.flash := rfl
@[simp] theorem State.hostWrite_maps_rt (s : State) (a : Nat) (bs : List Byte) : (s.hostWrite a bs).maps.rt = s.maps.rt := rfl
@[simp] theorem State.hostWrite_maps_side (s : State) (a : Nat) (bs : List Byte) : (s.hostWrite a bs).maps.side = s.maps.side := rfl
@[simp] theorem State.hostWrite_maps_reg (s : State) (a : Nat) (bs : List Byte) : (s.hostWrite a bs).maps.reg = s.maps.reg := rfl
@[simp] theorem State.hostWrite_maps_ctr (s : State) (a : Nat) (bs : List Byte) : (s.hostWrite a bs).maps.ctr = s.maps.ctr := rfl
@[simp] theorem State.hostWrite_maps_snap (s : State) (a : Nat) (bs : List Byte) : (s.hostWrite a bs).maps.snap = s.maps.snap := rfl
@[simp] theorem State.hostWrite_maps_acct (s : State) (a : Nat) (bs : List Byte) : (s.hostWrite a bs).maps.acct = s.maps.acct := rfl
@[simp] theorem State.hostWrite_maps_cbk (s : State) (a : Nat) (bs : List Byte) : (s.hostWrite a bs).maps.cbk = s.maps.cbk := rfl
@[simp] theorem State.hostWrite_maps_ft (s : State) (a : Nat) (bs : List Byte) : (s.hostWrite a bs).maps.ft = s.maps.ft := rfl
@[simp] theorem State.hostWrite_maps_seeds (s : State) (a : Nat) (bs : List Byte) : (s.hostWrite a bs).maps.seeds = s.maps.seeds := rfl
@[simp] theorem State.hostWrite_maps_reuse (s : State) (a : Nat) (bs : List Byte) : (s.hostWrite a bs).maps.reuse = s.maps.reuse := rfl

/-! `hostStores`. -/
@[simp] theorem State.hostStores_pending (s : State) (w : List HostStore) : (s.hostStores w).pending = s.pending := rfl
@[simp] theorem State.hostStores_free (s : State) (w : List HostStore) : (s.hostStores w).free = s.free := rfl
@[simp] theorem State.hostStores_boot (s : State) (w : List HostStore) : (s.hostStores w).boot = s.boot := rfl
@[simp] theorem State.hostStores_grade (s : State) (w : List HostStore) : (s.hostStores w).grade = s.grade := rfl
@[simp] theorem State.hostStores_numVfs (s : State) (w : List HostStore) : (s.hostStores w).numVfs = s.numVfs := rfl
@[simp] theorem State.hostStores_tickClk (s : State) (w : List HostStore) : (s.hostStores w).tickClk = s.tickClk := rfl
@[simp] theorem State.hostStores_reading (s : State) (w : List HostStore) : (s.hostStores w).reading = s.reading := rfl
@[simp] theorem State.hostStores_readNo (s : State) (w : List HostStore) : (s.hostStores w).readNo = s.readNo := rfl
@[simp] theorem State.hostStores_readClk (s : State) (w : List HostStore) : (s.hostStores w).readClk = s.readClk := rfl
@[simp] theorem State.hostStores_nextGid (s : State) (w : List HostStore) : (s.hostStores w).nextGid = s.nextGid := rfl
@[simp] theorem State.hostStores_nextTid (s : State) (w : List HostStore) : (s.hostStores w).nextTid = s.nextTid := rfl
@[simp] theorem State.hostStores_parts (s : State) (w : List HostStore) : (s.hostStores w).parts = s.parts := rfl
@[simp] theorem State.hostStores_rings (s : State) (w : List HostStore) : (s.hostStores w).rings = s.rings := rfl
@[simp] theorem State.hostStores_graphs (s : State) (w : List HostStore) : (s.hostStores w).graphs = s.graphs := rfl
@[simp] theorem State.hostStores_tasks (s : State) (w : List HostStore) : (s.hostStores w).tasks = s.tasks := rfl
@[simp] theorem State.hostStores_tenants (s : State) (w : List HostStore) : (s.hostStores w).tenants = s.tenants := rfl
@[simp] theorem State.hostStores_flights (s : State) (w : List HostStore) : (s.hostStores w).flights = s.flights := rfl
@[simp] theorem State.hostStores_engs (s : State) (w : List HostStore) : (s.hostStores w).engs = s.engs := rfl
@[simp] theorem State.hostStores_migs (s : State) (w : List HostStore) : (s.hostStores w).migs = s.migs := rfl
@[simp] theorem State.hostStores_frames (s : State) (w : List HostStore) : (s.hostStores w).frames = s.frames := rfl
@[simp] theorem State.hostStores_badFrames (s : State) (w : List HostStore) : (s.hostStores w).badFrames = s.badFrames := rfl
@[simp] theorem State.hostStores_sick (s : State) (w : List HostStore) : (s.hostStores w).sick = s.sick := rfl
@[simp] theorem State.hostStores_hbmRows (s : State) (w : List HostStore) : (s.hostStores w).hbmRows = s.hbmRows := rfl
@[simp] theorem State.hostStores_hbmPcs (s : State) (w : List HostStore) : (s.hostStores w).hbmPcs = s.hbmPcs := rfl
@[simp] theorem State.hostStores_hbmDue (s : State) (w : List HostStore) : (s.hostStores w).hbmDue = s.hbmDue := rfl
@[simp] theorem State.hostStores_hbmHold (s : State) (w : List HostStore) : (s.hostStores w).hbmHold = s.hbmHold := rfl
@[simp] theorem State.hostStores_hbmWait (s : State) (w : List HostStore) : (s.hostStores w).hbmWait = s.hbmWait := rfl
@[simp] theorem State.hostStores_entryWait (s : State) (w : List HostStore) : (s.hostStores w).entryWait = s.entryWait := rfl
@[simp] theorem State.hostStores_hostSkips (s : State) (w : List HostStore) : (s.hostStores w).hostSkips = s.hostSkips := rfl
@[simp] theorem State.hostStores_hbmSpare (s : State) (w : List HostStore) : (s.hostStores w).hbmSpare = s.hbmSpare := rfl
@[simp] theorem State.hostStores_narrowDue (s : State) (w : List HostStore) : (s.hostStores w).narrowDue = s.narrowDue := rfl
@[simp] theorem State.hostStores_shared (s : State) (w : List HostStore) : (s.hostStores w).shared = s.shared := rfl
@[simp] theorem State.hostStores_touched (s : State) (w : List HostStore) : (s.hostStores w).touched = s.touched := rfl
@[simp] theorem State.hostStores_touchedPrev (s : State) (w : List HostStore) : (s.hostStores w).touchedPrev = s.touchedPrev := rfl
@[simp] theorem State.hostStores_lastDies (s : State) (w : List HostStore) : (s.hostStores w).lastDies = s.lastDies := rfl
@[simp] theorem State.hostStores_moves (s : State) (w : List HostStore) : (s.hostStores w).moves = s.moves := rfl
@[simp] theorem State.hostStores_kvRecs (s : State) (w : List HostStore) : (s.hostStores w).kvRecs = s.kvRecs := rfl
@[simp] theorem State.hostStores_kvStuck (s : State) (w : List HostStore) : (s.hostStores w).kvStuck = s.kvStuck := rfl
@[simp] theorem State.hostStores_kvFreed (s : State) (w : List HostStore) : (s.hostStores w).kvFreed = s.kvFreed := rfl
@[simp] theorem State.hostStores_kvWait (s : State) (w : List HostStore) : (s.hostStores w).kvWait = s.kvWait := rfl
@[simp] theorem State.hostStores_evicting (s : State) (w : List HostStore) : (s.hostStores w).evicting = s.evicting := rfl
@[simp] theorem State.hostStores_reuseSlots (s : State) (w : List HostStore) : (s.hostStores w).reuseSlots = s.reuseSlots := rfl
@[simp] theorem State.hostStores_slotsOn (s : State) (w : List HostStore) : (s.hostStores w).slotsOn = s.slotsOn := rfl
@[simp] theorem State.hostStores_sb (s : State) (w : List HostStore) : (s.hostStores w).sb = s.sb := rfl
@[simp] theorem State.hostStores_starts (s : State) (w : List HostStore) : (s.hostStores w).starts = s.starts := rfl
@[simp] theorem State.hostStores_startMsgs (s : State) (w : List HostStore) : (s.hostStores w).startMsgs = s.startMsgs := rfl
@[simp] theorem State.hostStores_gcAcquired (s : State) (w : List HostStore) : (s.hostStores w).gcAcquired = s.gcAcquired := rfl
@[simp] theorem State.hostStores_gcOffset (s : State) (w : List HostStore) : (s.hostStores w).gcOffset = s.gcOffset := rfl
@[simp] theorem State.hostStores_gcAhead (s : State) (w : List HostStore) : (s.hostStores w).gcAhead = s.gcAhead := rfl
@[simp] theorem State.hostStores_fsync (s : State) (w : List HostStore) : (s.hostStores w).fsync = s.fsync := rfl
@[simp] theorem State.hostStores_ports (s : State) (w : List HostStore) : (s.hostStores w).ports = s.ports := rfl
@[simp] theorem State.hostStores_routes (s : State) (w : List HostStore) : (s.hostStores w).routes = s.routes := rfl
@[simp] theorem State.hostStores_colls (s : State) (w : List HostStore) : (s.hostStores w).colls = s.colls := rfl
@[simp] theorem State.hostStores_rounds (s : State) (w : List HostStore) : (s.hostStores w).rounds = s.rounds := rfl
@[simp] theorem State.hostStores_sessions (s : State) (w : List HostStore) : (s.hostStores w).sessions = s.sessions := rfl
@[simp] theorem State.hostStores_coreErrs (s : State) (w : List HostStore) : (s.hostStores w).coreErrs = s.coreErrs := rfl
@[simp] theorem State.hostStores_ctxCmds (s : State) (w : List HostStore) : (s.hostStores w).ctxCmds = s.ctxCmds := rfl
@[simp] theorem State.hostStores_ctxSlots (s : State) (w : List HostStore) : (s.hostStores w).ctxSlots = s.ctxSlots := rfl
@[simp] theorem State.hostStores_hostImages (s : State) (w : List HostStore) : (s.hostStores w).hostImages = s.hostImages := rfl
@[simp] theorem State.hostStores_fuses (s : State) (w : List HostStore) : (s.hostStores w).fuses = s.fuses := rfl
@[simp] theorem State.hostStores_fusedOff (s : State) (w : List HostStore) : (s.hostStores w).fusedOff = s.fusedOff := rfl
@[simp] theorem State.hostStores_disMap (s : State) (w : List HostStore) : (s.hostStores w).disMap = s.disMap := rfl
@[simp] theorem State.hostStores_fwMarks (s : State) (w : List HostStore) : (s.hostStores w).fwMarks = s.fwMarks := rfl
@[simp] theorem State.hostStores_formMarks (s : State) (w : List HostStore) : (s.hostStores w).formMarks = s.formMarks := rfl
@[simp] theorem State.hostStores_sec (s : State) (w : List HostStore) : (s.hostStores w).sec = s.sec := rfl
@[simp] theorem State.hostStores_loading (s : State) (w : List HostStore) : (s.hostStores w).loading = s.loading := rfl
@[simp] theorem State.hostStores_dying (s : State) (w : List HostStore) : (s.hostStores w).dying = s.dying := rfl
@[simp] theorem State.hostStores_removal (s : State) (w : List HostStore) : (s.hostStores w).removal = s.removal := rfl
@[simp] theorem State.hostStores_mapMeas (s : State) (w : List HostStore) : (s.hostStores w).mapMeas = s.mapMeas := rfl
@[simp] theorem State.hostStores_debugClk (s : State) (w : List HostStore) : (s.hostStores w).debugClk = s.debugClk := rfl
@[simp] theorem State.hostStores_pwren (s : State) (w : List HostStore) : (s.hostStores w).pwren = s.pwren := rfl
@[simp] theorem State.hostStores_supply (s : State) (w : List HostStore) : (s.hostStores w).supply = s.supply := rfl
@[simp] theorem State.hostStores_smbus (s : State) (w : List HostStore) : (s.hostStores w).smbus = s.smbus := rfl
@[simp] theorem State.hostStores_powerHold (s : State) (w : List HostStore) : (s.hostStores w).powerHold = s.powerHold := rfl
@[simp] theorem State.hostStores_tripped (s : State) (w : List HostStore) : (s.hostStores w).tripped = s.tripped := rfl
@[simp] theorem State.hostStores_tgSeeds (s : State) (w : List HostStore) : (s.hostStores w).tgSeeds = s.tgSeeds := rfl
@[simp] theorem State.hostStores_warm (s : State) (w : List HostStore) : (s.hostStores w).warm = s.warm := rfl
@[simp] theorem State.hostStores_tgStops (s : State) (w : List HostStore) : (s.hostStores w).tgStops = s.tgStops := rfl
@[simp] theorem State.hostStores_holding (s : State) (w : List HostStore) : (s.hostStores w).holding = s.holding := rfl
@[simp] theorem State.hostStores_diag (s : State) (w : List HostStore) : (s.hostStores w).diag = s.diag := rfl
@[simp] theorem State.hostStores_outs (s : State) (w : List HostStore) : (s.hostStores w).outs = s.outs := rfl
@[simp] theorem State.hostStores_maps_dev (s : State) (w : List HostStore) : (s.hostStores w).maps.dev = s.maps.dev := rfl
@[simp] theorem State.hostStores_maps_flash (s : State) (w : List HostStore) : (s.hostStores w).maps.flash = s.maps.flash := rfl
@[simp] theorem State.hostStores_maps_rt (s : State) (w : List HostStore) : (s.hostStores w).maps.rt = s.maps.rt := rfl
@[simp] theorem State.hostStores_maps_side (s : State) (w : List HostStore) : (s.hostStores w).maps.side = s.maps.side := rfl
@[simp] theorem State.hostStores_maps_reg (s : State) (w : List HostStore) : (s.hostStores w).maps.reg = s.maps.reg := rfl
@[simp] theorem State.hostStores_maps_ctr (s : State) (w : List HostStore) : (s.hostStores w).maps.ctr = s.maps.ctr := rfl
@[simp] theorem State.hostStores_maps_snap (s : State) (w : List HostStore) : (s.hostStores w).maps.snap = s.maps.snap := rfl
@[simp] theorem State.hostStores_maps_acct (s : State) (w : List HostStore) : (s.hostStores w).maps.acct = s.maps.acct := rfl
@[simp] theorem State.hostStores_maps_cbk (s : State) (w : List HostStore) : (s.hostStores w).maps.cbk = s.maps.cbk := rfl
@[simp] theorem State.hostStores_maps_ft (s : State) (w : List HostStore) : (s.hostStores w).maps.ft = s.maps.ft := rfl
@[simp] theorem State.hostStores_maps_seeds (s : State) (w : List HostStore) : (s.hostStores w).maps.seeds = s.maps.seeds := rfl
@[simp] theorem State.hostStores_maps_reuse (s : State) (w : List HostStore) : (s.hostStores w).maps.reuse = s.maps.reuse := rfl

/-! `tell`. -/
@[simp] theorem State.tell_pending (s : State) (o : Out) : (s.tell o).pending = s.pending := rfl
@[simp] theorem State.tell_maps (s : State) (o : Out) : (s.tell o).maps = s.maps := rfl
@[simp] theorem State.tell_free (s : State) (o : Out) : (s.tell o).free = s.free := rfl
@[simp] theorem State.tell_boot (s : State) (o : Out) : (s.tell o).boot = s.boot := rfl
@[simp] theorem State.tell_grade (s : State) (o : Out) : (s.tell o).grade = s.grade := rfl
@[simp] theorem State.tell_numVfs (s : State) (o : Out) : (s.tell o).numVfs = s.numVfs := rfl
@[simp] theorem State.tell_tickClk (s : State) (o : Out) : (s.tell o).tickClk = s.tickClk := rfl
@[simp] theorem State.tell_reading (s : State) (o : Out) : (s.tell o).reading = s.reading := rfl
@[simp] theorem State.tell_readNo (s : State) (o : Out) : (s.tell o).readNo = s.readNo := rfl
@[simp] theorem State.tell_readClk (s : State) (o : Out) : (s.tell o).readClk = s.readClk := rfl
@[simp] theorem State.tell_nextGid (s : State) (o : Out) : (s.tell o).nextGid = s.nextGid := rfl
@[simp] theorem State.tell_nextTid (s : State) (o : Out) : (s.tell o).nextTid = s.nextTid := rfl
@[simp] theorem State.tell_parts (s : State) (o : Out) : (s.tell o).parts = s.parts := rfl
@[simp] theorem State.tell_rings (s : State) (o : Out) : (s.tell o).rings = s.rings := rfl
@[simp] theorem State.tell_graphs (s : State) (o : Out) : (s.tell o).graphs = s.graphs := rfl
@[simp] theorem State.tell_tasks (s : State) (o : Out) : (s.tell o).tasks = s.tasks := rfl
@[simp] theorem State.tell_tenants (s : State) (o : Out) : (s.tell o).tenants = s.tenants := rfl
@[simp] theorem State.tell_flights (s : State) (o : Out) : (s.tell o).flights = s.flights := rfl
@[simp] theorem State.tell_engs (s : State) (o : Out) : (s.tell o).engs = s.engs := rfl
@[simp] theorem State.tell_migs (s : State) (o : Out) : (s.tell o).migs = s.migs := rfl
@[simp] theorem State.tell_frames (s : State) (o : Out) : (s.tell o).frames = s.frames := rfl
@[simp] theorem State.tell_badFrames (s : State) (o : Out) : (s.tell o).badFrames = s.badFrames := rfl
@[simp] theorem State.tell_sick (s : State) (o : Out) : (s.tell o).sick = s.sick := rfl
@[simp] theorem State.tell_hbmRows (s : State) (o : Out) : (s.tell o).hbmRows = s.hbmRows := rfl
@[simp] theorem State.tell_hbmPcs (s : State) (o : Out) : (s.tell o).hbmPcs = s.hbmPcs := rfl
@[simp] theorem State.tell_hbmDue (s : State) (o : Out) : (s.tell o).hbmDue = s.hbmDue := rfl
@[simp] theorem State.tell_hbmHold (s : State) (o : Out) : (s.tell o).hbmHold = s.hbmHold := rfl
@[simp] theorem State.tell_hbmWait (s : State) (o : Out) : (s.tell o).hbmWait = s.hbmWait := rfl
@[simp] theorem State.tell_entryWait (s : State) (o : Out) : (s.tell o).entryWait = s.entryWait := rfl
@[simp] theorem State.tell_hostSkips (s : State) (o : Out) : (s.tell o).hostSkips = s.hostSkips := rfl
@[simp] theorem State.tell_hbmSpare (s : State) (o : Out) : (s.tell o).hbmSpare = s.hbmSpare := rfl
@[simp] theorem State.tell_narrowDue (s : State) (o : Out) : (s.tell o).narrowDue = s.narrowDue := rfl
@[simp] theorem State.tell_shared (s : State) (o : Out) : (s.tell o).shared = s.shared := rfl
@[simp] theorem State.tell_touched (s : State) (o : Out) : (s.tell o).touched = s.touched := rfl
@[simp] theorem State.tell_touchedPrev (s : State) (o : Out) : (s.tell o).touchedPrev = s.touchedPrev := rfl
@[simp] theorem State.tell_lastDies (s : State) (o : Out) : (s.tell o).lastDies = s.lastDies := rfl
@[simp] theorem State.tell_moves (s : State) (o : Out) : (s.tell o).moves = s.moves := rfl
@[simp] theorem State.tell_kvRecs (s : State) (o : Out) : (s.tell o).kvRecs = s.kvRecs := rfl
@[simp] theorem State.tell_kvStuck (s : State) (o : Out) : (s.tell o).kvStuck = s.kvStuck := rfl
@[simp] theorem State.tell_kvFreed (s : State) (o : Out) : (s.tell o).kvFreed = s.kvFreed := rfl
@[simp] theorem State.tell_kvWait (s : State) (o : Out) : (s.tell o).kvWait = s.kvWait := rfl
@[simp] theorem State.tell_evicting (s : State) (o : Out) : (s.tell o).evicting = s.evicting := rfl
@[simp] theorem State.tell_reuseSlots (s : State) (o : Out) : (s.tell o).reuseSlots = s.reuseSlots := rfl
@[simp] theorem State.tell_slotsOn (s : State) (o : Out) : (s.tell o).slotsOn = s.slotsOn := rfl
@[simp] theorem State.tell_sb (s : State) (o : Out) : (s.tell o).sb = s.sb := rfl
@[simp] theorem State.tell_starts (s : State) (o : Out) : (s.tell o).starts = s.starts := rfl
@[simp] theorem State.tell_startMsgs (s : State) (o : Out) : (s.tell o).startMsgs = s.startMsgs := rfl
@[simp] theorem State.tell_gcAcquired (s : State) (o : Out) : (s.tell o).gcAcquired = s.gcAcquired := rfl
@[simp] theorem State.tell_gcOffset (s : State) (o : Out) : (s.tell o).gcOffset = s.gcOffset := rfl
@[simp] theorem State.tell_gcAhead (s : State) (o : Out) : (s.tell o).gcAhead = s.gcAhead := rfl
@[simp] theorem State.tell_fsync (s : State) (o : Out) : (s.tell o).fsync = s.fsync := rfl
@[simp] theorem State.tell_ports (s : State) (o : Out) : (s.tell o).ports = s.ports := rfl
@[simp] theorem State.tell_routes (s : State) (o : Out) : (s.tell o).routes = s.routes := rfl
@[simp] theorem State.tell_colls (s : State) (o : Out) : (s.tell o).colls = s.colls := rfl
@[simp] theorem State.tell_rounds (s : State) (o : Out) : (s.tell o).rounds = s.rounds := rfl
@[simp] theorem State.tell_sessions (s : State) (o : Out) : (s.tell o).sessions = s.sessions := rfl
@[simp] theorem State.tell_coreErrs (s : State) (o : Out) : (s.tell o).coreErrs = s.coreErrs := rfl
@[simp] theorem State.tell_ctxCmds (s : State) (o : Out) : (s.tell o).ctxCmds = s.ctxCmds := rfl
@[simp] theorem State.tell_ctxSlots (s : State) (o : Out) : (s.tell o).ctxSlots = s.ctxSlots := rfl
@[simp] theorem State.tell_hostImages (s : State) (o : Out) : (s.tell o).hostImages = s.hostImages := rfl
@[simp] theorem State.tell_fuses (s : State) (o : Out) : (s.tell o).fuses = s.fuses := rfl
@[simp] theorem State.tell_fusedOff (s : State) (o : Out) : (s.tell o).fusedOff = s.fusedOff := rfl
@[simp] theorem State.tell_disMap (s : State) (o : Out) : (s.tell o).disMap = s.disMap := rfl
@[simp] theorem State.tell_fwMarks (s : State) (o : Out) : (s.tell o).fwMarks = s.fwMarks := rfl
@[simp] theorem State.tell_formMarks (s : State) (o : Out) : (s.tell o).formMarks = s.formMarks := rfl
@[simp] theorem State.tell_sec (s : State) (o : Out) : (s.tell o).sec = s.sec := rfl
@[simp] theorem State.tell_loading (s : State) (o : Out) : (s.tell o).loading = s.loading := rfl
@[simp] theorem State.tell_dying (s : State) (o : Out) : (s.tell o).dying = s.dying := rfl
@[simp] theorem State.tell_removal (s : State) (o : Out) : (s.tell o).removal = s.removal := rfl
@[simp] theorem State.tell_mapMeas (s : State) (o : Out) : (s.tell o).mapMeas = s.mapMeas := rfl
@[simp] theorem State.tell_debugClk (s : State) (o : Out) : (s.tell o).debugClk = s.debugClk := rfl
@[simp] theorem State.tell_pwren (s : State) (o : Out) : (s.tell o).pwren = s.pwren := rfl
@[simp] theorem State.tell_supply (s : State) (o : Out) : (s.tell o).supply = s.supply := rfl
@[simp] theorem State.tell_smbus (s : State) (o : Out) : (s.tell o).smbus = s.smbus := rfl
@[simp] theorem State.tell_powerHold (s : State) (o : Out) : (s.tell o).powerHold = s.powerHold := rfl
@[simp] theorem State.tell_tripped (s : State) (o : Out) : (s.tell o).tripped = s.tripped := rfl
@[simp] theorem State.tell_tgSeeds (s : State) (o : Out) : (s.tell o).tgSeeds = s.tgSeeds := rfl
@[simp] theorem State.tell_warm (s : State) (o : Out) : (s.tell o).warm = s.warm := rfl
@[simp] theorem State.tell_tgStops (s : State) (o : Out) : (s.tell o).tgStops = s.tgStops := rfl
@[simp] theorem State.tell_holding (s : State) (o : Out) : (s.tell o).holding = s.holding := rfl
@[simp] theorem State.tell_diag (s : State) (o : Out) : (s.tell o).diag = s.diag := rfl

/-! `spend`. -/
@[simp] theorem State.spend_pending (s : State)  : s.spend.pending = s.pending := rfl
@[simp] theorem State.spend_maps (s : State)  : s.spend.maps = s.maps := rfl
@[simp] theorem State.spend_boot (s : State)  : s.spend.boot = s.boot := rfl
@[simp] theorem State.spend_grade (s : State)  : s.spend.grade = s.grade := rfl
@[simp] theorem State.spend_numVfs (s : State)  : s.spend.numVfs = s.numVfs := rfl
@[simp] theorem State.spend_tickClk (s : State)  : s.spend.tickClk = s.tickClk := rfl
@[simp] theorem State.spend_reading (s : State)  : s.spend.reading = s.reading := rfl
@[simp] theorem State.spend_readNo (s : State)  : s.spend.readNo = s.readNo := rfl
@[simp] theorem State.spend_readClk (s : State)  : s.spend.readClk = s.readClk := rfl
@[simp] theorem State.spend_nextGid (s : State)  : s.spend.nextGid = s.nextGid := rfl
@[simp] theorem State.spend_nextTid (s : State)  : s.spend.nextTid = s.nextTid := rfl
@[simp] theorem State.spend_parts (s : State)  : s.spend.parts = s.parts := rfl
@[simp] theorem State.spend_rings (s : State)  : s.spend.rings = s.rings := rfl
@[simp] theorem State.spend_graphs (s : State)  : s.spend.graphs = s.graphs := rfl
@[simp] theorem State.spend_tasks (s : State)  : s.spend.tasks = s.tasks := rfl
@[simp] theorem State.spend_tenants (s : State)  : s.spend.tenants = s.tenants := rfl
@[simp] theorem State.spend_flights (s : State)  : s.spend.flights = s.flights := rfl
@[simp] theorem State.spend_engs (s : State)  : s.spend.engs = s.engs := rfl
@[simp] theorem State.spend_migs (s : State)  : s.spend.migs = s.migs := rfl
@[simp] theorem State.spend_frames (s : State)  : s.spend.frames = s.frames := rfl
@[simp] theorem State.spend_badFrames (s : State)  : s.spend.badFrames = s.badFrames := rfl
@[simp] theorem State.spend_sick (s : State)  : s.spend.sick = s.sick := rfl
@[simp] theorem State.spend_hbmRows (s : State)  : s.spend.hbmRows = s.hbmRows := rfl
@[simp] theorem State.spend_hbmPcs (s : State)  : s.spend.hbmPcs = s.hbmPcs := rfl
@[simp] theorem State.spend_hbmDue (s : State)  : s.spend.hbmDue = s.hbmDue := rfl
@[simp] theorem State.spend_hbmHold (s : State)  : s.spend.hbmHold = s.hbmHold := rfl
@[simp] theorem State.spend_hbmWait (s : State)  : s.spend.hbmWait = s.hbmWait := rfl
@[simp] theorem State.spend_entryWait (s : State)  : s.spend.entryWait = s.entryWait := rfl
@[simp] theorem State.spend_hostSkips (s : State)  : s.spend.hostSkips = s.hostSkips := rfl
@[simp] theorem State.spend_hbmSpare (s : State)  : s.spend.hbmSpare = s.hbmSpare := rfl
@[simp] theorem State.spend_narrowDue (s : State)  : s.spend.narrowDue = s.narrowDue := rfl
@[simp] theorem State.spend_shared (s : State)  : s.spend.shared = s.shared := rfl
@[simp] theorem State.spend_touched (s : State)  : s.spend.touched = s.touched := rfl
@[simp] theorem State.spend_touchedPrev (s : State)  : s.spend.touchedPrev = s.touchedPrev := rfl
@[simp] theorem State.spend_lastDies (s : State)  : s.spend.lastDies = s.lastDies := rfl
@[simp] theorem State.spend_moves (s : State)  : s.spend.moves = s.moves := rfl
@[simp] theorem State.spend_kvRecs (s : State)  : s.spend.kvRecs = s.kvRecs := rfl
@[simp] theorem State.spend_kvStuck (s : State)  : s.spend.kvStuck = s.kvStuck := rfl
@[simp] theorem State.spend_kvFreed (s : State)  : s.spend.kvFreed = s.kvFreed := rfl
@[simp] theorem State.spend_kvWait (s : State)  : s.spend.kvWait = s.kvWait := rfl
@[simp] theorem State.spend_evicting (s : State)  : s.spend.evicting = s.evicting := rfl
@[simp] theorem State.spend_reuseSlots (s : State)  : s.spend.reuseSlots = s.reuseSlots := rfl
@[simp] theorem State.spend_slotsOn (s : State)  : s.spend.slotsOn = s.slotsOn := rfl
@[simp] theorem State.spend_sb (s : State)  : s.spend.sb = s.sb := rfl
@[simp] theorem State.spend_starts (s : State)  : s.spend.starts = s.starts := rfl
@[simp] theorem State.spend_startMsgs (s : State)  : s.spend.startMsgs = s.startMsgs := rfl
@[simp] theorem State.spend_gcAcquired (s : State)  : s.spend.gcAcquired = s.gcAcquired := rfl
@[simp] theorem State.spend_gcOffset (s : State)  : s.spend.gcOffset = s.gcOffset := rfl
@[simp] theorem State.spend_gcAhead (s : State)  : s.spend.gcAhead = s.gcAhead := rfl
@[simp] theorem State.spend_fsync (s : State)  : s.spend.fsync = s.fsync := rfl
@[simp] theorem State.spend_ports (s : State)  : s.spend.ports = s.ports := rfl
@[simp] theorem State.spend_routes (s : State)  : s.spend.routes = s.routes := rfl
@[simp] theorem State.spend_colls (s : State)  : s.spend.colls = s.colls := rfl
@[simp] theorem State.spend_rounds (s : State)  : s.spend.rounds = s.rounds := rfl
@[simp] theorem State.spend_sessions (s : State)  : s.spend.sessions = s.sessions := rfl
@[simp] theorem State.spend_coreErrs (s : State)  : s.spend.coreErrs = s.coreErrs := rfl
@[simp] theorem State.spend_ctxCmds (s : State)  : s.spend.ctxCmds = s.ctxCmds := rfl
@[simp] theorem State.spend_ctxSlots (s : State)  : s.spend.ctxSlots = s.ctxSlots := rfl
@[simp] theorem State.spend_hostImages (s : State)  : s.spend.hostImages = s.hostImages := rfl
@[simp] theorem State.spend_fuses (s : State)  : s.spend.fuses = s.fuses := rfl
@[simp] theorem State.spend_fusedOff (s : State)  : s.spend.fusedOff = s.fusedOff := rfl
@[simp] theorem State.spend_disMap (s : State)  : s.spend.disMap = s.disMap := rfl
@[simp] theorem State.spend_fwMarks (s : State)  : s.spend.fwMarks = s.fwMarks := rfl
@[simp] theorem State.spend_formMarks (s : State)  : s.spend.formMarks = s.formMarks := rfl
@[simp] theorem State.spend_sec (s : State)  : s.spend.sec = s.sec := rfl
@[simp] theorem State.spend_loading (s : State)  : s.spend.loading = s.loading := rfl
@[simp] theorem State.spend_dying (s : State)  : s.spend.dying = s.dying := rfl
@[simp] theorem State.spend_removal (s : State)  : s.spend.removal = s.removal := rfl
@[simp] theorem State.spend_mapMeas (s : State)  : s.spend.mapMeas = s.mapMeas := rfl
@[simp] theorem State.spend_debugClk (s : State)  : s.spend.debugClk = s.debugClk := rfl
@[simp] theorem State.spend_pwren (s : State)  : s.spend.pwren = s.pwren := rfl
@[simp] theorem State.spend_supply (s : State)  : s.spend.supply = s.supply := rfl
@[simp] theorem State.spend_smbus (s : State)  : s.spend.smbus = s.smbus := rfl
@[simp] theorem State.spend_powerHold (s : State)  : s.spend.powerHold = s.powerHold := rfl
@[simp] theorem State.spend_tripped (s : State)  : s.spend.tripped = s.tripped := rfl
@[simp] theorem State.spend_tgSeeds (s : State)  : s.spend.tgSeeds = s.tgSeeds := rfl
@[simp] theorem State.spend_warm (s : State)  : s.spend.warm = s.warm := rfl
@[simp] theorem State.spend_tgStops (s : State)  : s.spend.tgStops = s.tgStops := rfl
@[simp] theorem State.spend_holding (s : State)  : s.spend.holding = s.holding := rfl
@[simp] theorem State.spend_diag (s : State)  : s.spend.diag = s.diag := rfl
@[simp] theorem State.spend_outs (s : State)  : s.spend.outs = s.outs := rfl

/-! `setRing`. -/
@[simp] theorem State.setRing_pending (s : State) (x : RingRec) : (s.setRing x).pending = s.pending := rfl
@[simp] theorem State.setRing_maps (s : State) (x : RingRec) : (s.setRing x).maps = s.maps := rfl
@[simp] theorem State.setRing_free (s : State) (x : RingRec) : (s.setRing x).free = s.free := rfl
@[simp] theorem State.setRing_boot (s : State) (x : RingRec) : (s.setRing x).boot = s.boot := rfl
@[simp] theorem State.setRing_grade (s : State) (x : RingRec) : (s.setRing x).grade = s.grade := rfl
@[simp] theorem State.setRing_numVfs (s : State) (x : RingRec) : (s.setRing x).numVfs = s.numVfs := rfl
@[simp] theorem State.setRing_tickClk (s : State) (x : RingRec) : (s.setRing x).tickClk = s.tickClk := rfl
@[simp] theorem State.setRing_reading (s : State) (x : RingRec) : (s.setRing x).reading = s.reading := rfl
@[simp] theorem State.setRing_readNo (s : State) (x : RingRec) : (s.setRing x).readNo = s.readNo := rfl
@[simp] theorem State.setRing_readClk (s : State) (x : RingRec) : (s.setRing x).readClk = s.readClk := rfl
@[simp] theorem State.setRing_nextGid (s : State) (x : RingRec) : (s.setRing x).nextGid = s.nextGid := rfl
@[simp] theorem State.setRing_nextTid (s : State) (x : RingRec) : (s.setRing x).nextTid = s.nextTid := rfl
@[simp] theorem State.setRing_parts (s : State) (x : RingRec) : (s.setRing x).parts = s.parts := rfl
@[simp] theorem State.setRing_graphs (s : State) (x : RingRec) : (s.setRing x).graphs = s.graphs := rfl
@[simp] theorem State.setRing_tasks (s : State) (x : RingRec) : (s.setRing x).tasks = s.tasks := rfl
@[simp] theorem State.setRing_tenants (s : State) (x : RingRec) : (s.setRing x).tenants = s.tenants := rfl
@[simp] theorem State.setRing_flights (s : State) (x : RingRec) : (s.setRing x).flights = s.flights := rfl
@[simp] theorem State.setRing_engs (s : State) (x : RingRec) : (s.setRing x).engs = s.engs := rfl
@[simp] theorem State.setRing_migs (s : State) (x : RingRec) : (s.setRing x).migs = s.migs := rfl
@[simp] theorem State.setRing_frames (s : State) (x : RingRec) : (s.setRing x).frames = s.frames := rfl
@[simp] theorem State.setRing_badFrames (s : State) (x : RingRec) : (s.setRing x).badFrames = s.badFrames := rfl
@[simp] theorem State.setRing_sick (s : State) (x : RingRec) : (s.setRing x).sick = s.sick := rfl
@[simp] theorem State.setRing_hbmRows (s : State) (x : RingRec) : (s.setRing x).hbmRows = s.hbmRows := rfl
@[simp] theorem State.setRing_hbmPcs (s : State) (x : RingRec) : (s.setRing x).hbmPcs = s.hbmPcs := rfl
@[simp] theorem State.setRing_hbmDue (s : State) (x : RingRec) : (s.setRing x).hbmDue = s.hbmDue := rfl
@[simp] theorem State.setRing_hbmHold (s : State) (x : RingRec) : (s.setRing x).hbmHold = s.hbmHold := rfl
@[simp] theorem State.setRing_hbmWait (s : State) (x : RingRec) : (s.setRing x).hbmWait = s.hbmWait := rfl
@[simp] theorem State.setRing_entryWait (s : State) (x : RingRec) : (s.setRing x).entryWait = s.entryWait := rfl
@[simp] theorem State.setRing_hostSkips (s : State) (x : RingRec) : (s.setRing x).hostSkips = s.hostSkips := rfl
@[simp] theorem State.setRing_hbmSpare (s : State) (x : RingRec) : (s.setRing x).hbmSpare = s.hbmSpare := rfl
@[simp] theorem State.setRing_narrowDue (s : State) (x : RingRec) : (s.setRing x).narrowDue = s.narrowDue := rfl
@[simp] theorem State.setRing_shared (s : State) (x : RingRec) : (s.setRing x).shared = s.shared := rfl
@[simp] theorem State.setRing_touched (s : State) (x : RingRec) : (s.setRing x).touched = s.touched := rfl
@[simp] theorem State.setRing_touchedPrev (s : State) (x : RingRec) : (s.setRing x).touchedPrev = s.touchedPrev := rfl
@[simp] theorem State.setRing_lastDies (s : State) (x : RingRec) : (s.setRing x).lastDies = s.lastDies := rfl
@[simp] theorem State.setRing_moves (s : State) (x : RingRec) : (s.setRing x).moves = s.moves := rfl
@[simp] theorem State.setRing_kvRecs (s : State) (x : RingRec) : (s.setRing x).kvRecs = s.kvRecs := rfl
@[simp] theorem State.setRing_kvStuck (s : State) (x : RingRec) : (s.setRing x).kvStuck = s.kvStuck := rfl
@[simp] theorem State.setRing_kvFreed (s : State) (x : RingRec) : (s.setRing x).kvFreed = s.kvFreed := rfl
@[simp] theorem State.setRing_kvWait (s : State) (x : RingRec) : (s.setRing x).kvWait = s.kvWait := rfl
@[simp] theorem State.setRing_evicting (s : State) (x : RingRec) : (s.setRing x).evicting = s.evicting := rfl
@[simp] theorem State.setRing_reuseSlots (s : State) (x : RingRec) : (s.setRing x).reuseSlots = s.reuseSlots := rfl
@[simp] theorem State.setRing_slotsOn (s : State) (x : RingRec) : (s.setRing x).slotsOn = s.slotsOn := rfl
@[simp] theorem State.setRing_sb (s : State) (x : RingRec) : (s.setRing x).sb = s.sb := rfl
@[simp] theorem State.setRing_starts (s : State) (x : RingRec) : (s.setRing x).starts = s.starts := rfl
@[simp] theorem State.setRing_startMsgs (s : State) (x : RingRec) : (s.setRing x).startMsgs = s.startMsgs := rfl
@[simp] theorem State.setRing_gcAcquired (s : State) (x : RingRec) : (s.setRing x).gcAcquired = s.gcAcquired := rfl
@[simp] theorem State.setRing_gcOffset (s : State) (x : RingRec) : (s.setRing x).gcOffset = s.gcOffset := rfl
@[simp] theorem State.setRing_gcAhead (s : State) (x : RingRec) : (s.setRing x).gcAhead = s.gcAhead := rfl
@[simp] theorem State.setRing_fsync (s : State) (x : RingRec) : (s.setRing x).fsync = s.fsync := rfl
@[simp] theorem State.setRing_ports (s : State) (x : RingRec) : (s.setRing x).ports = s.ports := rfl
@[simp] theorem State.setRing_routes (s : State) (x : RingRec) : (s.setRing x).routes = s.routes := rfl
@[simp] theorem State.setRing_colls (s : State) (x : RingRec) : (s.setRing x).colls = s.colls := rfl
@[simp] theorem State.setRing_rounds (s : State) (x : RingRec) : (s.setRing x).rounds = s.rounds := rfl
@[simp] theorem State.setRing_sessions (s : State) (x : RingRec) : (s.setRing x).sessions = s.sessions := rfl
@[simp] theorem State.setRing_coreErrs (s : State) (x : RingRec) : (s.setRing x).coreErrs = s.coreErrs := rfl
@[simp] theorem State.setRing_ctxCmds (s : State) (x : RingRec) : (s.setRing x).ctxCmds = s.ctxCmds := rfl
@[simp] theorem State.setRing_ctxSlots (s : State) (x : RingRec) : (s.setRing x).ctxSlots = s.ctxSlots := rfl
@[simp] theorem State.setRing_hostImages (s : State) (x : RingRec) : (s.setRing x).hostImages = s.hostImages := rfl
@[simp] theorem State.setRing_fuses (s : State) (x : RingRec) : (s.setRing x).fuses = s.fuses := rfl
@[simp] theorem State.setRing_fusedOff (s : State) (x : RingRec) : (s.setRing x).fusedOff = s.fusedOff := rfl
@[simp] theorem State.setRing_disMap (s : State) (x : RingRec) : (s.setRing x).disMap = s.disMap := rfl
@[simp] theorem State.setRing_fwMarks (s : State) (x : RingRec) : (s.setRing x).fwMarks = s.fwMarks := rfl
@[simp] theorem State.setRing_formMarks (s : State) (x : RingRec) : (s.setRing x).formMarks = s.formMarks := rfl
@[simp] theorem State.setRing_sec (s : State) (x : RingRec) : (s.setRing x).sec = s.sec := rfl
@[simp] theorem State.setRing_loading (s : State) (x : RingRec) : (s.setRing x).loading = s.loading := rfl
@[simp] theorem State.setRing_dying (s : State) (x : RingRec) : (s.setRing x).dying = s.dying := rfl
@[simp] theorem State.setRing_removal (s : State) (x : RingRec) : (s.setRing x).removal = s.removal := rfl
@[simp] theorem State.setRing_mapMeas (s : State) (x : RingRec) : (s.setRing x).mapMeas = s.mapMeas := rfl
@[simp] theorem State.setRing_debugClk (s : State) (x : RingRec) : (s.setRing x).debugClk = s.debugClk := rfl
@[simp] theorem State.setRing_pwren (s : State) (x : RingRec) : (s.setRing x).pwren = s.pwren := rfl
@[simp] theorem State.setRing_supply (s : State) (x : RingRec) : (s.setRing x).supply = s.supply := rfl
@[simp] theorem State.setRing_smbus (s : State) (x : RingRec) : (s.setRing x).smbus = s.smbus := rfl
@[simp] theorem State.setRing_powerHold (s : State) (x : RingRec) : (s.setRing x).powerHold = s.powerHold := rfl
@[simp] theorem State.setRing_tripped (s : State) (x : RingRec) : (s.setRing x).tripped = s.tripped := rfl
@[simp] theorem State.setRing_tgSeeds (s : State) (x : RingRec) : (s.setRing x).tgSeeds = s.tgSeeds := rfl
@[simp] theorem State.setRing_warm (s : State) (x : RingRec) : (s.setRing x).warm = s.warm := rfl
@[simp] theorem State.setRing_tgStops (s : State) (x : RingRec) : (s.setRing x).tgStops = s.tgStops := rfl
@[simp] theorem State.setRing_holding (s : State) (x : RingRec) : (s.setRing x).holding = s.holding := rfl
@[simp] theorem State.setRing_diag (s : State) (x : RingRec) : (s.setRing x).diag = s.diag := rfl
@[simp] theorem State.setRing_outs (s : State) (x : RingRec) : (s.setRing x).outs = s.outs := rfl

/-! `setTask`. -/
@[simp] theorem State.setTask_pending (s : State) (t : TaskRec) : (s.setTask t).pending = s.pending := rfl
@[simp] theorem State.setTask_maps (s : State) (t : TaskRec) : (s.setTask t).maps = s.maps := rfl
@[simp] theorem State.setTask_free (s : State) (t : TaskRec) : (s.setTask t).free = s.free := rfl
@[simp] theorem State.setTask_boot (s : State) (t : TaskRec) : (s.setTask t).boot = s.boot := rfl
@[simp] theorem State.setTask_grade (s : State) (t : TaskRec) : (s.setTask t).grade = s.grade := rfl
@[simp] theorem State.setTask_numVfs (s : State) (t : TaskRec) : (s.setTask t).numVfs = s.numVfs := rfl
@[simp] theorem State.setTask_tickClk (s : State) (t : TaskRec) : (s.setTask t).tickClk = s.tickClk := rfl
@[simp] theorem State.setTask_reading (s : State) (t : TaskRec) : (s.setTask t).reading = s.reading := rfl
@[simp] theorem State.setTask_readNo (s : State) (t : TaskRec) : (s.setTask t).readNo = s.readNo := rfl
@[simp] theorem State.setTask_readClk (s : State) (t : TaskRec) : (s.setTask t).readClk = s.readClk := rfl
@[simp] theorem State.setTask_nextGid (s : State) (t : TaskRec) : (s.setTask t).nextGid = s.nextGid := rfl
@[simp] theorem State.setTask_nextTid (s : State) (t : TaskRec) : (s.setTask t).nextTid = s.nextTid := rfl
@[simp] theorem State.setTask_parts (s : State) (t : TaskRec) : (s.setTask t).parts = s.parts := rfl
@[simp] theorem State.setTask_rings (s : State) (t : TaskRec) : (s.setTask t).rings = s.rings := rfl
@[simp] theorem State.setTask_graphs (s : State) (t : TaskRec) : (s.setTask t).graphs = s.graphs := rfl
@[simp] theorem State.setTask_tenants (s : State) (t : TaskRec) : (s.setTask t).tenants = s.tenants := rfl
@[simp] theorem State.setTask_flights (s : State) (t : TaskRec) : (s.setTask t).flights = s.flights := rfl
@[simp] theorem State.setTask_engs (s : State) (t : TaskRec) : (s.setTask t).engs = s.engs := rfl
@[simp] theorem State.setTask_migs (s : State) (t : TaskRec) : (s.setTask t).migs = s.migs := rfl
@[simp] theorem State.setTask_frames (s : State) (t : TaskRec) : (s.setTask t).frames = s.frames := rfl
@[simp] theorem State.setTask_badFrames (s : State) (t : TaskRec) : (s.setTask t).badFrames = s.badFrames := rfl
@[simp] theorem State.setTask_sick (s : State) (t : TaskRec) : (s.setTask t).sick = s.sick := rfl
@[simp] theorem State.setTask_hbmRows (s : State) (t : TaskRec) : (s.setTask t).hbmRows = s.hbmRows := rfl
@[simp] theorem State.setTask_hbmPcs (s : State) (t : TaskRec) : (s.setTask t).hbmPcs = s.hbmPcs := rfl
@[simp] theorem State.setTask_hbmDue (s : State) (t : TaskRec) : (s.setTask t).hbmDue = s.hbmDue := rfl
@[simp] theorem State.setTask_hbmHold (s : State) (t : TaskRec) : (s.setTask t).hbmHold = s.hbmHold := rfl
@[simp] theorem State.setTask_hbmWait (s : State) (t : TaskRec) : (s.setTask t).hbmWait = s.hbmWait := rfl
@[simp] theorem State.setTask_entryWait (s : State) (t : TaskRec) : (s.setTask t).entryWait = s.entryWait := rfl
@[simp] theorem State.setTask_hostSkips (s : State) (t : TaskRec) : (s.setTask t).hostSkips = s.hostSkips := rfl
@[simp] theorem State.setTask_hbmSpare (s : State) (t : TaskRec) : (s.setTask t).hbmSpare = s.hbmSpare := rfl
@[simp] theorem State.setTask_narrowDue (s : State) (t : TaskRec) : (s.setTask t).narrowDue = s.narrowDue := rfl
@[simp] theorem State.setTask_shared (s : State) (t : TaskRec) : (s.setTask t).shared = s.shared := rfl
@[simp] theorem State.setTask_touched (s : State) (t : TaskRec) : (s.setTask t).touched = s.touched := rfl
@[simp] theorem State.setTask_touchedPrev (s : State) (t : TaskRec) : (s.setTask t).touchedPrev = s.touchedPrev := rfl
@[simp] theorem State.setTask_lastDies (s : State) (t : TaskRec) : (s.setTask t).lastDies = s.lastDies := rfl
@[simp] theorem State.setTask_moves (s : State) (t : TaskRec) : (s.setTask t).moves = s.moves := rfl
@[simp] theorem State.setTask_kvRecs (s : State) (t : TaskRec) : (s.setTask t).kvRecs = s.kvRecs := rfl
@[simp] theorem State.setTask_kvStuck (s : State) (t : TaskRec) : (s.setTask t).kvStuck = s.kvStuck := rfl
@[simp] theorem State.setTask_kvFreed (s : State) (t : TaskRec) : (s.setTask t).kvFreed = s.kvFreed := rfl
@[simp] theorem State.setTask_kvWait (s : State) (t : TaskRec) : (s.setTask t).kvWait = s.kvWait := rfl
@[simp] theorem State.setTask_evicting (s : State) (t : TaskRec) : (s.setTask t).evicting = s.evicting := rfl
@[simp] theorem State.setTask_reuseSlots (s : State) (t : TaskRec) : (s.setTask t).reuseSlots = s.reuseSlots := rfl
@[simp] theorem State.setTask_slotsOn (s : State) (t : TaskRec) : (s.setTask t).slotsOn = s.slotsOn := rfl
@[simp] theorem State.setTask_sb (s : State) (t : TaskRec) : (s.setTask t).sb = s.sb := rfl
@[simp] theorem State.setTask_starts (s : State) (t : TaskRec) : (s.setTask t).starts = s.starts := rfl
@[simp] theorem State.setTask_startMsgs (s : State) (t : TaskRec) : (s.setTask t).startMsgs = s.startMsgs := rfl
@[simp] theorem State.setTask_gcAcquired (s : State) (t : TaskRec) : (s.setTask t).gcAcquired = s.gcAcquired := rfl
@[simp] theorem State.setTask_gcOffset (s : State) (t : TaskRec) : (s.setTask t).gcOffset = s.gcOffset := rfl
@[simp] theorem State.setTask_gcAhead (s : State) (t : TaskRec) : (s.setTask t).gcAhead = s.gcAhead := rfl
@[simp] theorem State.setTask_fsync (s : State) (t : TaskRec) : (s.setTask t).fsync = s.fsync := rfl
@[simp] theorem State.setTask_ports (s : State) (t : TaskRec) : (s.setTask t).ports = s.ports := rfl
@[simp] theorem State.setTask_routes (s : State) (t : TaskRec) : (s.setTask t).routes = s.routes := rfl
@[simp] theorem State.setTask_colls (s : State) (t : TaskRec) : (s.setTask t).colls = s.colls := rfl
@[simp] theorem State.setTask_rounds (s : State) (t : TaskRec) : (s.setTask t).rounds = s.rounds := rfl
@[simp] theorem State.setTask_sessions (s : State) (t : TaskRec) : (s.setTask t).sessions = s.sessions := rfl
@[simp] theorem State.setTask_coreErrs (s : State) (t : TaskRec) : (s.setTask t).coreErrs = s.coreErrs := rfl
@[simp] theorem State.setTask_ctxCmds (s : State) (t : TaskRec) : (s.setTask t).ctxCmds = s.ctxCmds := rfl
@[simp] theorem State.setTask_ctxSlots (s : State) (t : TaskRec) : (s.setTask t).ctxSlots = s.ctxSlots := rfl
@[simp] theorem State.setTask_hostImages (s : State) (t : TaskRec) : (s.setTask t).hostImages = s.hostImages := rfl
@[simp] theorem State.setTask_fuses (s : State) (t : TaskRec) : (s.setTask t).fuses = s.fuses := rfl
@[simp] theorem State.setTask_fusedOff (s : State) (t : TaskRec) : (s.setTask t).fusedOff = s.fusedOff := rfl
@[simp] theorem State.setTask_disMap (s : State) (t : TaskRec) : (s.setTask t).disMap = s.disMap := rfl
@[simp] theorem State.setTask_fwMarks (s : State) (t : TaskRec) : (s.setTask t).fwMarks = s.fwMarks := rfl
@[simp] theorem State.setTask_formMarks (s : State) (t : TaskRec) : (s.setTask t).formMarks = s.formMarks := rfl
@[simp] theorem State.setTask_sec (s : State) (t : TaskRec) : (s.setTask t).sec = s.sec := rfl
@[simp] theorem State.setTask_loading (s : State) (t : TaskRec) : (s.setTask t).loading = s.loading := rfl
@[simp] theorem State.setTask_dying (s : State) (t : TaskRec) : (s.setTask t).dying = s.dying := rfl
@[simp] theorem State.setTask_removal (s : State) (t : TaskRec) : (s.setTask t).removal = s.removal := rfl
@[simp] theorem State.setTask_mapMeas (s : State) (t : TaskRec) : (s.setTask t).mapMeas = s.mapMeas := rfl
@[simp] theorem State.setTask_debugClk (s : State) (t : TaskRec) : (s.setTask t).debugClk = s.debugClk := rfl
@[simp] theorem State.setTask_pwren (s : State) (t : TaskRec) : (s.setTask t).pwren = s.pwren := rfl
@[simp] theorem State.setTask_supply (s : State) (t : TaskRec) : (s.setTask t).supply = s.supply := rfl
@[simp] theorem State.setTask_smbus (s : State) (t : TaskRec) : (s.setTask t).smbus = s.smbus := rfl
@[simp] theorem State.setTask_powerHold (s : State) (t : TaskRec) : (s.setTask t).powerHold = s.powerHold := rfl
@[simp] theorem State.setTask_tripped (s : State) (t : TaskRec) : (s.setTask t).tripped = s.tripped := rfl
@[simp] theorem State.setTask_tgSeeds (s : State) (t : TaskRec) : (s.setTask t).tgSeeds = s.tgSeeds := rfl
@[simp] theorem State.setTask_warm (s : State) (t : TaskRec) : (s.setTask t).warm = s.warm := rfl
@[simp] theorem State.setTask_tgStops (s : State) (t : TaskRec) : (s.setTask t).tgStops = s.tgStops := rfl
@[simp] theorem State.setTask_holding (s : State) (t : TaskRec) : (s.setTask t).holding = s.holding := rfl
@[simp] theorem State.setTask_diag (s : State) (t : TaskRec) : (s.setTask t).diag = s.diag := rfl
@[simp] theorem State.setTask_outs (s : State) (t : TaskRec) : (s.setTask t).outs = s.outs := rfl

/-! `event`: the scorebook, and the dropped count while recording is held. -/
@[simp] theorem State.event_pending (s : State) (c u p x y : Nat) : (s.event c u p x y).pending = s.pending := by unfold State.event; split <;> rfl
@[simp] theorem State.event_free (s : State) (c u p x y : Nat) : (s.event c u p x y).free = s.free := by unfold State.event; split <;> rfl
@[simp] theorem State.event_boot (s : State) (c u p x y : Nat) : (s.event c u p x y).boot = s.boot := by unfold State.event; split <;> rfl
@[simp] theorem State.event_grade (s : State) (c u p x y : Nat) : (s.event c u p x y).grade = s.grade := by unfold State.event; split <;> rfl
@[simp] theorem State.event_numVfs (s : State) (c u p x y : Nat) : (s.event c u p x y).numVfs = s.numVfs := by unfold State.event; split <;> rfl
@[simp] theorem State.event_tickClk (s : State) (c u p x y : Nat) : (s.event c u p x y).tickClk = s.tickClk := by unfold State.event; split <;> rfl
@[simp] theorem State.event_reading (s : State) (c u p x y : Nat) : (s.event c u p x y).reading = s.reading := by unfold State.event; split <;> rfl
@[simp] theorem State.event_readNo (s : State) (c u p x y : Nat) : (s.event c u p x y).readNo = s.readNo := by unfold State.event; split <;> rfl
@[simp] theorem State.event_readClk (s : State) (c u p x y : Nat) : (s.event c u p x y).readClk = s.readClk := by unfold State.event; split <;> rfl
@[simp] theorem State.event_nextGid (s : State) (c u p x y : Nat) : (s.event c u p x y).nextGid = s.nextGid := by unfold State.event; split <;> rfl
@[simp] theorem State.event_nextTid (s : State) (c u p x y : Nat) : (s.event c u p x y).nextTid = s.nextTid := by unfold State.event; split <;> rfl
@[simp] theorem State.event_parts (s : State) (c u p x y : Nat) : (s.event c u p x y).parts = s.parts := by unfold State.event; split <;> rfl
@[simp] theorem State.event_rings (s : State) (c u p x y : Nat) : (s.event c u p x y).rings = s.rings := by unfold State.event; split <;> rfl
@[simp] theorem State.event_graphs (s : State) (c u p x y : Nat) : (s.event c u p x y).graphs = s.graphs := by unfold State.event; split <;> rfl
@[simp] theorem State.event_tasks (s : State) (c u p x y : Nat) : (s.event c u p x y).tasks = s.tasks := by unfold State.event; split <;> rfl
@[simp] theorem State.event_tenants (s : State) (c u p x y : Nat) : (s.event c u p x y).tenants = s.tenants := by unfold State.event; split <;> rfl
@[simp] theorem State.event_flights (s : State) (c u p x y : Nat) : (s.event c u p x y).flights = s.flights := by unfold State.event; split <;> rfl
@[simp] theorem State.event_engs (s : State) (c u p x y : Nat) : (s.event c u p x y).engs = s.engs := by unfold State.event; split <;> rfl
@[simp] theorem State.event_migs (s : State) (c u p x y : Nat) : (s.event c u p x y).migs = s.migs := by unfold State.event; split <;> rfl
@[simp] theorem State.event_frames (s : State) (c u p x y : Nat) : (s.event c u p x y).frames = s.frames := by unfold State.event; split <;> rfl
@[simp] theorem State.event_badFrames (s : State) (c u p x y : Nat) : (s.event c u p x y).badFrames = s.badFrames := by unfold State.event; split <;> rfl
@[simp] theorem State.event_sick (s : State) (c u p x y : Nat) : (s.event c u p x y).sick = s.sick := by unfold State.event; split <;> rfl
@[simp] theorem State.event_hbmRows (s : State) (c u p x y : Nat) : (s.event c u p x y).hbmRows = s.hbmRows := by unfold State.event; split <;> rfl
@[simp] theorem State.event_hbmPcs (s : State) (c u p x y : Nat) : (s.event c u p x y).hbmPcs = s.hbmPcs := by unfold State.event; split <;> rfl
@[simp] theorem State.event_hbmDue (s : State) (c u p x y : Nat) : (s.event c u p x y).hbmDue = s.hbmDue := by unfold State.event; split <;> rfl
@[simp] theorem State.event_hbmHold (s : State) (c u p x y : Nat) : (s.event c u p x y).hbmHold = s.hbmHold := by unfold State.event; split <;> rfl
@[simp] theorem State.event_hbmWait (s : State) (c u p x y : Nat) : (s.event c u p x y).hbmWait = s.hbmWait := by unfold State.event; split <;> rfl
@[simp] theorem State.event_entryWait (s : State) (c u p x y : Nat) : (s.event c u p x y).entryWait = s.entryWait := by unfold State.event; split <;> rfl
@[simp] theorem State.event_hostSkips (s : State) (c u p x y : Nat) : (s.event c u p x y).hostSkips = s.hostSkips := by unfold State.event; split <;> rfl
@[simp] theorem State.event_hbmSpare (s : State) (c u p x y : Nat) : (s.event c u p x y).hbmSpare = s.hbmSpare := by unfold State.event; split <;> rfl
@[simp] theorem State.event_narrowDue (s : State) (c u p x y : Nat) : (s.event c u p x y).narrowDue = s.narrowDue := by unfold State.event; split <;> rfl
@[simp] theorem State.event_shared (s : State) (c u p x y : Nat) : (s.event c u p x y).shared = s.shared := by unfold State.event; split <;> rfl
@[simp] theorem State.event_touched (s : State) (c u p x y : Nat) : (s.event c u p x y).touched = s.touched := by unfold State.event; split <;> rfl
@[simp] theorem State.event_touchedPrev (s : State) (c u p x y : Nat) : (s.event c u p x y).touchedPrev = s.touchedPrev := by unfold State.event; split <;> rfl
@[simp] theorem State.event_lastDies (s : State) (c u p x y : Nat) : (s.event c u p x y).lastDies = s.lastDies := by unfold State.event; split <;> rfl
@[simp] theorem State.event_moves (s : State) (c u p x y : Nat) : (s.event c u p x y).moves = s.moves := by unfold State.event; split <;> rfl
@[simp] theorem State.event_kvRecs (s : State) (c u p x y : Nat) : (s.event c u p x y).kvRecs = s.kvRecs := by unfold State.event; split <;> rfl
@[simp] theorem State.event_kvStuck (s : State) (c u p x y : Nat) : (s.event c u p x y).kvStuck = s.kvStuck := by unfold State.event; split <;> rfl
@[simp] theorem State.event_kvFreed (s : State) (c u p x y : Nat) : (s.event c u p x y).kvFreed = s.kvFreed := by unfold State.event; split <;> rfl
@[simp] theorem State.event_kvWait (s : State) (c u p x y : Nat) : (s.event c u p x y).kvWait = s.kvWait := by unfold State.event; split <;> rfl
@[simp] theorem State.event_evicting (s : State) (c u p x y : Nat) : (s.event c u p x y).evicting = s.evicting := by unfold State.event; split <;> rfl
@[simp] theorem State.event_reuseSlots (s : State) (c u p x y : Nat) : (s.event c u p x y).reuseSlots = s.reuseSlots := by unfold State.event; split <;> rfl
@[simp] theorem State.event_slotsOn (s : State) (c u p x y : Nat) : (s.event c u p x y).slotsOn = s.slotsOn := by unfold State.event; split <;> rfl
@[simp] theorem State.event_starts (s : State) (c u p x y : Nat) : (s.event c u p x y).starts = s.starts := by unfold State.event; split <;> rfl
@[simp] theorem State.event_startMsgs (s : State) (c u p x y : Nat) : (s.event c u p x y).startMsgs = s.startMsgs := by unfold State.event; split <;> rfl
@[simp] theorem State.event_gcAcquired (s : State) (c u p x y : Nat) : (s.event c u p x y).gcAcquired = s.gcAcquired := by unfold State.event; split <;> rfl
@[simp] theorem State.event_gcOffset (s : State) (c u p x y : Nat) : (s.event c u p x y).gcOffset = s.gcOffset := by unfold State.event; split <;> rfl
@[simp] theorem State.event_gcAhead (s : State) (c u p x y : Nat) : (s.event c u p x y).gcAhead = s.gcAhead := by unfold State.event; split <;> rfl
@[simp] theorem State.event_fsync (s : State) (c u p x y : Nat) : (s.event c u p x y).fsync = s.fsync := by unfold State.event; split <;> rfl
@[simp] theorem State.event_ports (s : State) (c u p x y : Nat) : (s.event c u p x y).ports = s.ports := by unfold State.event; split <;> rfl
@[simp] theorem State.event_routes (s : State) (c u p x y : Nat) : (s.event c u p x y).routes = s.routes := by unfold State.event; split <;> rfl
@[simp] theorem State.event_colls (s : State) (c u p x y : Nat) : (s.event c u p x y).colls = s.colls := by unfold State.event; split <;> rfl
@[simp] theorem State.event_rounds (s : State) (c u p x y : Nat) : (s.event c u p x y).rounds = s.rounds := by unfold State.event; split <;> rfl
@[simp] theorem State.event_sessions (s : State) (c u p x y : Nat) : (s.event c u p x y).sessions = s.sessions := by unfold State.event; split <;> rfl
@[simp] theorem State.event_coreErrs (s : State) (c u p x y : Nat) : (s.event c u p x y).coreErrs = s.coreErrs := by unfold State.event; split <;> rfl
@[simp] theorem State.event_ctxCmds (s : State) (c u p x y : Nat) : (s.event c u p x y).ctxCmds = s.ctxCmds := by unfold State.event; split <;> rfl
@[simp] theorem State.event_ctxSlots (s : State) (c u p x y : Nat) : (s.event c u p x y).ctxSlots = s.ctxSlots := by unfold State.event; split <;> rfl
@[simp] theorem State.event_hostImages (s : State) (c u p x y : Nat) : (s.event c u p x y).hostImages = s.hostImages := by unfold State.event; split <;> rfl
@[simp] theorem State.event_fuses (s : State) (c u p x y : Nat) : (s.event c u p x y).fuses = s.fuses := by unfold State.event; split <;> rfl
@[simp] theorem State.event_fusedOff (s : State) (c u p x y : Nat) : (s.event c u p x y).fusedOff = s.fusedOff := by unfold State.event; split <;> rfl
@[simp] theorem State.event_disMap (s : State) (c u p x y : Nat) : (s.event c u p x y).disMap = s.disMap := by unfold State.event; split <;> rfl
@[simp] theorem State.event_fwMarks (s : State) (c u p x y : Nat) : (s.event c u p x y).fwMarks = s.fwMarks := by unfold State.event; split <;> rfl
@[simp] theorem State.event_formMarks (s : State) (c u p x y : Nat) : (s.event c u p x y).formMarks = s.formMarks := by unfold State.event; split <;> rfl
@[simp] theorem State.event_sec (s : State) (c u p x y : Nat) : (s.event c u p x y).sec = s.sec := by unfold State.event; split <;> rfl
@[simp] theorem State.event_loading (s : State) (c u p x y : Nat) : (s.event c u p x y).loading = s.loading := by unfold State.event; split <;> rfl
@[simp] theorem State.event_dying (s : State) (c u p x y : Nat) : (s.event c u p x y).dying = s.dying := by unfold State.event; split <;> rfl
@[simp] theorem State.event_removal (s : State) (c u p x y : Nat) : (s.event c u p x y).removal = s.removal := by unfold State.event; split <;> rfl
@[simp] theorem State.event_mapMeas (s : State) (c u p x y : Nat) : (s.event c u p x y).mapMeas = s.mapMeas := by unfold State.event; split <;> rfl
@[simp] theorem State.event_debugClk (s : State) (c u p x y : Nat) : (s.event c u p x y).debugClk = s.debugClk := by unfold State.event; split <;> rfl
@[simp] theorem State.event_pwren (s : State) (c u p x y : Nat) : (s.event c u p x y).pwren = s.pwren := by unfold State.event; split <;> rfl
@[simp] theorem State.event_supply (s : State) (c u p x y : Nat) : (s.event c u p x y).supply = s.supply := by unfold State.event; split <;> rfl
@[simp] theorem State.event_smbus (s : State) (c u p x y : Nat) : (s.event c u p x y).smbus = s.smbus := by unfold State.event; split <;> rfl
@[simp] theorem State.event_powerHold (s : State) (c u p x y : Nat) : (s.event c u p x y).powerHold = s.powerHold := by unfold State.event; split <;> rfl
@[simp] theorem State.event_tripped (s : State) (c u p x y : Nat) : (s.event c u p x y).tripped = s.tripped := by unfold State.event; split <;> rfl
@[simp] theorem State.event_tgSeeds (s : State) (c u p x y : Nat) : (s.event c u p x y).tgSeeds = s.tgSeeds := by unfold State.event; split <;> rfl
@[simp] theorem State.event_warm (s : State) (c u p x y : Nat) : (s.event c u p x y).warm = s.warm := by unfold State.event; split <;> rfl
@[simp] theorem State.event_tgStops (s : State) (c u p x y : Nat) : (s.event c u p x y).tgStops = s.tgStops := by unfold State.event; split <;> rfl
@[simp] theorem State.event_holding (s : State) (c u p x y : Nat) : (s.event c u p x y).holding = s.holding := by unfold State.event; split <;> rfl
@[simp] theorem State.event_diag (s : State) (c u p x y : Nat) : (s.event c u p x y).diag = s.diag := by unfold State.event; split <;> rfl
@[simp] theorem State.event_outs (s : State) (c u p x y : Nat) : (s.event c u p x y).outs = s.outs := by unfold State.event; split <;> rfl
@[simp] theorem State.event_maps_dev (s : State) (c u p x y : Nat) : (s.event c u p x y).maps.dev = s.maps.dev := by unfold State.event; split <;> rfl
@[simp] theorem State.event_maps_host (s : State) (c u p x y : Nat) : (s.event c u p x y).maps.host = s.maps.host := by unfold State.event; split <;> rfl
@[simp] theorem State.event_maps_flash (s : State) (c u p x y : Nat) : (s.event c u p x y).maps.flash = s.maps.flash := by unfold State.event; split <;> rfl
@[simp] theorem State.event_maps_rt (s : State) (c u p x y : Nat) : (s.event c u p x y).maps.rt = s.maps.rt := by unfold State.event; split <;> rfl
@[simp] theorem State.event_maps_side (s : State) (c u p x y : Nat) : (s.event c u p x y).maps.side = s.maps.side := by unfold State.event; split <;> rfl
@[simp] theorem State.event_maps_reg (s : State) (c u p x y : Nat) : (s.event c u p x y).maps.reg = s.maps.reg := by unfold State.event; split <;> rfl
@[simp] theorem State.event_maps_snap (s : State) (c u p x y : Nat) : (s.event c u p x y).maps.snap = s.maps.snap := by unfold State.event; split <;> rfl
@[simp] theorem State.event_maps_acct (s : State) (c u p x y : Nat) : (s.event c u p x y).maps.acct = s.maps.acct := by unfold State.event; split <;> rfl
@[simp] theorem State.event_maps_cbk (s : State) (c u p x y : Nat) : (s.event c u p x y).maps.cbk = s.maps.cbk := by unfold State.event; split <;> rfl
@[simp] theorem State.event_maps_ft (s : State) (c u p x y : Nat) : (s.event c u p x y).maps.ft = s.maps.ft := by unfold State.event; split <;> rfl
@[simp] theorem State.event_maps_seeds (s : State) (c u p x y : Nat) : (s.event c u p x y).maps.seeds = s.maps.seeds := by unfold State.event; split <;> rfl
@[simp] theorem State.event_maps_reuse (s : State) (c u p x y : Nat) : (s.event c u p x y).maps.reuse = s.maps.reuse := by unfold State.event; split <;> rfl

end Sys2Proof.Machine
end

