-- ==== Sys2Proof/Laws/Ops.lean ====
section
/-! SUPPORT. What the named operations do: bit fields, registers, counters, the device virtual range, and that each keeps every
table canonical. -/
namespace Sys2Proof.Machine
open Sys2Proof

/-! Bit fields. -/

theorem pow2_eq (k : Nat) : pow2 k = 2 ^ k := by simp [pow2, Nat.shiftLeft_eq]

theorem testBit_getBits (w : W64) (hi lo i : Nat) :
    (getBits w hi lo).testBit i = (decide (i < hi + 1 - lo) && w.toNat.testBit (lo + i)) := by
  simp [getBits, fld, pow2_eq, Nat.testBit_mod_two_pow, Nat.testBit_shiftRight]

theorem getLsbD_setBits (w : W64) (hi lo v i : Nat) (h : i < 64) (hl : lo ≤ hi) :
    (setBits w hi lo v).getLsbD i = if lo ≤ i ∧ i ≤ hi then v.testBit (i - lo) else w.getLsbD i := by
  simp only [setBits, maskBits, BitVec.getLsbD_or, BitVec.getLsbD_and, BitVec.getLsbD_not, BitVec.getLsbD_ofNat,
    Nat.testBit_shiftLeft, Nat.testBit_two_pow_sub_one, pow2_eq, Nat.testBit_mod_two_pow, h, decide_true, Bool.true_and]
  by_cases h1 : lo ≤ i <;> by_cases h2 : i ≤ hi
  · have : i - lo < hi + 1 - lo := by omega
    simp [h1, h2, this]
  · have : ¬ (i - lo < hi + 1 - lo) := by omega
    simp [h1, h2, this]
  · simp [h1]
  · simp [h1]

/-- A field reads what was put into it. -/
theorem getBits_setBits (w : W64) {hi lo : Nat} (v : Nat) (hl : lo ≤ hi) (hh : hi < 64) :
    getBits (setBits w hi lo v) hi lo = v % 2 ^ (hi + 1 - lo) := by
  apply Nat.eq_of_testBit_eq
  intro i
  rw [testBit_getBits, Nat.testBit_mod_two_pow]
  by_cases h : i < hi + 1 - lo
  · have := getLsbD_setBits w hi lo v (lo + i) (by omega) hl
    rw [BitVec.getLsbD] at this
    rw [this, if_pos (by omega), show lo + i - lo = i by omega]
  · simp [h]

/-- Another field keeps its value. -/
theorem getBits_setBits_other (w : W64) {hi lo hi' lo' : Nat} (v : Nat) (hl : lo ≤ hi) (hh : hi' < 64)
    (h : hi' < lo ∨ hi < lo') : getBits (setBits w hi lo v) hi' lo' = getBits w hi' lo' := by
  apply Nat.eq_of_testBit_eq
  intro i
  rw [testBit_getBits, testBit_getBits]
  by_cases hi2 : i < hi' + 1 - lo'
  · have := getLsbD_setBits w hi lo v (lo' + i) (by omega) hl
    rw [BitVec.getLsbD] at this
    rw [this, if_neg (by omega), BitVec.getLsbD]
  · simp [hi2]

/-! Registers and counters. -/

theorem State.reg_setReg {s : State} (hw : s.maps.reg.wf 0 = true) (a : Nat) (v : W64) : (s.setReg a v).reg a = v := by
  simp only [State.reg, State.setReg]
  rw [Sparse.get_set_same hw, BitVec.xor_assoc, BitVec.xor_self, BitVec.xor_zero]

theorem State.reg_setReg_other {s : State} (hw : s.maps.reg.wf 0 = true) {a b : Nat} (v : W64) (h : b ≠ a) :
    (s.setReg a v).reg b = s.reg b := by
  simp only [State.reg, State.setReg]
  rw [Sparse.get_set_other hw _ h]

theorem State.rd_setFld {s : State} (hw : s.maps.reg.wf 0 = true) (a : Nat) {hi lo : Nat} (v : Nat) (hl : lo ≤ hi) (hh : hi < 64) :
    (s.setFld a hi lo v).rd a hi lo = v % 2 ^ (hi + 1 - lo) := by
  rw [State.rd, State.setFld, State.reg_setReg hw, getBits_setBits _ _ hl hh]

theorem State.rd_setFld_field {s : State} (hw : s.maps.reg.wf 0 = true) (a : Nat) {hi lo hi' lo' : Nat} (v : Nat) (hl : lo ≤ hi)
    (hh : hi' < 64) (h : hi' < lo ∨ hi < lo') : (s.setFld a hi lo v).rd a hi' lo' = s.rd a hi' lo' := by
  rw [State.rd, State.setFld, State.reg_setReg hw, getBits_setBits_other _ _ hl hh h, State.rd]

theorem State.rd_setFld_other {s : State} (hw : s.maps.reg.wf 0 = true) {a b : Nat} (hi lo hi' lo' v : Nat) (h : b ≠ a) :
    (s.setFld a hi lo v).rd b hi' lo' = s.rd b hi' lo' := by
  rw [State.rd, State.setFld, State.reg_setReg_other hw _ h, State.rd]

theorem State.reg_setFld_other {s : State} (hw : s.maps.reg.wf 0 = true) {a b : Nat} (hi lo v : Nat) (h : b ≠ a) :
    (s.setFld a hi lo v).reg b = s.reg b := State.reg_setReg_other hw _ h

theorem State.ctr_setCtr {s : State} (hw : s.maps.ctr.wf 0 = true) (a : Nat) (v : W64) : (s.setCtr a v).ctr a = v :=
  Sparse.get_set_same hw a v

theorem State.ctr_setCtr_other {s : State} (hw : s.maps.ctr.wf 0 = true) {a b : Nat} (v : W64) (h : b ≠ a) :
    (s.setCtr a v).ctr b = s.ctr b := Sparse.get_set_other hw v h

theorem State.ctr_bump {s : State} (hw : s.maps.ctr.wf 0 = true) (a n : Nat) :
    (s.bump a n).ctr a = s.ctr a + BitVec.ofNat 64 n := State.ctr_setCtr hw a _

theorem State.ctr_bump_other {s : State} (hw : s.maps.ctr.wf 0 = true) {a b : Nat} (n : Nat) (h : b ≠ a) :
    (s.bump a n).ctr b = s.ctr b := State.ctr_setCtr_other hw _ h

/-! A register is unchanged by what writes no register. -/

@[simp] theorem State.reg_setCtr (s : State) (a b : Nat) (v : W64) : (s.setCtr a v).reg b = s.reg b := rfl
@[simp] theorem State.reg_bump (s : State) (a n b : Nat) : (s.bump a n).reg b = s.reg b := rfl
@[simp] theorem State.reg_tell (s : State) (o : Out) (b : Nat) : (s.tell o).reg b = s.reg b := rfl
@[simp] theorem State.reg_spend (s : State) (b : Nat) : s.spend.reg b = s.reg b := rfl
@[simp] theorem State.reg_setRt (s : State) (p : Nat) (e : W64) (b : Nat) : (s.setRt p e).reg b = s.reg b := rfl
@[simp] theorem State.reg_setSide (s : State) (p : Nat) (e : W64) (b : Nat) : (s.setSide p e).reg b = s.reg b := rfl
@[simp] theorem State.reg_hostWrite (s : State) (a : Nat) (bs : List Byte) (b : Nat) : (s.hostWrite a bs).reg b = s.reg b := rfl
@[simp] theorem State.reg_setRing (s : State) (x : RingRec) (b : Nat) : (s.setRing x).reg b = s.reg b := rfl
@[simp] theorem State.reg_setTask (s : State) (t : TaskRec) (b : Nat) : (s.setTask t).reg b = s.reg b := rfl
@[simp] theorem State.reg_event (s : State) (c u p x y b : Nat) : (s.event c u p x y).reg b = s.reg b := by
  simp [State.reg]
@[simp] theorem State.rd_bump (s : State) (a n b hi lo : Nat) : (s.bump a n).rd b hi lo = s.rd b hi lo := rfl
@[simp] theorem State.rd_setCtr (s : State) (a b hi lo : Nat) (v : W64) : (s.setCtr a v).rd b hi lo = s.rd b hi lo := rfl
@[simp] theorem State.rd_tell (s : State) (o : Out) (b hi lo : Nat) : (s.tell o).rd b hi lo = s.rd b hi lo := rfl
@[simp] theorem State.rd_spend (s : State) (b hi lo : Nat) : s.spend.rd b hi lo = s.rd b hi lo := rfl
@[simp] theorem State.rd_setRt (s : State) (p : Nat) (e : W64) (b hi lo : Nat) : (s.setRt p e).rd b hi lo = s.rd b hi lo := rfl
@[simp] theorem State.rd_setRing (s : State) (x : RingRec) (b hi lo : Nat) : (s.setRing x).rd b hi lo = s.rd b hi lo := rfl
@[simp] theorem State.rd_setTask (s : State) (t : TaskRec) (b hi lo : Nat) : (s.setTask t).rd b hi lo = s.rd b hi lo := rfl
@[simp] theorem State.rd_event (s : State) (c u p x y b hi lo : Nat) : (s.event c u p x y).rd b hi lo = s.rd b hi lo := by
  simp [State.rd]

/-! The residency table, the side table, host memory and the device virtual range. -/

theorem State.rt_setRt {s : State} (hw : s.maps.rt.wf 0 = true) (p : Nat) (e : W64) : (s.setRt p e).rt p = e :=
  Sparse.get_set_same hw p e

theorem State.rt_setRt_other {s : State} (hw : s.maps.rt.wf 0 = true) {p q : Nat} (e : W64) (h : q ≠ p) :
    (s.setRt p e).rt q = s.rt q := Sparse.get_set_other hw e h

theorem State.side_setSide {s : State} (hw : s.maps.side.wf 0 = true) (b : Nat) (v : W64) : (s.setSide b v).side b = v :=
  Sparse.get_set_same hw b v

theorem State.side_setSide_other {s : State} (hw : s.maps.side.wf 0 = true) {b c : Nat} (v : W64) (h : c ≠ b) :
    (s.setSide b v).side c = s.side c := Sparse.get_set_other hw v h

theorem State.hostWrite_other {s : State} (hw : s.maps.host.wf 0 = true) {a b : Nat} (bs : List Byte)
    (h : b < a ∨ a + bs.length ≤ b) : Sparse.get 0 (s.hostWrite a bs).maps.host b = Sparse.get 0 s.maps.host b :=
  Sparse.get_setList_other hw bs h

/-! Every table stays canonical. -/

theorem Maps.wf_iff (m : Maps) : m.wf = true ↔ m.dev.wf 0 = true ∧ m.host.wf 0 = true ∧ m.flash.wf 0 = true ∧ m.rt.wf 0 = true ∧
    m.side.wf 0 = true ∧ m.reg.wf 0 = true ∧ m.ctr.wf 0 = true ∧ m.snap.wf 0 = true ∧ m.acct.wf 0 = true ∧ m.cbk.wf 0 = true ∧
    m.ft.wf 0 = true ∧ m.seeds.wf 0 = true ∧ m.reuse.wf 0 = true := by
  simp [Maps.wf, and_assoc]

theorem State.setReg_wf {s : State} (h : s.maps.wf = true) (a : Nat) (v : W64) : (s.setReg a v).maps.wf = true := by
  rw [Maps.wf_iff] at h ⊢
  simp only [State.setReg, h, Sparse.wf_set, and_self]

theorem State.setFld_wf {s : State} (h : s.maps.wf = true) (a hi lo v : Nat) : (s.setFld a hi lo v).maps.wf = true :=
  State.setReg_wf h _ _

theorem State.setCtr_wf {s : State} (h : s.maps.wf = true) (a : Nat) (v : W64) : (s.setCtr a v).maps.wf = true := by
  rw [Maps.wf_iff] at h ⊢
  simp only [State.setCtr, h, Sparse.wf_set, and_self]

theorem State.bump_wf {s : State} (h : s.maps.wf = true) (a n : Nat) : (s.bump a n).maps.wf = true := State.setCtr_wf h _ _

theorem State.charge_wf {s : State} (h : s.maps.wf = true) (a n : Nat) : (s.charge a n).maps.wf = true := by
  rw [Maps.wf_iff] at h ⊢
  simp only [State.charge, h, Sparse.wf_set, and_self]

theorem State.take1_wf {s : State} (h : s.maps.wf = true) (a : Nat) : (s.take1 a).maps.wf = true := by
  rw [Maps.wf_iff] at h ⊢
  simp only [State.take1, h, Sparse.wf_set, and_self]

theorem State.setRt_wf {s : State} (h : s.maps.wf = true) (p : Nat) (e : W64) : (s.setRt p e).maps.wf = true := by
  rw [Maps.wf_iff] at h ⊢
  simp only [State.setRt, h, Sparse.wf_set, and_self]

theorem State.setSide_wf {s : State} (h : s.maps.wf = true) (b : Nat) (v : W64) : (s.setSide b v).maps.wf = true := by
  rw [Maps.wf_iff] at h ⊢
  simp only [State.setSide, h, Sparse.wf_set, and_self]

theorem State.hostWrite_wf {s : State} (h : s.maps.wf = true) (a : Nat) (bs : List Byte) : (s.hostWrite a bs).maps.wf = true := by
  rw [Maps.wf_iff] at h ⊢
  simp only [State.hostWrite, h, Sparse.wf_setList, and_self]

theorem State.hostStores_wf {s : State} (h : s.maps.wf = true) (w : List HostStore) : (s.hostStores w).maps.wf = true := by
  rw [Maps.wf_iff] at h ⊢
  simp only [State.hostStores, h, Sparse.wf_setAll, and_self]

theorem State.event_wf {s : State} (h : s.maps.wf = true) (c u p x y : Nat) : (s.event c u p x y).maps.wf = true := by
  unfold State.event
  split
  · exact State.bump_wf h _ _
  · exact h

theorem State.dropPage_wf {s : State} (h : s.maps.wf = true) (page : Nat) : (s.dropPage page).maps.wf = true := by
  have key : ∀ s' : State, s'.maps.wf = true → (Maps.wf { s'.maps with
      dev := Sparse.erase (fun a => a / 262144 == page) s'.maps.dev
      side := Sparse.erase (fun b => b / 64 == page) s'.maps.side
      rt := Sparse.set 0 s'.maps.rt page 0 }) = true := by
    intro s' h
    rw [Maps.wf_iff] at h ⊢
    simp only [h, Sparse.wf_set, Sparse.wf_erase, and_self]
  unfold State.dropPage
  dsimp only
  apply key
  split
  · exact State.bump_wf h _ _
  · exact h

/-- An update applied along a list keeps what each application keeps. -/
theorem foldl_keeps {α β : Type} (P : β → Prop) (f : β → α → β) (h : ∀ b x, P b → P (f b x)) (l : List α) (b : β) (hb : P b) :
    P (l.foldl f b) := by
  induction l generalizing b with
  | nil => exact hb
  | cons x l ih => exact ih (f b x) (h b x hb)

theorem State.compressBlock_wf {s : State} (h : s.maps.wf = true) (b : Nat) : (s.compressBlock b).maps.wf = true := by
  unfold State.compressBlock
  dsimp only
  split
  · exact State.bump_wf (State.bump_wf (State.setSide_wf h _ _) _ _) _ _
  · exact h

theorem State.touchPage_wf {s : State} (h : s.maps.wf = true) (p d : Nat) : (s.touchPage p d).maps.wf = true := by
  unfold State.touchPage
  dsimp only
  repeat' split
  all_goals first | exact h | exact State.setRt_wf h _ _

theorem State.firstWrite_wf {s : State} (h : s.maps.wf = true) (p d : Nat) : (s.firstWrite p d).maps.wf = true := by
  unfold State.firstWrite
  dsimp only
  repeat' split
  all_goals first | exact h | exact State.setRt_wf h _ _

theorem State.inPlace_wf {s : State} (h : s.maps.wf = true) (p n : Nat) : (s.inPlace p n).maps.wf = true := by
  unfold State.inPlace
  dsimp only
  split
  · exact State.bump_wf h _ _
  · exact h

theorem State.refreshLost_wf {s : State} (h : s.maps.wf = true) (page : Nat) : (s.refreshLost page).maps.wf = true := by
  unfold State.refreshLost
  dsimp only
  split
  · exact h
  · exact State.setRt_wf h _ _

theorem State.wholeWrite_wf {s : State} (h : s.maps.wf = true) (b : Nat) : (s.wholeWrite b).maps.wf = true := by
  unfold State.wholeWrite
  dsimp only
  split
  · exact State.refreshLost_wf (State.setSide_wf h _ _) _
  · exact State.setSide_wf h _ _

theorem State.blockWritten_wf {s : State} (h : s.maps.wf = true) (b : Nat) (w : Bool) : (s.blockWritten b w).maps.wf = true := by
  unfold State.blockWritten
  apply State.compressBlock_wf
  dsimp only
  split
  · exact State.wholeWrite_wf h _
  · exact h

/-- Writing into the device virtual range keeps every table canonical. -/
theorem State.devWrite_wf {s : State} (h : s.maps.wf = true) (d : Nat) (t : Option Nat) (w : List (Nat × Byte)) :
    (s.devWrite d t w).maps.wf = true := by
  have h0 : ({ s with maps := { s.maps with dev := Sparse.setAll 0 s.maps.dev w } } : State).maps.wf = true := by
    rw [Maps.wf_iff] at h ⊢
    simp only [h, Sparse.wf_setAll, and_self]
  have hp := fun (s : State) (x : Nat) (h : s.maps.wf = true) => State.touchPage_wf (State.firstWrite_wf h x d) x d
  unfold State.devWrite
  dsimp only
  cases t with
  | none =>
    dsimp only
    apply foldl_keeps (fun s : State => s.maps.wf = true) _ fun s x h => State.blockWritten_wf h _ _
    apply foldl_keeps (fun s : State => s.maps.wf = true) _ fun s x h => State.inPlace_wf h _ _
    exact foldl_keeps (fun s : State => s.maps.wf = true) _ hp _ _ h0
  | some t =>
    dsimp only
    apply foldl_keeps (fun s : State => s.maps.wf = true) _ fun s x h => State.blockWritten_wf h _ _
    apply foldl_keeps (fun s : State => s.maps.wf = true) _ fun s x h => State.inPlace_wf h _ _
    exact foldl_keeps (fun s : State => s.maps.wf = true) _ hp _ _ h0

theorem State.devWriteRun_wf {s : State} (h : s.maps.wf = true) (d : Nat) (t : Option Nat) (a : Nat) (bs : List Byte) :
    (s.devWriteRun d t a bs).maps.wf = true := State.devWrite_wf h _ _ _

/-! Writing into the device virtual range changes the bytes that it names and no other, and no register. -/

theorem foldl_same {α β γ : Type} (g : β → γ) (f : β → α → β) (h : ∀ b x, g (f b x) = g b) (l : List α) (b : β) :
    g (l.foldl f b) = g b := by
  induction l generalizing b with
  | nil => rfl
  | cons x l ih => rw [List.foldl_cons, ih, h]

theorem State.compressBlock_dev (s : State) (b : Nat) : (s.compressBlock b).maps.dev = s.maps.dev := by
  unfold State.compressBlock
  dsimp only
  split <;> rfl

theorem State.touchPage_dev (s : State) (p d : Nat) : (s.touchPage p d).maps.dev = s.maps.dev := by
  unfold State.touchPage
  dsimp only
  repeat' split
  all_goals rfl

theorem State.firstWrite_dev (s : State) (p d : Nat) : (s.firstWrite p d).maps.dev = s.maps.dev := by
  unfold State.firstWrite
  dsimp only
  repeat' split
  all_goals rfl

theorem State.inPlace_dev (s : State) (p n : Nat) : (s.inPlace p n).maps.dev = s.maps.dev := by
  unfold State.inPlace
  dsimp only
  split <;> rfl

theorem State.wholeWrite_dev (s : State) (b : Nat) : (s.wholeWrite b).maps.dev = s.maps.dev := by
  unfold State.wholeWrite State.refreshLost
  dsimp only
  repeat' split
  all_goals rfl

theorem State.blockWritten_dev (s : State) (b : Nat) (w : Bool) : (s.blockWritten b w).maps.dev = s.maps.dev := by
  unfold State.blockWritten
  rw [State.compressBlock_dev]
  dsimp only
  split
  · exact State.wholeWrite_dev s b
  · rfl

theorem State.devWrite_dev (s : State) (d : Nat) (t : Option Nat) (w : List (Nat × Byte)) :
    (s.devWrite d t w).maps.dev = Sparse.setAll 0 s.maps.dev w := by
  have hp := fun (s : State) (x : Nat) => (State.touchPage_dev (s.firstWrite x d) x d).trans (State.firstWrite_dev s x d)
  unfold State.devWrite
  cases t with
  | none =>
    dsimp only
    rw [foldl_same (fun s : State => s.maps.dev) _ fun s x => State.blockWritten_dev s _ _,
      foldl_same (fun s : State => s.maps.dev) _ fun s x => State.inPlace_dev s _ _, foldl_same (fun s : State => s.maps.dev) _ hp]
  | some t =>
    dsimp only
    rw [foldl_same (fun s : State => s.maps.dev) _ fun s x => State.blockWritten_dev s _ _,
      foldl_same (fun s : State => s.maps.dev) _ fun s x => State.inPlace_dev s _ _, foldl_same (fun s : State => s.maps.dev) _ hp]

/-- A byte that a write does not name reads as before. -/
theorem State.devWrite_other {s : State} (h : s.maps.wf = true) (d : Nat) (t : Option Nat) (w : List (Nat × Byte)) {a : Nat}
    (ha : ∀ x ∈ w, x.1 ≠ a) : (s.devWrite d t w).devByte a = s.devByte a := by
  rw [Maps.wf_iff] at h
  rw [State.devByte, State.devWrite_dev, Sparse.get_setAll_other h.1 w ha, State.devByte]

theorem State.queueEntry_wf {s : State} (h : s.maps.wf = true) (p r : Nat) (e : CqEntry) : (s.queueEntry p r e).maps.wf = true := h

end Sys2Proof.Machine
end

