-- ==== Sys2Proof/Laws/PerInstr.lean ====
section
/-! SUPPORT. One lemma for each command, about the command as syntax: the partition that it names exists. -/
set_option Elab.async false
namespace Sys2Proof

/-- The partition that a command names by its number. -/
def Instr.part : Instr → Option Nat
  | .registerWrite _ _ _ _ => none
  | .badRegisterAccess _ _ _ _ => none
  | .snapTake _ _ => none
  | .memRtSnapTake _ => none
  | .rasSbSnapTake _ => none
  | .rasSnapAllTake _ => none
  | .frameTick _ => none
  | .idlePoll _ => none
  | .ringReadComplete p _ _ => some p
  | .graphAdmit p _ _ _ => some p
  | .backlogAdmit p _ => some p
  | .taskAdmit _ _ => none
  | .taskReady _ => none
  | .depFailed _ _ => none
  | .unitIssue _ _ _ => none
  | .virtualTimeUpdate p => some p
  | .sliceStart _ _ _ _ _ => none
  | .sliceHalt _ _ _ => none
  | .rtSlotHaltRaise _ => none
  | .unitHaltAtBoundary _ _ _ => none
  | .rtSlotBegin _ => none
  | .rtWindowEndHalt _ => none
  | .taskComplete _ _ => none
  | .completionEntryWrite p _ => some p
  | .msixModerationExpire p _ => some p
  | .ringEnable _ p _ _ _ => some p
  | .ringDisable _ p _ _ => some p
  | .partSave _ p _ => some p
  | .saveDone p _ => some p
  | .partRestore _ p _ _ => some p
  | .restoreDone p => some p
  | .partStart _ p _ => some p
  | .partReset _ p _ => some p
  | .resetDone p => some p
  | .preemptTask _ => none
  | .product _ => none
  | .tileIssue _ _ _ => none
  | .operandBlockArrive _ _ _ _ => none
  | .chunkComplete _ _ _ => none
  | .scorebookMirrorCopy => none
  | .engineHang _ _ _ => none
  | .tileReexecute _ _ _ => none
  | .accumSpill _ _ _ => none
  | .accumReload _ _ => none
  | .tileDrain _ _ _ => none
  | .tileStoreComplete _ _ => none
  | .escalatedRerun _ _ _ => none
  | .splitkReduce _ _ _ => none
  | .mxeRetire _ _ _ => none
  | .writeAtCheckpoint _ => none
  | .applyPass _ _ _ _ => none
  | .applyRepeat _ _ _ _ => none
  | .vectorProgram _ _ => none
  | .convert _ => none
  | .codebookLoad _ => none
  | .ftLoad _ => none
  | .ftBankWrite _ => none
  | .ftBankSwap _ => none
  | .seedLoad _ => none
  | .rngFill _ => none
  | .reuseGate _ _ => none
  | .finiteCheck _ _ => none
  | .attend _ => none
  | .attendPaged _ => none
  | .appendAttend _ => none
  | .kvAllocRetry _ => none
  | .kvRelease _ => none
  | .kvDeadlockBreak p => some p
  | .attentionKeyBlock _ _ _ _ => none
  | .attentionUnitFinal _ _ _ => none
  | .map _ => none
  | .unmap _ => none
  | .hint _ => none
  | .migrationStart _ _ _ => none
  | .migrationPassEnd _ _ _ => none
  | .sourceFrameReturn _ => none
  | .eviction _ => none
  | .promotion _ _ => none
  | .narrowing _ => none
  | .hpoolBaseWrite _ p _ => some p
  | .hpoolCountWrite _ p _ _ => some p
  | .shrinkDone p => some p
  | .bar2Read _ _ _ _ => none
  | .bar2Write _ _ _ => none
  | .hbmRequest _ _ => none
  | .narrowPathRequest p _ _ _ _ => some p
  | .patrolScrub _ _ _ => none
  | .retrainStart _ _ => none
  | .retrainComplete _ _ _ => none
  | .repairGo _ => none
  | .repairStart _ _ => none
  | .repairComplete _ _ _ => none
  | .taskReexecute _ => none
  | .controlCoreFault _ _ _ _ _ => none
  | .coreRestartComplete _ => none
  | .linkTimeout _ => none
  | .start _ => none
  | .startMessage msg => some msg.p
  | .huddleArrival msg => some msg.p
  | .huddleRelease msg => some msg.p
  | .whistleCount msg => some msg.p
  | .whistleRelease _ => none
  | .startTimeout _ => none
  | .startWithdrawal msg => some msg.p
  | .timingMessage _ => none
  | .gcSlew _ => none
  | .fsyncEdge _ => none
  | .codecOpen _ => none
  | .codecDecode _ _ => none
  | .codecEncode _ => none
  | .codecKeyRequest _ => none
  | .codecRelease _ => none
  | .codecFlush _ => none
  | .codecResume _ => none
  | .codecClose _ => none
  | .codecPicture _ _ => none
  | .hostCallback _ => none
  | .callbackDone _ _ => none
  | .allReduce _ => none
  | .allGather _ => none
  | .reduceScatter _ => none
  | .collBlockReceive _ _ => none
  | .collBlockAck _ _ _ => none
  | .collRouteChange _ => none
  | .flitReceive _ _ _ => none
  | .nakReceive _ _ => none
  | .ackTimeout _ => none
  | .portTrained _ _ _ => none
  | .portRetrainTimer _ => none
  | .linkPortDown _ => none
  | .pwrenRise => none
  | .pwrenFall _ => none
  | .supplyLoss _ => none
  | .perstNAssert => none
  | .pcieLinkUp _ _ => none
  | .pcieLinkDown => none
  | .flrPf0 => none
  | .flrVf _ => none
  | .d3hotEntry _ => none
  | .vfConfigChange _ _ => none
  | .hostCompletionFault _ => none
  | .prepareRemove _ => none
  | .smbusFallback => none
  | .pldmGetSensor _ => none
  | .pldmSetPowerCap _ => none
  | .pldmGetFru => none
  | .spdmGetVersion => none
  | .spdmGetCapabilities => none
  | .spdmNegotiateAlgorithms => none
  | .spdmGetDigests => none
  | .spdmGetCertificate _ _ => none
  | .spdmChallenge _ => none
  | .spdmGetMeasurements _ _ => none
  | .spdmUnsupported => none
  | .stageFw _ _ => none
  | .stageForm _ _ => none
  | .formLoad _ _ => none
  | .formationLoad _ => none
  | .lcTransition _ _ => none
  | .debugOpen _ _ => none
  | .debugClose _ => none
  | .debugTokenExpire => none
  | .secCmdComplete => none
  | .diagHold _ _ => none
  | .diagRun _ _ => none
  | .diagRunComplete _ => none
  | .diagAbort => none
  | .hbmTgStart _ _ _ _ => none
  | .hbmTgStop _ _ _ => none
  | .hbmTgRunDone _ _ => none
  | .scorebookFlush _ => none
  | .flushComplete => none
  | .segmentEraseDone => none
  | .thermalCritical _ _ => none
  | .grantExhausted => none
  | .powerTrip _ => none
  | .thermNDeassert _ _ => none
  | .coreRestartTimeout _ => none
  | .pcControllerFault _ => none
  | .callbackQueueRoom _ _ => none
  | .testHoldScrubDone => none
  | .supplyReturn => none

/-- A well-formed command names a partition of the module, if it names one. -/
def Laws.PartInRange.Statement (i : Instr) : Prop := i.wellFormed = true → ∀ p, i.part = some p → p < 8

theorem Laws.PartInRange.registerWrite fn off bytes value : Laws.PartInRange.Statement (.registerWrite fn off bytes value) := by
  simp [Laws.PartInRange.Statement, Instr.part]
theorem Laws.PartInRange.badRegisterAccess fn off bytes isWrite : Laws.PartInRange.Statement (.badRegisterAccess fn off bytes isWrite) := by
  simp [Laws.PartInRange.Statement, Instr.part]
theorem Laws.PartInRange.snapTake fn off : Laws.PartInRange.Statement (.snapTake fn off) := by
  simp [Laws.PartInRange.Statement, Instr.part]
theorem Laws.PartInRange.memRtSnapTake fn : Laws.PartInRange.Statement (.memRtSnapTake fn) := by
  simp [Laws.PartInRange.Statement, Instr.part]
theorem Laws.PartInRange.rasSbSnapTake fn : Laws.PartInRange.Statement (.rasSbSnapTake fn) := by
  simp [Laws.PartInRange.Statement, Instr.part]
theorem Laws.PartInRange.rasSnapAllTake fn : Laws.PartInRange.Statement (.rasSnapAllTake fn) := by
  simp [Laws.PartInRange.Statement, Instr.part]
theorem Laws.PartInRange.frameTick env : Laws.PartInRange.Statement (.frameTick env) := by
  simp [Laws.PartInRange.Statement, Instr.part]
theorem Laws.PartInRange.idlePoll clocks : Laws.PartInRange.Statement (.idlePoll clocks) := by
  simp [Laws.PartInRange.Statement, Instr.part]
theorem Laws.PartInRange.ringReadComplete p r host : Laws.PartInRange.Statement (.ringReadComplete p r host) := by
  simp [Laws.PartInRange.Statement, Instr.wellFormed, Instr.part, isPart] <;> omega
theorem Laws.PartInRange.graphAdmit p r seq fault : Laws.PartInRange.Statement (.graphAdmit p r seq fault) := by
  simp [Laws.PartInRange.Statement, Instr.wellFormed, Instr.part, isPart] <;> omega
theorem Laws.PartInRange.backlogAdmit p fault : Laws.PartInRange.Statement (.backlogAdmit p fault) := by
  simp [Laws.PartInRange.Statement, Instr.wellFormed, Instr.part, isPart] <;> omega
theorem Laws.PartInRange.taskAdmit tid fault : Laws.PartInRange.Statement (.taskAdmit tid fault) := by
  simp [Laws.PartInRange.Statement, Instr.part]
theorem Laws.PartInRange.taskReady tid : Laws.PartInRange.Statement (.taskReady tid) := by
  simp [Laws.PartInRange.Statement, Instr.part]
theorem Laws.PartInRange.depFailed tid clocks : Laws.PartInRange.Statement (.depFailed tid clocks) := by
  simp [Laws.PartInRange.Statement, Instr.part]
theorem Laws.PartInRange.unitIssue d k waits : Laws.PartInRange.Statement (.unitIssue d k waits) := by
  simp [Laws.PartInRange.Statement, Instr.part]
theorem Laws.PartInRange.virtualTimeUpdate p : Laws.PartInRange.Statement (.virtualTimeUpdate p) := by
  simp [Laws.PartInRange.Statement, Instr.wellFormed, Instr.part, isPart] <;> omega
theorem Laws.PartInRange.sliceStart tid d clocks expect fault : Laws.PartInRange.Statement (.sliceStart tid d clocks expect fault) := by
  simp [Laws.PartInRange.Statement, Instr.part]
theorem Laws.PartInRange.sliceHalt tid d reads : Laws.PartInRange.Statement (.sliceHalt tid d reads) := by
  simp [Laws.PartInRange.Statement, Instr.part]
theorem Laws.PartInRange.rtSlotHaltRaise slot : Laws.PartInRange.Statement (.rtSlotHaltRaise slot) := by
  simp [Laws.PartInRange.Statement, Instr.part]
theorem Laws.PartInRange.unitHaltAtBoundary tid uid read : Laws.PartInRange.Statement (.unitHaltAtBoundary tid uid read) := by
  simp [Laws.PartInRange.Statement, Instr.part]
theorem Laws.PartInRange.rtSlotBegin slot : Laws.PartInRange.Statement (.rtSlotBegin slot) := by
  simp [Laws.PartInRange.Statement, Instr.part]
theorem Laws.PartInRange.rtWindowEndHalt slot : Laws.PartInRange.Statement (.rtWindowEndHalt slot) := by
  simp [Laws.PartInRange.Statement, Instr.part]
theorem Laws.PartInRange.taskComplete tid clocks : Laws.PartInRange.Statement (.taskComplete tid clocks) := by
  simp [Laws.PartInRange.Statement, Instr.part]
theorem Laws.PartInRange.completionEntryWrite p r : Laws.PartInRange.Statement (.completionEntryWrite p r) := by
  simp [Laws.PartInRange.Statement, Instr.wellFormed, Instr.part, isPart] <;> omega
theorem Laws.PartInRange.msixModerationExpire p r : Laws.PartInRange.Statement (.msixModerationExpire p r) := by
  simp [Laws.PartInRange.Statement, Instr.wellFormed, Instr.part, isPart] <;> omega
theorem Laws.PartInRange.ringEnable fn p r value host : Laws.PartInRange.Statement (.ringEnable fn p r value host) := by
  simp [Laws.PartInRange.Statement, Instr.wellFormed, Instr.part, isPart] <;> omega
theorem Laws.PartInRange.ringDisable fn p r value : Laws.PartInRange.Statement (.ringDisable fn p r value) := by
  simp [Laws.PartInRange.Statement, Instr.wellFormed, Instr.part, isPart] <;> omega
theorem Laws.PartInRange.partSave fn p value : Laws.PartInRange.Statement (.partSave fn p value) := by
  simp [Laws.PartInRange.Statement, Instr.wellFormed, Instr.part, isPart] <;> omega
theorem Laws.PartInRange.saveDone p size : Laws.PartInRange.Statement (.saveDone p size) := by
  simp [Laws.PartInRange.Statement, Instr.wellFormed, Instr.part, isPart] <;> omega
theorem Laws.PartInRange.partRestore fn p value host : Laws.PartInRange.Statement (.partRestore fn p value host) := by
  simp [Laws.PartInRange.Statement, Instr.wellFormed, Instr.part, isPart] <;> omega
theorem Laws.PartInRange.restoreDone p : Laws.PartInRange.Statement (.restoreDone p) := by
  simp [Laws.PartInRange.Statement, Instr.wellFormed, Instr.part, isPart] <;> omega
theorem Laws.PartInRange.partStart fn p value : Laws.PartInRange.Statement (.partStart fn p value) := by
  simp [Laws.PartInRange.Statement, Instr.wellFormed, Instr.part, isPart] <;> omega
theorem Laws.PartInRange.partReset fn p value : Laws.PartInRange.Statement (.partReset fn p value) := by
  simp [Laws.PartInRange.Statement, Instr.wellFormed, Instr.part, isPart] <;> omega
theorem Laws.PartInRange.resetDone p : Laws.PartInRange.Statement (.resetDone p) := by
  simp [Laws.PartInRange.Statement, Instr.wellFormed, Instr.part, isPart] <;> omega
theorem Laws.PartInRange.preemptTask tid : Laws.PartInRange.Statement (.preemptTask tid) := by
  simp [Laws.PartInRange.Statement, Instr.part]
theorem Laws.PartInRange.product tid : Laws.PartInRange.Statement (.product tid) := by
  simp [Laws.PartInRange.Statement, Instr.part]
theorem Laws.PartInRange.tileIssue tid uid k : Laws.PartInRange.Statement (.tileIssue tid uid k) := by
  simp [Laws.PartInRange.Statement, Instr.part]
theorem Laws.PartInRange.operandBlockArrive tid uid blk mismatch : Laws.PartInRange.Statement (.operandBlockArrive tid uid blk mismatch) := by
  simp [Laws.PartInRange.Statement, Instr.part]
theorem Laws.PartInRange.chunkComplete tid uid env : Laws.PartInRange.Statement (.chunkComplete tid uid env) := by
  simp [Laws.PartInRange.Statement, Instr.part]
theorem Laws.PartInRange.scorebookMirrorCopy : Laws.PartInRange.Statement (.scorebookMirrorCopy) := by
  simp [Laws.PartInRange.Statement, Instr.part]
theorem Laws.PartInRange.engineHang tid uid late : Laws.PartInRange.Statement (.engineHang tid uid late) := by
  simp [Laws.PartInRange.Statement, Instr.part]
theorem Laws.PartInRange.tileReexecute tid uid k : Laws.PartInRange.Statement (.tileReexecute tid uid k) := by
  simp [Laws.PartInRange.Statement, Instr.part]
theorem Laws.PartInRange.accumSpill tid uid read : Laws.PartInRange.Statement (.accumSpill tid uid read) := by
  simp [Laws.PartInRange.Statement, Instr.part]
theorem Laws.PartInRange.accumReload tid uid : Laws.PartInRange.Statement (.accumReload tid uid) := by
  simp [Laws.PartInRange.Statement, Instr.part]
theorem Laws.PartInRange.tileDrain tid uid env : Laws.PartInRange.Statement (.tileDrain tid uid env) := by
  simp [Laws.PartInRange.Statement, Instr.part]
theorem Laws.PartInRange.tileStoreComplete tid uid : Laws.PartInRange.Statement (.tileStoreComplete tid uid) := by
  simp [Laws.PartInRange.Statement, Instr.part]
theorem Laws.PartInRange.escalatedRerun tid uid k : Laws.PartInRange.Statement (.escalatedRerun tid uid k) := by
  simp [Laws.PartInRange.Statement, Instr.part]
theorem Laws.PartInRange.splitkReduce tid uid env : Laws.PartInRange.Statement (.splitkReduce tid uid env) := by
  simp [Laws.PartInRange.Statement, Instr.part]
theorem Laws.PartInRange.mxeRetire d k gen : Laws.PartInRange.Statement (.mxeRetire d k gen) := by
  simp [Laws.PartInRange.Statement, Instr.part]
theorem Laws.PartInRange.writeAtCheckpoint i : Laws.PartInRange.Statement (.writeAtCheckpoint i) := by
  simp [Laws.PartInRange.Statement, Instr.part]
theorem Laws.PartInRange.applyPass tid b rb env : Laws.PartInRange.Statement (.applyPass tid b rb env) := by
  simp [Laws.PartInRange.Statement, Instr.part]
theorem Laws.PartInRange.applyRepeat tid b rb env : Laws.PartInRange.Statement (.applyRepeat tid b rb env) := by
  simp [Laws.PartInRange.Statement, Instr.part]
theorem Laws.PartInRange.vectorProgram tid env : Laws.PartInRange.Statement (.vectorProgram tid env) := by
  simp [Laws.PartInRange.Statement, Instr.part]
theorem Laws.PartInRange.convert tid : Laws.PartInRange.Statement (.convert tid) := by
  simp [Laws.PartInRange.Statement, Instr.part]
theorem Laws.PartInRange.codebookLoad tid : Laws.PartInRange.Statement (.codebookLoad tid) := by
  simp [Laws.PartInRange.Statement, Instr.part]
theorem Laws.PartInRange.ftLoad tid : Laws.PartInRange.Statement (.ftLoad tid) := by
  simp [Laws.PartInRange.Statement, Instr.part]
theorem Laws.PartInRange.ftBankWrite tid : Laws.PartInRange.Statement (.ftBankWrite tid) := by
  simp [Laws.PartInRange.Statement, Instr.part]
theorem Laws.PartInRange.ftBankSwap tid : Laws.PartInRange.Statement (.ftBankSwap tid) := by
  simp [Laws.PartInRange.Statement, Instr.part]
theorem Laws.PartInRange.seedLoad tid : Laws.PartInRange.Statement (.seedLoad tid) := by
  simp [Laws.PartInRange.Statement, Instr.part]
theorem Laws.PartInRange.rngFill tid : Laws.PartInRange.Statement (.rngFill tid) := by
  simp [Laws.PartInRange.Statement, Instr.part]
theorem Laws.PartInRange.reuseGate tid vxe : Laws.PartInRange.Statement (.reuseGate tid vxe) := by
  simp [Laws.PartInRange.Statement, Instr.part]
theorem Laws.PartInRange.finiteCheck tid vxe : Laws.PartInRange.Statement (.finiteCheck tid vxe) := by
  simp [Laws.PartInRange.Statement, Instr.part]
theorem Laws.PartInRange.attend tid : Laws.PartInRange.Statement (.attend tid) := by
  simp [Laws.PartInRange.Statement, Instr.part]
theorem Laws.PartInRange.attendPaged tid : Laws.PartInRange.Statement (.attendPaged tid) := by
  simp [Laws.PartInRange.Statement, Instr.part]
theorem Laws.PartInRange.appendAttend tid : Laws.PartInRange.Statement (.appendAttend tid) := by
  simp [Laws.PartInRange.Statement, Instr.part]
theorem Laws.PartInRange.kvAllocRetry tid : Laws.PartInRange.Statement (.kvAllocRetry tid) := by
  simp [Laws.PartInRange.Statement, Instr.part]
theorem Laws.PartInRange.kvRelease tid : Laws.PartInRange.Statement (.kvRelease tid) := by
  simp [Laws.PartInRange.Statement, Instr.part]
theorem Laws.PartInRange.kvDeadlockBreak p : Laws.PartInRange.Statement (.kvDeadlockBreak p) := by
  simp [Laws.PartInRange.Statement, Instr.wellFormed, Instr.part, isPart] <;> omega
theorem Laws.PartInRange.attentionKeyBlock tid uid wait env : Laws.PartInRange.Statement (.attentionKeyBlock tid uid wait env) := by
  simp [Laws.PartInRange.Statement, Instr.part]
theorem Laws.PartInRange.attentionUnitFinal tid uid env : Laws.PartInRange.Statement (.attentionUnitFinal tid uid env) := by
  simp [Laws.PartInRange.Statement, Instr.part]
theorem Laws.PartInRange.map tid : Laws.PartInRange.Statement (.map tid) := by
  simp [Laws.PartInRange.Statement, Instr.part]
theorem Laws.PartInRange.unmap tid : Laws.PartInRange.Statement (.unmap tid) := by
  simp [Laws.PartInRange.Statement, Instr.part]
theorem Laws.PartInRange.hint tid : Laws.PartInRange.Statement (.hint tid) := by
  simp [Laws.PartInRange.Statement, Instr.part]
theorem Laws.PartInRange.migrationStart page tier die : Laws.PartInRange.Statement (.migrationStart page tier die) := by
  simp [Laws.PartInRange.Statement, Instr.part]
theorem Laws.PartInRange.migrationPassEnd page stored uncorr : Laws.PartInRange.Statement (.migrationPassEnd page stored uncorr) := by
  simp [Laws.PartInRange.Statement, Instr.part]
theorem Laws.PartInRange.sourceFrameReturn page : Laws.PartInRange.Statement (.sourceFrameReturn page) := by
  simp [Laws.PartInRange.Statement, Instr.part]
theorem Laws.PartInRange.eviction page : Laws.PartInRange.Statement (.eviction page) := by
  simp [Laws.PartInRange.Statement, Instr.part]
theorem Laws.PartInRange.promotion page die : Laws.PartInRange.Statement (.promotion page die) := by
  simp [Laws.PartInRange.Statement, Instr.part]
theorem Laws.PartInRange.narrowing tid : Laws.PartInRange.Statement (.narrowing tid) := by
  simp [Laws.PartInRange.Statement, Instr.part]
theorem Laws.PartInRange.hpoolBaseWrite fn p value : Laws.PartInRange.Statement (.hpoolBaseWrite fn p value) := by
  simp [Laws.PartInRange.Statement, Instr.wellFormed, Instr.part, isPart] <;> omega
theorem Laws.PartInRange.hpoolCountWrite fn p value host : Laws.PartInRange.Statement (.hpoolCountWrite fn p value host) := by
  simp [Laws.PartInRange.Statement, Instr.wellFormed, Instr.part, isPart] <;> omega
theorem Laws.PartInRange.shrinkDone p : Laws.PartInRange.Statement (.shrinkDone p) := by
  simp [Laws.PartInRange.Statement, Instr.wellFormed, Instr.part, isPart] <;> omega
theorem Laws.PartInRange.bar2Read fn off len uncorr : Laws.PartInRange.Statement (.bar2Read fn off len uncorr) := by
  simp [Laws.PartInRange.Statement, Instr.part]
theorem Laws.PartInRange.bar2Write fn off data : Laws.PartInRange.Statement (.bar2Write fn off data) := by
  simp [Laws.PartInRange.Statement, Instr.part]
theorem Laws.PartInRange.hbmRequest pc arrivals : Laws.PartInRange.Statement (.hbmRequest pc arrivals) := by
  simp [Laws.PartInRange.Statement, Instr.part]
theorem Laws.PartInRange.narrowPathRequest p blk sectors errs mismatch : Laws.PartInRange.Statement (.narrowPathRequest p blk sectors errs mismatch) := by
  simp [Laws.PartInRange.Statement, Instr.wellFormed, Instr.part, isPart] <;> omega
theorem Laws.PartInRange.patrolScrub pc line errs : Laws.PartInRange.Statement (.patrolScrub pc line errs) := by
  simp [Laws.PartInRange.Statement, Instr.part]
theorem Laws.PartInRange.retrainStart pc cause : Laws.PartInRange.Statement (.retrainStart pc cause) := by
  simp [Laws.PartInRange.Statement, Instr.part]
theorem Laws.PartInRange.retrainComplete pc clocks ok : Laws.PartInRange.Statement (.retrainComplete pc clocks ok) := by
  simp [Laws.PartInRange.Statement, Instr.part]
theorem Laws.PartInRange.repairGo fn : Laws.PartInRange.Statement (.repairGo fn) := by
  simp [Laws.PartInRange.Statement, Instr.part]
theorem Laws.PartInRange.repairStart pc row : Laws.PartInRange.Statement (.repairStart pc row) := by
  simp [Laws.PartInRange.Statement, Instr.part]
theorem Laws.PartInRange.repairComplete pc clocks errs : Laws.PartInRange.Statement (.repairComplete pc clocks errs) := by
  simp [Laws.PartInRange.Statement, Instr.part]
theorem Laws.PartInRange.taskReexecute tid : Laws.PartInRange.Statement (.taskReexecute tid) := by
  simp [Laws.PartInRange.Statement, Instr.part]
theorem Laws.PartInRange.controlCoreFault core exception waiting pages second : Laws.PartInRange.Statement (.controlCoreFault core exception waiting pages second) := by
  simp [Laws.PartInRange.Statement, Instr.part]
theorem Laws.PartInRange.coreRestartComplete core : Laws.PartInRange.Statement (.coreRestartComplete core) := by
  simp [Laws.PartInRange.Statement, Instr.part]
theorem Laws.PartInRange.linkTimeout tid : Laws.PartInRange.Statement (.linkTimeout tid) := by
  simp [Laws.PartInRange.Statement, Instr.part]
theorem Laws.PartInRange.start tid : Laws.PartInRange.Statement (.start tid) := by
  simp [Laws.PartInRange.Statement, Instr.part]
theorem Laws.PartInRange.startMessage msg : Laws.PartInRange.Statement (.startMessage msg) := by
  simp [Laws.PartInRange.Statement, Instr.wellFormed, Instr.part, isPart] <;> omega
theorem Laws.PartInRange.huddleArrival msg : Laws.PartInRange.Statement (.huddleArrival msg) := by
  simp [Laws.PartInRange.Statement, Instr.wellFormed, Instr.part, isPart] <;> omega
theorem Laws.PartInRange.huddleRelease msg : Laws.PartInRange.Statement (.huddleRelease msg) := by
  simp [Laws.PartInRange.Statement, Instr.wellFormed, Instr.part, isPart] <;> omega
theorem Laws.PartInRange.whistleCount msg : Laws.PartInRange.Statement (.whistleCount msg) := by
  simp [Laws.PartInRange.Statement, Instr.wellFormed, Instr.part, isPart] <;> omega
theorem Laws.PartInRange.whistleRelease tid : Laws.PartInRange.Statement (.whistleRelease tid) := by
  simp [Laws.PartInRange.Statement, Instr.part]
theorem Laws.PartInRange.startTimeout tid : Laws.PartInRange.Statement (.startTimeout tid) := by
  simp [Laws.PartInRange.Statement, Instr.part]
theorem Laws.PartInRange.startWithdrawal msg : Laws.PartInRange.Statement (.startWithdrawal msg) := by
  simp [Laws.PartInRange.Statement, Instr.wellFormed, Instr.part, isPart] <;> omega
theorem Laws.PartInRange.timingMessage msg : Laws.PartInRange.Statement (.timingMessage msg) := by
  simp [Laws.PartInRange.Statement, Instr.part]
theorem Laws.PartInRange.gcSlew clocks : Laws.PartInRange.Statement (.gcSlew clocks) := by
  simp [Laws.PartInRange.Statement, Instr.part]
theorem Laws.PartInRange.fsyncEdge stamp : Laws.PartInRange.Statement (.fsyncEdge stamp) := by
  simp [Laws.PartInRange.Statement, Instr.part]
theorem Laws.PartInRange.codecOpen tid : Laws.PartInRange.Statement (.codecOpen tid) := by
  simp [Laws.PartInRange.Statement, Instr.part]
theorem Laws.PartInRange.codecDecode tid within : Laws.PartInRange.Statement (.codecDecode tid within) := by
  simp [Laws.PartInRange.Statement, Instr.part]
theorem Laws.PartInRange.codecEncode tid : Laws.PartInRange.Statement (.codecEncode tid) := by
  simp [Laws.PartInRange.Statement, Instr.part]
theorem Laws.PartInRange.codecKeyRequest tid : Laws.PartInRange.Statement (.codecKeyRequest tid) := by
  simp [Laws.PartInRange.Statement, Instr.part]
theorem Laws.PartInRange.codecRelease tid : Laws.PartInRange.Statement (.codecRelease tid) := by
  simp [Laws.PartInRange.Statement, Instr.part]
theorem Laws.PartInRange.codecFlush tid : Laws.PartInRange.Statement (.codecFlush tid) := by
  simp [Laws.PartInRange.Statement, Instr.part]
theorem Laws.PartInRange.codecResume tid : Laws.PartInRange.Statement (.codecResume tid) := by
  simp [Laws.PartInRange.Statement, Instr.part]
theorem Laws.PartInRange.codecClose tid : Laws.PartInRange.Statement (.codecClose tid) := by
  simp [Laws.PartInRange.Statement, Instr.part]
theorem Laws.PartInRange.codecPicture tid pic : Laws.PartInRange.Statement (.codecPicture tid pic) := by
  simp [Laws.PartInRange.Statement, Instr.part]
theorem Laws.PartInRange.hostCallback tid : Laws.PartInRange.Statement (.hostCallback tid) := by
  simp [Laws.PartInRange.Statement, Instr.part]
theorem Laws.PartInRange.callbackDone tid value : Laws.PartInRange.Statement (.callbackDone tid value) := by
  simp [Laws.PartInRange.Statement, Instr.part]
theorem Laws.PartInRange.allReduce tid : Laws.PartInRange.Statement (.allReduce tid) := by
  simp [Laws.PartInRange.Statement, Instr.part]
theorem Laws.PartInRange.allGather tid : Laws.PartInRange.Statement (.allGather tid) := by
  simp [Laws.PartInRange.Statement, Instr.part]
theorem Laws.PartInRange.reduceScatter tid : Laws.PartInRange.Statement (.reduceScatter tid) := by
  simp [Laws.PartInRange.Statement, Instr.part]
theorem Laws.PartInRange.collBlockReceive tid blk : Laws.PartInRange.Statement (.collBlockReceive tid blk) := by
  simp [Laws.PartInRange.Statement, Instr.part]
theorem Laws.PartInRange.collBlockAck tid member idx : Laws.PartInRange.Statement (.collBlockAck tid member idx) := by
  simp [Laws.PartInRange.Statement, Instr.part]
theorem Laws.PartInRange.collRouteChange tid : Laws.PartInRange.Statement (.collRouteChange tid) := by
  simp [Laws.PartInRange.Statement, Instr.part]
theorem Laws.PartInRange.flitReceive i f stall : Laws.PartInRange.Statement (.flitReceive i f stall) := by
  simp [Laws.PartInRange.Statement, Instr.part]
theorem Laws.PartInRange.nakReceive i ack : Laws.PartInRange.Statement (.nakReceive i ack) := by
  simp [Laws.PartInRange.Statement, Instr.part]
theorem Laws.PartInRange.ackTimeout i : Laws.PartInRange.Statement (.ackTimeout i) := by
  simp [Laws.PartInRange.Statement, Instr.part]
theorem Laws.PartInRange.portTrained i partner rate : Laws.PartInRange.Statement (.portTrained i partner rate) := by
  simp [Laws.PartInRange.Statement, Instr.part]
theorem Laws.PartInRange.portRetrainTimer i : Laws.PartInRange.Statement (.portRetrainTimer i) := by
  simp [Laws.PartInRange.Statement, Instr.part]
theorem Laws.PartInRange.linkPortDown i : Laws.PartInRange.Statement (.linkPortDown i) := by
  simp [Laws.PartInRange.Statement, Instr.part]
theorem Laws.PartInRange.pwrenRise : Laws.PartInRange.Statement (.pwrenRise) := by
  simp [Laws.PartInRange.Statement, Instr.part]
theorem Laws.PartInRange.pwrenFall programmed : Laws.PartInRange.Statement (.pwrenFall programmed) := by
  simp [Laws.PartInRange.Statement, Instr.part]
theorem Laws.PartInRange.supplyLoss programmed : Laws.PartInRange.Statement (.supplyLoss programmed) := by
  simp [Laws.PartInRange.Statement, Instr.part]
theorem Laws.PartInRange.perstNAssert : Laws.PartInRange.Statement (.perstNAssert) := by
  simp [Laws.PartInRange.Statement, Instr.part]
theorem Laws.PartInRange.pcieLinkUp gen width : Laws.PartInRange.Statement (.pcieLinkUp gen width) := by
  simp [Laws.PartInRange.Statement, Instr.part]
theorem Laws.PartInRange.pcieLinkDown : Laws.PartInRange.Statement (.pcieLinkDown) := by
  simp [Laws.PartInRange.Statement, Instr.part]
theorem Laws.PartInRange.flrPf0 : Laws.PartInRange.Statement (.flrPf0) := by
  simp [Laws.PartInRange.Statement, Instr.part]
theorem Laws.PartInRange.flrVf n : Laws.PartInRange.Statement (.flrVf n) := by
  simp [Laws.PartInRange.Statement, Instr.part]
theorem Laws.PartInRange.d3hotEntry fn : Laws.PartInRange.Statement (.d3hotEntry fn) := by
  simp [Laws.PartInRange.Statement, Instr.part]
theorem Laws.PartInRange.vfConfigChange n master : Laws.PartInRange.Statement (.vfConfigChange n master) := by
  simp [Laws.PartInRange.Statement, Instr.part]
theorem Laws.PartInRange.hostCompletionFault fault : Laws.PartInRange.Statement (.hostCompletionFault fault) := by
  simp [Laws.PartInRange.Statement, Instr.part]
theorem Laws.PartInRange.prepareRemove fn : Laws.PartInRange.Statement (.prepareRemove fn) := by
  simp [Laws.PartInRange.Statement, Instr.part]
theorem Laws.PartInRange.smbusFallback : Laws.PartInRange.Statement (.smbusFallback) := by
  simp [Laws.PartInRange.Statement, Instr.part]
theorem Laws.PartInRange.pldmGetSensor n : Laws.PartInRange.Statement (.pldmGetSensor n) := by
  simp [Laws.PartInRange.Statement, Instr.part]
theorem Laws.PartInRange.pldmSetPowerCap w : Laws.PartInRange.Statement (.pldmSetPowerCap w) := by
  simp [Laws.PartInRange.Statement, Instr.part]
theorem Laws.PartInRange.pldmGetFru : Laws.PartInRange.Statement (.pldmGetFru) := by
  simp [Laws.PartInRange.Statement, Instr.part]
theorem Laws.PartInRange.spdmGetVersion : Laws.PartInRange.Statement (.spdmGetVersion) := by
  simp [Laws.PartInRange.Statement, Instr.part]
theorem Laws.PartInRange.spdmGetCapabilities : Laws.PartInRange.Statement (.spdmGetCapabilities) := by
  simp [Laws.PartInRange.Statement, Instr.part]
theorem Laws.PartInRange.spdmNegotiateAlgorithms : Laws.PartInRange.Statement (.spdmNegotiateAlgorithms) := by
  simp [Laws.PartInRange.Statement, Instr.part]
theorem Laws.PartInRange.spdmGetDigests : Laws.PartInRange.Statement (.spdmGetDigests) := by
  simp [Laws.PartInRange.Statement, Instr.part]
theorem Laws.PartInRange.spdmGetCertificate off len : Laws.PartInRange.Statement (.spdmGetCertificate off len) := by
  simp [Laws.PartInRange.Statement, Instr.part]
theorem Laws.PartInRange.spdmChallenge nonce : Laws.PartInRange.Statement (.spdmChallenge nonce) := by
  simp [Laws.PartInRange.Statement, Instr.part]
theorem Laws.PartInRange.spdmGetMeasurements index nonce : Laws.PartInRange.Statement (.spdmGetMeasurements index nonce) := by
  simp [Laws.PartInRange.Statement, Instr.part]
theorem Laws.PartInRange.spdmUnsupported : Laws.PartInRange.Statement (.spdmUnsupported) := by
  simp [Laws.PartInRange.Statement, Instr.part]
theorem Laws.PartInRange.stageFw fn host : Laws.PartInRange.Statement (.stageFw fn host) := by
  simp [Laws.PartInRange.Statement, Instr.part]
theorem Laws.PartInRange.stageForm fn host : Laws.PartInRange.Statement (.stageForm fn host) := by
  simp [Laws.PartInRange.Statement, Instr.part]
theorem Laws.PartInRange.formLoad fn slot : Laws.PartInRange.Statement (.formLoad fn slot) := by
  simp [Laws.PartInRange.Statement, Instr.part]
theorem Laws.PartInRange.formationLoad kat : Laws.PartInRange.Statement (.formationLoad kat) := by
  simp [Laws.PartInRange.Statement, Instr.part]
theorem Laws.PartInRange.lcTransition fn host : Laws.PartInRange.Statement (.lcTransition fn host) := by
  simp [Laws.PartInRange.Statement, Instr.part]
theorem Laws.PartInRange.debugOpen fn host : Laws.PartInRange.Statement (.debugOpen fn host) := by
  simp [Laws.PartInRange.Statement, Instr.part]
theorem Laws.PartInRange.debugClose fn : Laws.PartInRange.Statement (.debugClose fn) := by
  simp [Laws.PartInRange.Statement, Instr.part]
theorem Laws.PartInRange.debugTokenExpire : Laws.PartInRange.Statement (.debugTokenExpire) := by
  simp [Laws.PartInRange.Statement, Instr.part]
theorem Laws.PartInRange.secCmdComplete : Laws.PartInRange.Statement (.secCmdComplete) := by
  simp [Laws.PartInRange.Statement, Instr.part]
theorem Laws.PartInRange.diagHold fn value : Laws.PartInRange.Statement (.diagHold fn value) := by
  simp [Laws.PartInRange.Statement, Instr.part]
theorem Laws.PartInRange.diagRun fn value : Laws.PartInRange.Statement (.diagRun fn value) := by
  simp [Laws.PartInRange.Statement, Instr.part]
theorem Laws.PartInRange.diagRunComplete fails : Laws.PartInRange.Statement (.diagRunComplete fails) := by
  simp [Laws.PartInRange.Statement, Instr.part]
theorem Laws.PartInRange.diagAbort : Laws.PartInRange.Statement (.diagAbort) := by
  simp [Laws.PartInRange.Statement, Instr.part]
theorem Laws.PartInRange.hbmTgStart fn ch value core : Laws.PartInRange.Statement (.hbmTgStart fn ch value core) := by
  simp [Laws.PartInRange.Statement, Instr.part]
theorem Laws.PartInRange.hbmTgStop fn ch value : Laws.PartInRange.Statement (.hbmTgStop fn ch value) := by
  simp [Laws.PartInRange.Statement, Instr.part]
theorem Laws.PartInRange.hbmTgRunDone ch res : Laws.PartInRange.Statement (.hbmTgRunDone ch res) := by
  simp [Laws.PartInRange.Statement, Instr.part]
theorem Laws.PartInRange.scorebookFlush unreadable : Laws.PartInRange.Statement (.scorebookFlush unreadable) := by
  simp [Laws.PartInRange.Statement, Instr.part]
theorem Laws.PartInRange.flushComplete : Laws.PartInRange.Statement (.flushComplete) := by
  simp [Laws.PartInRange.Statement, Instr.part]
theorem Laws.PartInRange.segmentEraseDone : Laws.PartInRange.Statement (.segmentEraseDone) := by
  simp [Laws.PartInRange.Statement, Instr.part]
theorem Laws.PartInRange.thermalCritical n temp : Laws.PartInRange.Statement (.thermalCritical n temp) := by
  simp [Laws.PartInRange.Statement, Instr.part]
theorem Laws.PartInRange.grantExhausted : Laws.PartInRange.Statement (.grantExhausted) := by
  simp [Laws.PartInRange.Statement, Instr.part]
theorem Laws.PartInRange.powerTrip w : Laws.PartInRange.Statement (.powerTrip w) := by
  simp [Laws.PartInRange.Statement, Instr.part]
theorem Laws.PartInRange.thermNDeassert dieTemps stackTemps : Laws.PartInRange.Statement (.thermNDeassert dieTemps stackTemps) := by
  simp [Laws.PartInRange.Statement, Instr.part]
theorem Laws.PartInRange.coreRestartTimeout core : Laws.PartInRange.Statement (.coreRestartTimeout core) := by
  simp [Laws.PartInRange.Statement, Instr.part]
theorem Laws.PartInRange.pcControllerFault pc : Laws.PartInRange.Statement (.pcControllerFault pc) := by
  simp [Laws.PartInRange.Statement, Instr.part]
theorem Laws.PartInRange.callbackQueueRoom tid consumer : Laws.PartInRange.Statement (.callbackQueueRoom tid consumer) := by
  simp [Laws.PartInRange.Statement, Instr.part]
theorem Laws.PartInRange.testHoldScrubDone : Laws.PartInRange.Statement (.testHoldScrubDone) := by
  simp [Laws.PartInRange.Statement, Instr.part]
theorem Laws.PartInRange.supplyReturn : Laws.PartInRange.Statement (.supplyReturn) := by
  simp [Laws.PartInRange.Statement, Instr.part]

end Sys2Proof
end

