-- ==== Sys2Proof/Tests/Slice0.lean ====
section
/-! SUPPORT. Tests: small states; worked examples of the spec; commands that WellFormed refuses; and for each statement of Obligations a
state and operands that meet the hypotheses of each of its clauses, at boundary values where the clauses meet. Where a hypothesis
turns on a free value of Config, the witness takes that value's fact as its own hypothesis and says so. -/
set_option Elab.async false
namespace Sys2Proof.Tests
open Sys2Proof Sys2Proof.Machine

/-! Small states. -/

/-- The state that an outcome answers. -/
def after (o : Host.Outcome State Fault Refusal) : State := match o with | .next t => t | _ => State.reset

/-- The state with commands in its queue. -/
def queued (l : List Instr) (s : State) : State := { s with pending := l }

/-- The state with `n` virtual functions. -/
def vfs (n : Nat) (s : State) : State := { s with numVfs := n }

/-- The state with residency entries for pages. -/
def pages (l : List (Nat × W64)) (s : State) : State := { s with maps := { s.maps with rt := l } }

/-- A flush holds recording. -/
def recHeld (s : State) : State := { s with sb := { s.sb with held := true } }

/-- Firmware runs and no formation is in force. -/
def fw : State := { boot := .firmware }

/-- Firmware runs a formation: partition 0 owns die 0 and pages 0 to 15, partition 1 die 1 and pages 16 to 31. -/
def up : State :=
  { fw with parts := [{ p := 0, dies := [0], spanPages := 16, hbmFrames := 100, quota := 8, codecCores := 1, codecBufs := 64 },
                      { p := 1, dies := [1], spanBase := 16, spanPages := 16, hbmFrames := 100, quota := 8 }] }.setFld 0x8 18 18 1

/-- The register of the map at an address. -/
def regOf (a : Nat) : RegDef := (regAt a).getD { name := "", base := 0, width := 64 }

/-- A little-endian number put into the device virtual range. -/
def poke (a n v : Nat) (s : State) : State :=
  { s with maps := { s.maps with dev := Sparse.setList 0 s.maps.dev a (leBytes n v) } }

/-- Bytes put into the device virtual range. -/
def pokes (l : List (Nat × Nat × Nat)) (s : State) : State := l.foldl (fun s x => poke x.1 x.2.1 x.2.2 s) s

/-- A little-endian number put into host memory. -/
def hpoke (a n v : Nat) (s : State) : State := s.hostWrite a (leBytes n v)

/-- Ring 0 of partition 0 with 16 entries each way, off and on, and on with a full completion ring, and its read under way. -/
def ringOff : State :=
  ((up.setReg (Addr.sqBase 0 0) 0x10000).setReg (Addr.cqBase 0 0) 0x20000).setReg (Addr.ringCfg 0 0) 0x5000404
def ringOn : State := { ringOff.setFld (Addr.ringCfg 0 0) 17 17 1 with rings := [{ p := 0, r := 0, lost := false }] }
def ringAgain : State := hpoke 0x10008 4 3 (hpoke 0x1000C 4 1 { ringOff with graphs := [{ gid := 0, p := 0, r := 0, seq := 2, addr := 0, arg := 0 }] })
def ringRead : State := { ringOn with reading := [(0, 0, true)] }

/-- A resident HBM page of partition 0 and of partition 1. -/
def hbm0 : W64 := 0x000A000000000000
def hbm1 : W64 := 0x002A000000000000

/-- A graph of one task at 0x1000 with its table at 0x1100 and the descriptor at 0x1200. -/
def g0 : GraphRec := { gid := 0, p := 0, r := 0, seq := 0, addr := 0x1000, arg := 0 }
def gb0 : GraphRec := { g0 with phase := .backlog }
def gMem : State := pokes [(0x1000, 2, 1), (0x1010, 8, 0x1100), (0x1018, 8, 0x1140), (0x1100, 8, 0x1200)]
  (pages [(0, hbm0), (1, hbm0), (16, hbm1)] ringOn)
def gTaken : State := { gMem with graphs := [g0], nextGid := 1 }
def gBack : State := { gMem with graphs := [gb0], nextGid := 1 }
def gBehind : State := { gMem with graphs := [{ g0 with gid := 1, addr := 0x2000, phase := .backlog }, g0], nextGid := 2 }
def gBad : State := poke 0x1000 2 0 gTaken
def gLost : State := gTaken.setSide 1 0x100000000

/-- A ring with kept entries. -/
def cqe (n : Nat) : CqEntry := { user := n, seq := n, idx := 0, status := 1, flags := 1, cyc := 7, frame := 3, aux := 2 }
def ringKept (x : RingRec) (s : State) : State := { s with rings := [x] }

/-- A descriptor of `n` bytes from its fields: offset, bytes, value. -/
def descOf (n : Nat) (l : List (Nat × Nat × Nat)) : List Byte :=
  l.foldl (fun bs x => putBytes bs x.1 (leBytes x.2.1 x.2.2)) (List.replicate n 0)

/-- A product of 2 by 2 over K of 32, BF16 operands at 0x2000 and 0x3000, an FP32 output at 0x4000, and more fields. -/
def prodDesc (l : List (Nat × Nat × Nat)) : List Byte :=
  descOf 256 ([(4, 1, 0xFF), (5, 1, 0xFF), (0x20, 4, 2), (0x24, 4, 2), (0x28, 4, 32), (0x2C, 4, 1), (0x3C, 4, 2), (0x40, 4, 2),
    (0x60, 8, 0x2000), (0x68, 8, 0x3000), (0x78, 8, 0x4000), (0x98, 4, 64), (0x9C, 4, 64), (0xA0, 4, 64)] ++ l)

/-- A task of the graph, and states with its graph admitted. -/
def taskOf (ph : TPhase) (d : List Byte) : TaskRec :=
  { tid := 0, gid := 0, p := 0, r := 0, seq := 0, idx := 0, tenant := 0, descAddr := 0x1200, desc := d, phase := ph }
def withTasks (l : List TaskRec) : State :=
  { gMem with graphs := [{ g0 with phase := .admitted, ntasks := 1 }], nextGid := 1, tasks := l, nextTid := 4 }
def withDesc (d : List Byte) (s : State) : State :=
  { s with maps := { s.maps with dev := Sparse.setList 0 s.maps.dev 0x1200 d } }

/-- A fresh product task, and fresh tasks that are refused. -/
def pFresh : State := withDesc (prodDesc []) (withTasks [taskOf .fresh []])
def pUnlisted : State := withDesc (prodDesc [(1, 1, 1)]) (withTasks [taskOf .fresh []])
def pOutside : State := withDesc (prodDesc [(0x60, 8, 0x400000)]) (withTasks [taskOf .fresh []])
/-- A slice on die 0 with an effective extent. -/
def onDie (n : Nat) : SliceRec := { die := 0, len := n, frame := 0 }
/-- A product in flight: one tile, its slice on die 0. -/
def pUnit : UnitRec := { uid := 0, last := 1 }
def pTask : TaskRec := { taskOf .running (prodDesc []) with units := [pUnit], slices := [onDie 4294967296], plan := some ⟨1, 1, 16, 1⟩ }
def pRun : State := withTasks [pTask]
/-- A task with a predecessor, by their statuses. -/
def pair (st : Nat) : State :=
  withTasks [{ taskOf .done (prodDesc []) with status := st },
             { taskOf .waiting (prodDesc [(0x78, 8, 0x6000)]) with tid := 1, idx := 1, deps := [0] }]
def task1 : TaskRec := { taskOf .waiting (prodDesc [(0x78, 8, 0x6000)]) with tid := 1, idx := 1, deps := [0] }
def task0 (st : Nat) : TaskRec := { taskOf .done (prodDesc []) with status := st }
/-- A task whose outcome is decided. -/
def ended (st fl : Nat) : TaskRec := { taskOf .ended (prodDesc []) with status := st, flags := fl }
/-- A task that ran and failed, and one at work on the same buffer with no order between the two. -/
def failed : TaskRec := { ended 0x21 1 with ran := true }
def rival : TaskRec := { taskOf .running (prodDesc []) with tid := 1, idx := 1 }
/-- A slot of the cyclic table for die 0 of partition 0. -/
def slotted (i : Nat) (s : State) : State := s.setReg (0x100100 + 8 * i) 0x801
def opened (l : List Nat) (s : State) : State := { s with slotsOn := l }
def tenanted (l : List TenantRec) (s : State) : State := { s with tenants := l }
/-- A product that starts its first slice, one that splits, one with a lost length word, and one with an issued tile. -/
def pIdle (l : List (Nat × Nat × Nat)) (us : List UnitRec) : TaskRec := { taskOf .running (prodDesc l) with units := us }
def pSplit : TaskRec := pIdle [(0x28, 4, 1024), (0x98, 4, 2048), (0x9C, 4, 2048)] [{ uid := 0, last := 32 }]
def pLen : TaskRec := pIdle [(0x30, 8, 0x4000), (0xB0, 8, 0x5000)] [pUnit]
def lostLen : State := (withTasks [pLen]).setSide 5 0x100000000
def lenIs (n : Nat) : State := poke 0x5000 4 n (withTasks [pLen])
def pIssued : TaskRec := { pTask with units := [{ pUnit with phase := .issued, attempt := 1, acc := [[]] }] }
def pHalted : TaskRec := { pIssued with halts := [(0, false)] }
/-- The tick counter, and tiles in the middle of K: at the end of a panel of one chunk, and not. -/
def frameNo (n : Nat) (s : State) : State := s.setReg 0x100008 (BitVec.ofNat 64 n)
def uMidK : UnitRec := { pUnit with last := 2, next := 1, phase := .issued, attempt := 1, acc := [List.replicate 4 ⟨f32One, f32Zero⟩], arrived := [2, 3] }
def pMidK : TaskRec := { pTask with desc := prodDesc [(0x28, 4, 64), (0x30, 8, 0x101000002), (0x98, 4, 128), (0x9C, 4, 128)], units := [uMidK], halts := [(0, true)] }
def pMidPanel : TaskRec := { pMidK with desc := prodDesc [(0x28, 4, 64), (0x98, 4, 128), (0x9C, 4, 128)] }
/-- A product whose only unit is abandoned, beside one whose store has begun. -/
def pAbandoned : TaskRec :=
  { pTask with units := [{ pUnit with phase := .abandoned, fails := 3, moved := true }, { pUnit with uid := 1, ct := 1, phase := .drained }] }
/-- An attention task that runs. -/
def aRunning : TaskRec := { taskOf .running (descOf 256 [(0, 1, 1)]) with units := [pUnit], slices := [onDie 1] }
/-- A product whose tile is in a given phase, with its blocks arrived, and its unit. -/
def unitIn (ph : UPhase) : UnitRec :=
  { pUnit with phase := ph, attempt := 1, acc := [List.replicate 4 ⟨f32Zero, f32Zero⟩], arrived := [2, 3], len := 4294967296 }
def prodIn (l : List (Nat × Nat × Nat)) (us : List UnitRec) : TaskRec :=
  { taskOf .running (prodDesc l) with units := us, slices := [onDie 4294967296], plan := some ⟨1, 1, 16, 1⟩ }
def uIssued : UnitRec := { unitIn .issued with acc := [], arrived := [] }
def uSpilled : UnitRec := { uIssued with spilled := true, held := 65536 }
def uMoved : UnitRec := { uIssued with fails := 2, moved := true }
def uHalted : UnitRec := { unitIn .halted with eng := 16 }
def uFailed : UnitRec := { unitIn .failed with redo := 2, movedFrom := 0, fails := 2, moved := true }
def uPart : UnitRec := { unitIn .drained with uid := 1, part := 1 }
def uPart1 : UnitRec := { unitIn .summed with uid := 1, part := 1 }
def uSat (n : Nat) : UnitRec := { unitIn .drained with sat := n }
def uSatMoved : UnitRec := { unitIn .drained with moved := true, movedFrom := 3 }
def uStaged (j : Bool) : UnitRec := { unitIn .staged with acc := [], staged := [[f32One, f32One], [f32One, f32One]], judged := j }
def uStaged1 : UnitRec := { uStaged false with uid := 1, ct := 1 }
def uReady : UnitRec := { unitIn .issued with acc := [] }
def uReadyMoved : UnitRec := { uReady with fails := 2, moved := true }
/-- Every tile store frame of partition 0 is set aside for kept pages. -/
def allKept (s : State) : State := { s with parts := [{ p := 0, dies := [0], spanPages := 16, hbmFrames := 100, keepPages := 992 }] }
def uBare : UnitRec := { unitIn .issued with arrived := [3] }
def badSlot (r c : Nat) : DrainEnv := ⟨15, 40, none, none, 0, 0, { bad := some (r, c) }, 0⟩
def drainEnv : DrainEnv := ⟨15, 40, none, none, 0, 0, {}, 0⟩
def inRun (x : TaskRec) : State := withTasks [x]
def exhausted (x : TaskRec) : TaskRec := { x with retries := 2 }
/-- A chain program of one move, one with a deferred statistic after it, and tasks that have them. -/
def moveProg : ChainProg := chainOf fun i => if i = 0 then 1 else if i = 16 then 0x04000000 else 0
def statProg : ChainProg := chainOf fun i => if i = 0 then 0x902 else if i = 16 then 0x04000000 else if i = 17 then 0x80000001 else 0
def withPro (x : TaskRec) : TaskRec := { x with pro := some moveProg }
def withStat (x : TaskRec) : TaskRec := { x with epi := some statProg, defers := true }
/-- Sixteen column tiles under COL_PANEL with G = 16 and one chunk each: fifteen open, the first of them furthest ahead, and one to come. -/
def wideDesc : List Byte := prodDesc [(0x24, 4, 2048), (0x28, 4, 64), (0x30, 8, 0x110000002), (0x98, 4, 128), (0x9C, 4, 128)]
def wideUnit (j : Nat) : UnitRec :=
  if j = 0 then { pUnit with last := 2, next := 1, phase := .issued, attempt := 1, acc := [[]] }
  else if j < 15 then { pUnit with uid := j, ct := j, last := 2, phase := .issued, attempt := 1 } else { pUnit with uid := j, ct := j, last := 2 }
def wide : TaskRec := { pTask with desc := wideDesc, units := (List.range 16).map wideUnit }
/-- A write of the tile's row in flight, from a valid tag, a stale attempt, an invalid tag. -/
def flight (tag att : Nat) : Flight :=
  { die := 0, what := 0, eng := 0, tag := tag, tid := 0, uid := 0, attempt := att, bytes := [(0x4000, 7#8), (0x4001, 8#8)] }
def flying (tag att : Nat) : State := { inRun (prodIn [] [unitIn .drained]) with flights := [flight tag att] }
/-- A migration of page 0 holds its writes. -/
def heldPage (s : State) : State := { s.setRt 0 0x000E400000000000 with migs := [{ page := 0, tier := 1, die := 0, frame := 5, passes := 4, held := true }] }
/-- Engine 3 of die 0 is to be retired, with a standby MXE 16 and without. -/
def retiring : State :=
  ({ inRun (prodIn [] [{ uIssued with eng := 3 }]) with engs := [{ die := 0, what := 0, eng := 3, fails := 2, due := true }] }.setReg
    (Addr.mxe 0 3 0) 0x10000FF00)
def retiringBusy : State :=
  { retiring with tasks := [prodIn [] [{ unitIn .drained with eng := 3 }]], flights := [{ flight 1 1 with eng := 3 }] }
def retiringSub : State := retiring.setReg (Addr.mxe 0 16 0) 0xFF01

/-- A ready task of kind `k` and operation `o` with more descriptor fields, alone in a module. -/
def job (n k o : Nat) (l : List (Nat × Nat × Nat)) : TaskRec :=
  taskOf .ready (descOf n ([(0, 1, k), (1, 1, o), (4, 1, 0xFF), (5, 1, 0xFF)] ++ l))
/-- The memory of a job: a codebook or a seed block at 0x2000 and a chain program of one move at 0x5000. -/
def jobMem : State := pokes [(0x5000, 4, 0x201), (0x5040, 4, 0x04000000)] (withTasks [])
def jobRun (x : TaskRec) : State := { jobMem with tasks := [x] }
def cvJob (l : List (Nat × Nat × Nat)) : TaskRec :=
  job 128 3 0 ([(0x20, 4, 1), (0x24, 4, 32), (0x28, 4, 1), (0x30, 4, 2), (0x34, 4, 2), (0x40, 8, 0x2000), (0x48, 8, 0x4000),
    (0x60, 4, 64), (0x64, 4, 64)] ++ l)
def cbJob (k : Nat) : TaskRec := job 64 3 2 [(0x20, 8, 0x2000), (0x2C, 4, k)]
def ftJob (ph : TPhase) (m : Nat) : TaskRec := { job 64 3 3 [(0x20, 8, 0x2000), (0x28, 4, 64)] with phase := ph, mark := m }
/-- Bank 0 of die 0 with every descriptor written and not valid. -/
def noTables (s : State) : State := { s with maps := { s.maps with ft := (List.range 64).map fun f => (32 * f, 0x100000000) } }
def seedJob (l : List (Nat × Nat × Nat)) : TaskRec := job 64 3 4 ([(0x20, 8, 0x2000)] ++ l)
def fillJob (l : List (Nat × Nat × Nat)) : TaskRec := job 256 3 5 ([(0x20, 8, 5), (0x40, 8, 0x4000)] ++ l)
def gateJob (l : List (Nat × Nat × Nat)) : TaskRec :=
  job 256 2 1 ([(6, 1, 255), (0x20, 4, 1), (0x24, 4, 1), (0x28, 4, 32), (0x30, 4, 0xFF0001), (0x3C, 4, 2), (0x48, 8, 0x2000),
    (0x50, 8, 0x3000), (0x58, 4, 64), (0x80, 8, 0x4000)] ++ l)
def checkJob (l : List (Nat × Nat × Nat)) : TaskRec :=
  job 256 2 2 ([(0x20, 4, 1), (0x24, 4, 1), (0x28, 4, 7), (0x30, 8, 0x4000), (0x38, 8, 0x4004), (0x40, 8, 0x2000), (0x48, 8, 32),
    (0x50, 4, 2)] ++ l)
def vecJob (l : List (Nat × Nat × Nat)) : TaskRec :=
  jobMem.readPrograms (job 256 2 0 ([(0x20, 4, 1), (0x24, 4, 32), (0x28, 4, 1), (0x30, 8, 0x5000), (0x40, 8, 0x2000), (0x48, 8, 0x4000),
    (0x60, 4, 2), (0x70, 4, 64), (0x74, 4, 128)] ++ l))
/-- The same with a tile that has met an error, after `n` re-executions. -/
def vecAgain (n : Nat) : TaskRec := { vecJob [] with vfails := [{ tile := 0, die := 0, bank := 0, errs := 1 }], retries := n }
/-- Page 0 lies in host memory, and block 2 fails its check. -/
def inHost (s : State) : State := s.setRt 0 0x000B000000000000
def foul2 (s : State) : State := s.setSide 2 1
/-- The same with block 2 lost, and with an element at 0x2000 that is infinite. -/
def lost2 (s : State) : State := s.setSide 2 0x100000000
def infAt (s : State) : State := poke 0x2000 2 0x7F80 s
/-- A seed block for streams 0 and 15, and a codebook that breaks R49. -/
def seedMem (s : State) : State := pokes [(0x2000, 2, 0x8001), (0x2008, 8, 11), (0x2080, 8, 12)] s
def badBook (s : State) : State := poke 0x2000 4 0x7F800000 s

/-- Attention of one query row over 256 keys, and the same with a pool at 0x10000 and one record at 0x10100. -/
def atJob (ph : TPhase) (o : Nat) (l : List (Nat × Nat × Nat)) : TaskRec :=
  { job 256 1 0 ([(0x20, 4, 1), (0x28, 2, 32), (0x2A, 2, 1), (0x2C, 2, 1), (0x2E, 2, 1), (0x30, 8, o), (0x38, 4, 1), (0x3C, 4, 0x3F800000),
    (0x40, 4, 2), (0x4C, 4, 2), (0x70, 8, 0x2000), (0x88, 8, 0xC000), (0xC8, 4, 64), (0xCC, 4, 64)] ++ l) with phase := ph }
def atFull (ph : TPhase) (l : List (Nat × Nat × Nat)) : TaskRec :=
  atJob ph 0x40 ([(0x24, 4, 256), (0x44, 4, 2), (0x48, 4, 2), (0x78, 8, 0x3000), (0x80, 8, 0x8000), (0xD0, 4, 64), (0xD4, 4, 64)] ++ l)
def atPaged (ph : TPhase) (o : Nat) (l : List (Nat × Nat × Nat)) : TaskRec :=
  atJob ph o ([(0x78, 8, 0x10000), (0x80, 8, 0x10100)] ++ l)
def atAppend (ph : TPhase) : TaskRec :=
  atPaged ph 2 [(0x6C, 4, 1), (0xB8, 8, 0x3000), (0xC0, 8, 0x8000), (0xD0, 4, 64), (0xD4, 4, 64)]
/-- A pool of one page, held by entry 0 of a record of `n` tokens whose list holds `e`, known to firmware. -/
def kvMem (n e : Nat) (x : TaskRec) : State :=
  { pokes [(0x10000, 8, 0x14000), (0x10008, 8, 0x18000), (0x10010, 8, 0x10200), (0x10018, 4, 1), (0x1001C, 2, 64), (0x1001E, 2, 64),
      (0x10020, 4, 2), (0x10024, 4, 2), (0x10028, 4, 0x3F800000), (0x1002C, 4, 0x3F800000), (0x10100, 4, n), (0x10108, 8, 0x10300),
      (0x10110, 4, 8192), (0x10200, 8, 0x10300), (0x10300, 4, e)] (withTasks [x]) with kvRecs := [{ entry := 0x10300, record := 0x10100, pool := 0x10000 }] }
/-- The page list's entry 0 holds page 0, and it holds none. -/
def held : Nat := 0x80000000
/-- The state with no attention pipeline of die 0 in service. -/
def noPipes (s : State) : State := (List.range 8).foldl (fun s r => s.setFld (Addr.atp 0 r 0) 3 0 1) s
/-- Stalled tasks, and the frames for which partition 0 has been stuck. -/
def stalledAt (m : Nat) (x : TaskRec) : TaskRec := { x with phase := .stalled, mark := m }
def stuckFor (n : Nat) (s : State) : State := { s with kvStuck := [(0, n)] }
/-- A unit of attention on pipeline 7 of die 0 before key block `j`, and at its end. -/
def atUnit (ph : UPhase) (j : Nat) : UnitRec :=
  { uid := 0, eng := 7, attempt := 1, next := j, last := 2, len := 256, phase := ph, bank := some 0
    acc := [[⟨f32Inf true, f32Zero⟩], [⟨f32Zero, f32Zero⟩], [⟨f32Zero, f32Zero⟩]] }
def atTask (l : List (Nat × Nat × Nat)) (u : UnitRec) : TaskRec := { atFull .running l with units := [u], slices := [onDie 256] }
def atSummed : UnitRec := { atUnit .summed 2 with arrived := [2, 3, 4, 8, 9] }
def atEngines (s : State) : State := (s.setFld (Addr.atp 0 7 0) 23 16 1).setFld (Addr.atp 0 7 0) 15 8 16
def atHas (j : Nat) : UnitRec := { atUnit .issued j with arrived := [2, 3, 4, 8, 9] }
def atBadAppend : TaskRec := atPaged .ready 2 [(0x6C, 4, 2), (0xB8, 8, 0x3000), (0xC0, 8, 0x8000), (0xD0, 4, 64), (0xD4, 4, 64)]
def rlBad : TaskRec := job 256 1 0 [(0x30, 8, 3), (0x38, 4, 1), (0x78, 8, 0x10000), (0x80, 8, 0x10101)]
/-- The pages of an append secured, and the state in which it goes on. -/
def kvSecured (x : TaskRec) (s : State) : State × Bool := s.secureAll x.p (s.kvPool x) (s.appendEntries x)
def kvReady (x : TaskRec) (s : State) : State := (kvSecured x s).1.kvServed x .ready
/-- A pool with its page free, for a stalled append. -/
def kvRoom : State :=
  { pokes [(0x10030, 4, 1), (0x10200, 8, 0)] (kvMem 0 0 (stalledAt 0 (atAppend .ready))) with kvRecs := [], kvWait := [0] }
/-- A release of the record's pages, and a fresh paged attention whose descriptor stands in memory. -/
def rlJob : TaskRec := job 256 1 0 [(0x30, 8, 3), (0x38, 4, 1), (0x78, 8, 0x10000), (0x80, 8, 0x10100)]
def kvBad : State := withDesc (atPaged .fresh 1 [(0x2C, 2, 0)]).desc (kvMem 1 held (taskOf .fresh []))
def kvFresh : State := withDesc (atPaged .fresh 1 []).desc (kvMem 1 held (taskOf .fresh []))

/-- A residency operation on `n` pages from page `pg`, and the state with its list at 0x2000. -/
def resJob (o n at_ m : Nat) : TaskRec := job 64 3 o [(0x20, 8, 0x2000), (0x28, 4, n), (0x30, 4, at_), (0x34, 4, m)]
def resMem (pg n : Nat) (x : TaskRec) : State := pokes [(0x2000, 8, pg * 262144), (0x2008, 4, n)] (withTasks [x])
/-- Page `pg` with another entry. -/
def entry (pg : Nat) (e : W64) (s : State) : State := s.setRt pg e
/-- The old frame of a page that has moved, the frame known to be sick, and a migration of page 0 in its fourth pass. -/
def oldFrame : FrameRec := { page := 0, p := 0, tier := 2, die := 0, frame := 0 }
def leaving (sick : List FrameRec) : State := { gMem with frames := [oldFrame], sick := sick }
def moveOf (dirty : List Nat) : MigRec := { page := 0, tier := 1, die := 0, frame := 5, dirty := dirty, passes := 3 }
def moving (dirty : List Nat) : State := { gMem.setRt 0 0x000E400000000000 with migs := [moveOf dirty] }
/-- Page 0 used by die 0 in the last frame, and the HBM pool of partition 0 at its low watermark with host frames. -/
def usedBy : State := { gMem with touchedPrev := [(0, 0)] }
def tight : State := (gMem.setFld (Addr.memp 0 0x30) 23 0 4).setCtr (Addr.memp 0 0x18) 0x00FF000000000000
/-- An eviction pool above its watermarks, and page 0 waiting for a move into the tile store. -/
def slack : State := { (gMem.setFld (Addr.memp 0 0x30) 23 0 4) with evicting := [(0, 2, 0)] }
def callsIn : State := { gMem with moves := [{ page := 0, tier := 1, die := 0, keep := false }] }
/-- An ended task whose block 3 of NARROW page 0 is due, with one 1.5 in it. -/
def narrowing : State :=
  { poke 0x3002 2 0x3FC0 ((withTasks [taskOf .ended (prodDesc [])]).setRt 0 0x000A010000000000) with narrowDue := [(0, 3)] }
/-- The host pool of partition 0 with `n` frames, and with page 2 of HBM. -/
def pool (n : Nat) : State := gMem.setFld (Addr.memp 0 0x30) 23 0 n
def shrinking : State := (pool 3).setFld (Addr.memp 0 0x34) 0 0 1
def hostPage (f : Nat) : W64 := 0x000B000000000000 + BitVec.ofNat 64 f
/-- One host frame, and more pages than HBM frames. -/
def full : State := { (pool 1).setRt 2 hbm0 with badFrames := List.replicate 98 oldFrame }

/-- A request to line 1 of pseudo-channel 497, which holds the last granules of page 0, with its word's error. -/
def hbmReq (op : HbmOp) (l : List WordErr) : HbmReq :=
  { pc := 497, line := 1, first := 0, n := 4, op := op, src := .firmware, blk := 63, errs := l }
/-- A pseudo-channel in a state, with a record, with a due row, and with requests held. -/
def pcIn (n st : Nat) (s : State) : State := s.setFld (Addr.hbmPc n 0) 3 0 st
def pcKnown (x : HbmPcRec) (s : State) : State := { s with hbmPcs := [x] }
def rowKnown (x : HbmRow) (s : State) : State := { s with hbmRows := [x] }
def dueRow (pc row : Nat) (s : State) : State := { s with hbmDue := [(pc, row), (8, 3)] }
def holdReqs (n : Nat) (s : State) : State := { s with hbmHold := List.replicate n (hbmReq .write []) }
/-- Requests to sectors of the line from other senders, two of them waiting; and page 0 on its way from host into frame 0 of HBM. -/
def hbmFrom (x : HbmFor) (k : Nat) : HbmReq := { hbmReq .read [] with src := x, first := 2 * k, n := 2 }
def urgent : State := { gMem with hbmWait := [hbmFrom .narrow 0, hbmFrom .firmware 1] }
def intoHbm : State := { gMem.setRt 0 0x000F800000000000 with migs := [{ page := 0, tier := 2, die := 0, frame := 0 }] }
/-- A threshold of three errors for repair and for retraining, and no test hold. -/
def limits (s : State) : State := ((s.setFld 0x300008 31 24 3).setFld 0x300008 23 16 2).setFld 0x300008 48 48 0
def spares (n : Nat) (s : State) : State := s.setFld (Addr.hbmPc 497 0) 31 16 n

/-- A core that restarts, a task whose core has failed before, and one that waits. -/
def restart7 : State := up.setFld 0x700008 15 15 1
def oneFault : TaskRec := { pTask with coreFaults := 1 }
def waitingTask : TaskRec := task1
def uIssuedF (n : Nat) : UnitRec := { uIssued with fouls := n }
/-- A product that reads the page of a pool, whose first block is lost and whose record has a recompute graph. -/
def prodKv : TaskRec := prodIn [(0x60, 8, 0x14000)] [uIssued]
def lostKv : State := (poke 0x10118 8 0x1000 (kvMem 1 held prodKv)).setSide 20 0x100000000

/-- A START of partition 0 with `n` members listed at 0x2000, as a ready and a running task, and its memory: members a and b. -/
def stJob (ph : TPhase) (n : Nat) : TaskRec :=
  { job 64 5 0x20 [(0x20, 2, 9), (0x22, 2, n), (0x24, 4, 5), (0x30, 8, 0x2000)] with phase := ph }
def stMem (a b : Nat) (x : TaskRec) : State := pokes [(0x2000, 4, a), (0x2004, 4, b)] (withTasks [x])
/-- The record of a start that runs, by its method and list, and the state with it. -/
def stRec (m : Nat) (l : List Nat) : StartRec := { tid := 0, group := 9, seq := 5, p := 0, method := m, list := l }
def stRun (r : StartRec) : State := { stMem 0 1 (stJob .running 2) with starts := [r] }
def stMsg (k : StartKind) (m c : Nat) (l : List Nat) : StartMsg :=
  { kind := k, group := 9, seq := 5, p := 0, method := m, list := l, sender := 1, count := c }
def aimed (m : Nat) (l : List Nat) (c : Nat) : StartRec := { stRec m l with target := some c }
def gc (n : W64) (s : State) : State := s.setReg 0x900008 n

/-- The environment of a tick. -/
def tickEnv (die hbm power : Nat) : TickEnv :=
  { clocks := 2500000, power := power, vin := 540, iin := 100, energy := 7, dieTemps := List.replicate 20 die, stackTemps := List.replicate 8 hbm,
    cqFull := [(7, 5)], waits := [] }
/-- A module at a tick: ring 0 enabled, a charge to a tenant, pages of age 255 and 3, an FSYNC slip. -/
def atTick : State :=
  { (ringOn.charge (Addr.acct 7 255 3) 9) with touched := [(0, 0)] }
def aged : State := (atTick.setRt 0 0xFF0A000000000000).setRt 1 0x030A000000000000
/-- A follower with port 23 active, and one that has acquired the count. -/
def follower : State :=
  (((up.setFld 0x900020 57 57 1).setFld 0x900020 56 52 23).setFld (Addr.port 23 0) 3 0 2).setFld (Addr.port 23 0) 44 43 2
def acquired (o : Int) : State := { follower with gcAcquired := true, gcOffset := o }
/-- The second frame of a formation, with a period of 100 µs and its tick moved by an FSYNC error, or under GCOUNT. -/
def second (src : Nat) (m : Int) : State :=
  { ((aged.setReg 0x100008 1).setFld 0x100000 14 0 100).setFld 0x900020 59 58 src with fsync := { move := m } }
def fsyncIn : State := up.setFld 0x900020 59 58 1
def wait0 : TaskRec := { task1 with tid := 0 }
def arrived1 : StartRec := { stRec 0 [0, 1] with arrivals := [(0, 7)] }
def fwNone : State := fw

/-- Codec task of operation `o`, its session at 0x6000, and an OPEN of an encoder with 4 buffers or a decoder with `n`. -/
def cdJob (n o : Nat) (l : List (Nat × Nat × Nat)) : TaskRec := job n 4 o ([(0x20, 8, 0x6000)] ++ l)
def openJob (dir n : Nat) (l : List (Nat × Nat × Nat)) : TaskRec :=
  cdJob 256 0 ([(0x28, 1, 1), (0x29, 1, dir), (0x2A, 2, 1), (0x2E, 1, 8), (0x2F, 1, 1), (0x30, 2, 64), (0x32, 2, 64), (0x34, 2, n),
    (0x38, 1, dir), (0x48, 8, 0x80000)] ++ l)
/-- A module with a core and buffers for partition 0, its pool pinned, a session, and a task. -/
def cdMem (ss : List SessRec) (st : Nat) (x : TaskRec) : State :=
  { (poke 0x6000 4 st ((pages [(0, hbm0), (1, hbm0), (2, 0x000A040000000000), (3, 0x000A040000000000), (4, 0x000A040000000000),
      (5, 0x000A040000000000)] (withTasks [x])).setReg 0x400100 0x10040)) with sessions := ss }
def sess (dir : Nat) (l : List (Nat × Nat × Nat)) (ms : List BufMark) : SessRec :=
  { addr := 0x6000, p := 0, desc := (openJob dir ms.length l).desc, marks := ms }
def marks4 : List BufMark := [{ short := true }, { out := true }, { long := true, concealed := true }, {}]
def marksFull : List BufMark := [{ short := true }]
def decJob (l : List (Nat × Nat × Nat)) : TaskRec :=
  cdJob 128 1 ([(0x2A, 1, 1), (0x2C, 4, 0x21), (0x30, 8, 0x7000), (0x38, 4, 64), (0x40, 8, 0x8000), (0x48, 4, 64), (0x4C, 4, 32), (0x50, 2, 1),
    (0x58, 8, 0xA000)] ++ l)
def encJob (o : Nat) (l : List (Nat × Nat × Nat)) : TaskRec :=
  cdJob 128 o ([(0x2A, 1, 1), (0x2C, 4, 0x21), (0x30, 8, 0x7000), (0x38, 4, 64), (0x40, 8, 0x8000), (0x48, 4, 64), (0x58, 8, 0xA000)] ++ l)
def runs (ws : List Nat) (x : TaskRec) : TaskRec := { x with phase := .running, words := ws }
def picOf (last : Bool) : CodecPic :=
  { wait := 3, missing := 0, syntaxErrs := 1, refs := [2], random := false, takes := true, short := [3], long := [0], outs := [], coded := [],
    coreErr := none, foul := none, last := last }
def codedPic (l : List PicCoded) : CodecPic := { picOf true with coded := l }
def coreless (s : State) : State := s.setFld 0x400000 1 0 1
def coreErrPic : CodecPic := { picOf true with coreErr := some 0 }
def missingPic : CodecPic := { picOf true with missing := 1 }
def strict : SessRec := sess 0 [(0x36, 1, 1)] marks4
def coded1 : PicCoded := { num := 0, key := true, buf := 1, bytes := List.replicate 64 7 }

/-- A collective of two members listed at 0x2000 on one row of 16 FP32 values, and its record. -/
def coJob (ph : TPhase) (o : Nat) (l : List (Nat × Nat × Nat)) : TaskRec :=
  { job 128 5 o ([(0x20, 2, 9), (0x22, 2, 2), (0x24, 4, 5), (0x30, 8, 0x2000), (0x40, 4, 1), (0x44, 4, 16), (0x50, 8, 0x3000),
    (0x58, 8, 0x4000), (0x60, 4, 64), (0x64, 4, 128)] ++ l) with phase := ph }
def coRec (got : List CollBlock) (acked : List (Nat × Nat)) (fouls : List (Nat × Nat)) : CollRec :=
  { tid := 0, group := 9, seq := 5, p := 0, list := [0, 1], me := 0, digest := (coJob .running 0 []).coDigest, blocks := [List.replicate 64 0]
    got := got, acked := acked, fouls := fouls }
def coBlock (good : Bool) (l : List Nat) : CollBlock :=
  { member := 1, idx := 0, bytes := List.replicate 64 7, good := good, digest := (coJob .running 0 []).coDigest, list := l }
def coRun (k : CollRec) : State := { stMem 0 1 (coJob .running 0 []) with colls := [k] }
def coKept (k : CollRec) : CollRec := { k with stored := true }
/-- Port 23 of partition 0 in a state, a record of it, and a flit. -/
def portIn (st : Nat) (x : PortRec) : State := { (up.setFld (Addr.port 23 0) 3 0 st).setFld (Addr.port 23 0) 44 43 1 with ports := [x] }
def flitOf (sq found : Nat) : Flit :=
  { dest := 0, src := 1, part := 0, vc := 1, kind := 1, seq := sq, ackSeq := 4095, ackValid := true, nak := false, crVc := 2, crCount := 7, hops := 0
    len := 16, msg := 0, payload := [1], found := found }
def port23 (await : Bool) (un : List Flit) (n : Nat) : PortRec :=
  { i := 23, expected := 7, rxNext := 4095, awaiting := await, unacked := un, replays := n }
def cbJob6 (ph : TPhase) (m : Nat) (l : List (Nat × Nat × Nat)) : TaskRec :=
  { job 128 6 0 ([(0x20, 8, 0x2000), (0x28, 1, 4), (0x50, 8, 0x3000), (0x30, 8, 77)] ++ l) with phase := ph, mark := m }
def cbState (n : Nat) (x : TaskRec) : State := poke 0x2000 8 n (withTasks [x])
def coNear : CollRec := { coRec [] [] [] with list := [0, 65536] }
/-- The port to the master retrains, and the count has been acquired. -/
def upPortRetrains : State :=
  { ((portIn 3 (port23 false [] 0)).setFld 0x900020 57 57 1).setFld 0x900020 56 52 23 with gcAcquired := true }

/-- Partition 0 in a state of R407, with a command that runs, and with an image in reserve slot 1. -/
def inState (st : Nat) (s : State) : State := s.setFld (Addr.sch 0 4) 2 0 st
def cmdTo (a len : Nat) : CtxCmd := { p := 0, addr := a, len := len, slot := 1, toHost := false }
def runsCmd (c : CtxCmd) (s : State) : State := { s with ctxCmds := [c] }
def image : CtxImage :=
  { grade := 1, dies := [3], rings := [({ p := 1, r := 15, lost := true }, 1, 2, 3)], graphs := [{ g0 with p := 1, r := 15, seq := 7 }]
    tasks := [{ pTask with p := 1, seq := 7 }], keep := [1], tsPages := [(0, 0)], seeds := List.replicate 16 5 }
def slotted1 (s : State) : State := { s with ctxSlots := [{ p := 0, slot := 1, img := image }] }
def returning0 : State := { gMem with frames := [oldFrame, { oldFrame with page := 16, p := 1 }], sick := [oldFrame] }
def ringless (s : State) : State := s.setFld (Addr.ringCfg 0 0) 17 17 0

/-- A number put into flash, a firmware image with svn `v` in a slot, and a powered module. -/
def fpoke (a n v : Nat) (s : State) : State := { s with maps := { s.maps with flash := Sparse.setList 0 s.maps.flash a (leBytes n v) } }
def fwImage (i v : Nat) (s : State) : State :=
  ([(0, 4, 0x4B46574D), (4, 4, 1), (8, 4, 4096), (0xC, 1, v), (0xD, 1, 1), (0xE, 1, 3), (0x10, 4, 9), (0x20, 4, 5), (0x40, 2, 1), (0x44, 4, 512),
    (0x48, 4, 64), (0x50, 2, 2), (0x54, 4, 576), (0x58, 4, 64), (0x60, 2, 3), (0x64, 4, 640), (0x68, 4, 64), (0x70, 2, 4), (0x74, 4, 704),
    (0x78, 4, 64), (0x80, 2, 5), (0x84, 4, 768), (0x88, 4, 64)] : List (Nat × Nat × Nat)).foldl
    (fun s x => fpoke (fwSlotAt i + x.1) x.2.1 x.2.2 s) s
def power (pw su : Bool) (s : State) : State := { s with pwren := pw, supply := su }
def linked (s : State) : State := (s.setFld 0x8 3 0 6).setFld 0x8 12 8 16
def dying (s : State) : State := { s with dying := true }
/-- Windows and functions: two virtual functions, partition 1 of two, and a graph of each. -/
def vf2 : State := { vfs 2 (ringless pRun) with graphs := [{ g0 with phase := .admitted, ntasks := 1 }, { g0 with gid := 9, p := 1 }] }
def fatal (s : State) : State := s.setFld 0x700008 0 0 1
def leftBy (n : Nat) (s : State) : State := { s with removal := n }
def bootIn (b : BootPhase) (s : State) : State := { s with boot := b }

/-- A formation image of one partition with an empty FUNCTIONS section, in a formation slot. -/
def formImage (i : Nat) (s : State) : State :=
  ([(0, 4, 0x4B46524D), (4, 4, 1), (8, 4, 271040), (0xC, 1, 2), (0xD, 1, 1), (0xE, 1, 3), (0xF, 1, 15), (0x1C, 4, 2), (0x20, 2, 2), (0x24, 4, 512),
    (0x28, 4, 192), (0x30, 2, 6), (0x34, 4, 704), (0x38, 4, 270336), (512, 1, 1), (513, 1, 1), (520, 4, 0), (524, 4, 16), (528, 4, 100),
    (532, 4, 4096), (540, 2, 256), (542, 2, 256), (544, 2, 256)] : List (Nat × Nat × Nat)).foldl
    (fun s x => fpoke (formSlotAt i + x.1) x.2.1 x.2.2 s) s
/-- A firmware image in host memory at 0x10000, offered by the registers of the security service. -/
def offered (v : Nat) (s : State) : State :=
  (([(0, 4, 0x4B46574D), (4, 4, 1), (8, 4, 4096), (0xC, 1, v), (0xE, 1, 3), (0x20, 4, 5), (0x40, 2, 1), (0x44, 4, 512),
    (0x48, 4, 64), (0x50, 2, 2), (0x54, 4, 576), (0x58, 4, 64), (0x60, 2, 3), (0x64, 4, 640), (0x68, 4, 64), (0x70, 2, 4), (0x74, 4, 704),
    (0x78, 4, 64), (0x80, 2, 5), (0x84, 4, 768), (0x88, 4, 64)] : List (Nat × Nat × Nat)).foldl
    (fun s x => hpoke (0x10000 + x.1) x.2.1 x.2.2 s) s).setReg 0x800030 0x10000 |>.setReg 0x800038 9408
/-- A formation image there, and a signed command of an operation with an argument. -/
def offeredForm (s : State) : State :=
  (([(0, 4, 0x4B46524D), (4, 4, 1), (8, 4, 271040), (0xE, 1, 3), (0xF, 1, 15), (0x1C, 4, 2), (0x20, 2, 2), (0x24, 4, 512),
    (0x28, 4, 192), (0x30, 2, 6), (0x34, 4, 704), (0x38, 4, 270336)] : List (Nat × Nat × Nat)).foldl
    (fun s x => hpoke (0x10000 + x.1) x.2.1 x.2.2 s) s).setReg 0x800030 0x10000 |>.setReg 0x800038 276352
def offeredCmd (op a b : Nat) (s : State) : State :=
  (([(0, 4, 0x4B434D44), (4, 4, op), (0x30, 4, a), (0x34, 4, b)] : List (Nat × Nat × Nat)).foldl
    (fun s x => hpoke (0x10000 + x.1) x.2.1 x.2.2 s) s).setReg 0x800030 0x10000 |>.setReg 0x800038 5376
def busy (s : State) : State := s.setFld 0x80003C 11 11 1
def inLife (n : Nat) (s : State) : State := { s with fuses := { s.fuses with state := n } }
def secOf (op r k : Nat) : SecCmd := { op := op, result := r, slot := k }
def secIs (c : SecCmd) (s : State) : State := { busy s with sec := some c }
def loads (i : Nat) (s : State) : State := { s with loading := some i }
def token (s : State) : State := s.setReg 0x800040 0x500000007
/-- Test hold, a run of self-tests, a traffic generator with a run. -/
def heldIn (s : State) : State := s.setFld 0x709108 0 0 1
def ringsDown : State := ringless pRun
def holdOn (s : State) : State := { s with holding := true }
def testRun (n : Nat) (q : Bool) (s : State) : State := { (heldIn s).setFld 0x709108 1 1 1 with diag := some (n, q) }
def hot (s : State) : State := s.setFld 0xA00000 2 2 1
def tgRuns (loops : Nat) (s : State) : State := (heldIn s).setFld (Addr.tg 255 0x18) 0 0 1 |>.setFld (Addr.tg 255 0) 31 24 loops
def tgLines (a b : Nat) (s : State) : State := (s.setFld (Addr.tg 255 8) 22 0 a).setFld (Addr.tg 255 8) 54 32 b
def mapped (s : State) : State := { s with disMap := [{ what := 0, die := 1, idx := 3, boot := 0 }, { what := 1, die := 2, idx := 5, boot := 7 }] }
/-- The scorebook with a flush that runs or waits, and with records due. -/
def booked (x : Scorebook) (s : State) : State := { s with sb := x }
def flushIs (seg reason : Nat) : Scorebook :=
  { segs := ((List.replicate 8 none : List (Option SbSeg)).set seg (some { boot := 1, reason := reason, firstSeq := 0, time := 0, count := none }))
    flushing := some (seg, reason, []), nextSeg := (seg + 1) % 8, held := true, head := 3 }
def marked (s : State) : State := { s with formMarks := [2, 1] }
/-- Word `i` of a FUNCTIONS section that holds the library's functions 0, 1, 4 and 5, its other functions empty, its coefficients all the
library's; and the bytes of such words. -/
def bankWord (lib : FtView) (i : Nat) : Nat :=
  if i < 2048 then if [0, 1, 4, 5].contains (i / 32) then (lib.word (i / 32) (i % 32)).toNat else 0
  else (lib.coef ((i - 2048) / 4) ((i - 2048) % 4)).toNat
def bankByte (lib : FtView) (k : Nat) : Byte := BitVec.ofNat 8 (bankWord lib (k / 4) / 256 ^ (k % 4))
def bankLen : Nat := 794624
def bank (lib : FtView) : List Byte := (List.range bankLen).map (bankByte lib)
/-- The formation image with that section, in slot 1 with its marker. -/
def withFlash (m : Sparse 8) (s : State) : State := { s with maps := { s.maps with flash := m } }
def okImage (s : State) : State :=
  let t := marked (formImage 1 s)
  withFlash (Sparse.setList 0 t.maps.flash (formSlotAt 1 + 704) (bank (libView (s.reg 0x900088).toNat))) t

/-- Memory with an empty side table has no block that is lost or whose CRC disagrees. -/
theorem memGood_of_side {s : State} (h : s.maps.side = []) : s.memGood := by
  intro b
  constructor <;> simp only [State.lost, State.crcBad, State.side, h, Sparse.get] <;> decide

/-- The descriptor of a task that the state resolves. -/
theorem descOk_of {s : State} {x y : TaskRec}
    (h : (let d := s.devBytes x.descAddr 64
          let n := (descSize (bytesNat d 0 1) (bytesNat d 1 1)).getD 0
          let bs := s.devBytes x.descAddr n
          let r := (s.resolveDesc (s.taskArg x) (bytesNat bs 0 1) (bytesNat bs 1 1) bs).getD []
          descSize (bytesNat d 0 1) (bytesNat d 1 1) = some n ∧ s.rangeFault x.p x.descAddr 64 = none ∧
            s.rangeFault x.p x.descAddr n = none ∧ s.resolveDesc (s.taskArg x) (bytesNat bs 0 1) (bytesNat bs 1 1) bs = some r ∧
            y = s.readPrograms { x with desc := r, pro := none, epi := none } ∧ s.commonOk y = true ∧
            ∀ r ∈ ((s.taskStructs y).1 ++ (s.taskStructs y).2).flatMap Rng.rows, s.rangeFault x.p r.1 r.2 = none)) :
    s.DescOk x y :=
  ⟨_, _, h⟩

/-- A task whose inputs can be read and whose outputs can be written. -/
theorem canStep_of {s : State} {x : TaskRec} {ins : List Nat} {outs : List Rng}
    (h : (∀ b ∈ ins, s.readable (b / 64) = true) ∧ s.canWriteAll ((s.taskDies x).headD 0) (rngPages outs) = true) :
    s.CanStep x ins outs := h

/-- A page that may move to the place that the model finds for it. -/
theorem mayMove_of {s : State} {page tier die : Nat}
    (h : let p := (s.movePlace page tier die).getD (0, 0)
         rtState (s.rt page) = 2 ∧ s.stays page tier die = false ∧ s.movePlace page tier die = some (tier, p.2) ∧ (tier = 1 → p.2 = die)) :
    s.MayMove page tier die := ⟨h.1, h.2.1, _, h.2.2⟩

/-- Entry 0 of an empty pool table is a whole page. -/
theorem pool_low : ∀ i, (pool 0).rd (Addr.memp 0 48) 23 0 ≤ i → i < BitVec.toNat (1 : W32) % 16777216 →
    ((pool 0).hostStores []).hostNat (BitVec.toNat ((pool 0).reg (Addr.memp 0 40)) + 8 * i) 8 % 4096 = 0 := by
  intro i _ h
  have h : i < 1 := h
  obtain rfl : i = 0 := by omega
  decide +kernel

/-- The bytes of a queue end below those at `o`. -/
theorem apart_of {a o n : Nat} (h : a + n ≤ o) : ∀ i j, i < n → j < 4 → a + i ≠ o + j := by
  intro i j hi hj
  omega

/-- OPEN of a session whose coding the module supports (R475, a free value). -/
theorem open_passes (h : Config.codingOk 1 1 0 0 8 1 = true) : (cdMem [] 0 (openJob 1 4 [])).openOk (openJob 1 4 []) = true := by
  have e1 : (openJob 1 4 []).f 0x28 1 = 1 := by decide +kernel
  have e2 : (openJob 1 4 []).f 0x29 1 = 1 := by decide +kernel
  have e3 : (openJob 1 4 []).f 0x2C 1 = 0 := by decide +kernel
  have e4 : (openJob 1 4 []).f 0x2D 1 = 0 := by decide +kernel
  have e5 : (openJob 1 4 []).f 0x2E 1 = 8 := by decide +kernel
  have e6 : (openJob 1 4 []).f 0x2F 1 = 1 := by decide +kernel
  simp only [State.openOk, e1, e2, e3, e4, e5, e6, h]
  decide +kernel

/-- A byte of the image as its header and its bank give it. -/
def okByte (s : State) (o : Nat) : Byte :=
  if 704 ≤ o ∧ o < 704 + bankLen then bankByte (libView (s.reg 0x900088).toNat) (o - 704)
  else (marked (formImage 1 s)).flashAt (formSlotAt 1) o

theorem get_bank {m : Sparse 8} (h : Sparse.wf 0 m = true) (base : Nat) (l : List Byte) (o : Nat) :
    Sparse.get 0 (Sparse.setList 0 m (base + 704) l) (base + o) =
      if 704 ≤ o ∧ o < 704 + l.length then l.getD (o - 704) 0 else Sparse.get 0 m (base + o) := by
  split
  · rename_i ho
    have e := Sparse.get_setList h (base + 704) l (o - 704) (by omega)
    rwa [show base + 704 + (o - 704) = base + o by omega] at e
  · exact Sparse.get_setList_other h _ (by omega)

theorem flashAt_withFlash (m : Sparse 8) (s : State) (base o : Nat) : (withFlash m s).flashAt base o = Sparse.get 0 m (base + o) := rfl

theorem okImage_flash (s : State) (h : Sparse.wf 0 (marked (formImage 1 s)).maps.flash = true) :
    (okImage s).flashAt (formSlotAt 1) = okByte s := by
  funext o
  rw [okImage, flashAt_withFlash, get_bank h, okByte, bank, List.length_map, List.length_range]
  split
  · rename_i ho
    rw [List.getD_eq_getElem?_getD, List.getElem?_map, List.getElem?_range (by omega)]
    rfl
  · rfl

theorem bankWord_lt (lib : FtView) (i : Nat) : bankWord lib i < 4294967296 := by
  unfold bankWord
  split
  · split
    · exact (lib.word _ _).isLt
    · decide
  · exact (lib.coef _ _).isLt

/-- Four bytes of the bank are its word. -/
theorem okByte_word (s : State) (i : Nat) (h : 4 * i + 3 < bankLen) :
    imNat (okByte s) (704 + 4 * i) 4 = bankWord (libView (s.reg 0x900088).toNat) i := by
  have key : ∀ j, j < 4 → okByte s (704 + 4 * i + j) =
      BitVec.ofNat 8 (bankWord (libView (s.reg 0x900088).toNat) i / 256 ^ j) := by
    intro j hj
    rw [okByte, if_pos (by omega), bankByte, show (704 + 4 * i + j - 704) / 4 = i by omega, show (704 + 4 * i + j - 704) % 4 = j by omega]
  have hl := bankWord_lt (libView (s.reg 0x900088).toNat) i
  have hr : List.range 4 = [0, 1, 2, 3] := rfl
  simp only [imNat, hr, List.map_cons, List.map_nil, key 0 (by decide), key 1 (by decide), key 2 (by decide), key 3 (by decide), leNat,
    BitVec.toNat_ofNat]
  omega

theorem fld_segs (w : Nat → W32) : (fnDesc w).segBase < 16384 ∧ (fnDesc w).segCount < 32768 := by
  constructor
  · exact Nat.mod_lt _ (by decide)
  · exact Nat.mod_lt _ (by decide)

/-- The bank keeps R546: its functions 0, 1, 4 and 5 and their segments are the library's, and its others are empty. -/
theorem okImage_tables (s : State) (h0 : (fmSect (okByte s) 6).map Sect.off = some 704) (h5 : fmSect (okByte s) 5 = none)
    (hd : ((List.range 64).all fun f => [0, 1, 4, 5].contains f ||
      (descOk (fun f => f < 64 && (fnDesc ((fmFuncs (okByte s)).word f)).valid && !(fnDesc ((fmFuncs (okByte s)).word f)).micro &&
          kind0Ok (fnDesc ((fmFuncs (okByte s)).word f))) ((fmFuncs (okByte s)).word f) &&
        (!(fnDesc ((fmFuncs (okByte s)).word f)).valid || !(fnDesc ((fmFuncs (okByte s)).word f)).micro ||
          microOk (fun f => f < 64 && (fnDesc ((fmFuncs (okByte s)).word f)).valid && !(fnDesc ((fmFuncs (okByte s)).word f)).micro &&
            kind0Ok (fnDesc ((fmFuncs (okByte s)).word f))) (fnDesc ((fmFuncs (okByte s)).word f)).uops))) = true) :
    s.fmTablesOk (okByte s) = true := by
  have hw : ∀ f w, f < 64 → w < 32 → [0, 1, 4, 5].contains f = true → (fmFuncs (okByte s)).word f w =
      (libView (s.reg 0x900088).toNat).word f w := by
    intro f w hf hw hc
    have e := okByte_word s (32 * f + w) (by unfold bankLen; omega)
    simp only [fmFuncs, h0, Option.getD_some]
    rw [show 704 + 128 * f + 4 * w = 704 + 4 * (32 * f + w) by omega, e, bankWord, if_pos (by omega),
      show (32 * f + w) / 32 = f by omega, show (32 * f + w) % 32 = w by omega, if_pos hc, BitVec.ofNat_toNat, BitVec.setWidth_eq]
  have hc : ∀ i c, i < 49152 → c < 4 → (fmFuncs (okByte s)).coef i c = (libView (s.reg 0x900088).toNat).coef i c := by
    intro i c hi hc
    have e := okByte_word s (2048 + 4 * i + c) (by unfold bankLen; omega)
    simp only [fmFuncs, h0, Option.getD_some]
    rw [show 704 + 8192 + 16 * i + 4 * c = 704 + 4 * (2048 + 4 * i + c) by omega, e, bankWord, if_neg (by omega),
      show (2048 + 4 * i + c - 2048) / 4 = i by omega, show (2048 + 4 * i + c - 2048) % 4 = c by omega, BitVec.ofNat_toNat, BitVec.setWidth_eq]
  unfold State.fmTablesOk
  rw [h5]
  simp only [Option.map_none, Option.getD_none, Bool.true_and, Bool.and_eq_true]
  refine ⟨?_, hd⟩
  simp only [List.all_eq_true, List.mem_range, Bool.and_eq_true, beq_iff_eq]
  intro f hf
  have hf' : f < 64 ∧ [0, 1, 4, 5].contains f = true := by
    rcases (by simpa using hf : f = 0 ∨ f = 1 ∨ f = 4 ∨ f = 5) with rfl | rfl | rfl | rfl <;> decide
  refine ⟨fun w hw' => hw f w hf'.1 hw' hf'.2, fun i hi c hc' => hc _ c ?_ hc'⟩
  have := fld_segs ((fmFuncs (okByte s)).word f)
  omega

/-- An image that passes each check of R545 and R546 can be loaded. -/
theorem load_passes {s : State} {b : Nat → Byte} (hb : s.flashAt (formSlotAt 1) = b)
    (a1 : (s.fatal || s.rd 0x709108 1 1 == 1 || decide (1 < 1)) = false) (a2 : ¬ s.formMarks.getD 1 0 = 0) (a3 : fmShape b 0x2000000 = true)
    (a4 : ¬ fmSvn b < s.fuses.formMin) (a5 : bit (imNat b 0xF 1) s.fuses.state = true)
    (a6 : (!s.gradeIn (imNat b 0xE 1) || !serialOk (imNat b 0x10 8) || decide ((s.reg 0x900088).toNat % pow2 32 < imNat b 0x18 4)) = false)
    (a7 : (fmPartsOk b && fmScheduleOk b && fmPortsOk b && fmLineupOk b && settingsOk b) = true) (a8 : s.fmTablesOk b = true)
    (h1 : State.signedBy b (fmBody b) s.signerDigest = true) : s.formLoadResult 1 = 0 := by
  simp only [Bool.and_eq_true] at a7
  obtain ⟨⟨⟨⟨b1, b2⟩, b3⟩, b4⟩, b5⟩ := a7
  have c : s.fmCheck b 0x2000000 = 0 := by
    simp [State.fmCheck, State.fmCheck5, State.fmConsistent, a3, a4, a5, a6, h1, a8, b1, b2, b3, b4, b5]
  unfold State.formLoadResult
  rw [a1, if_neg Bool.false_ne_true, if_neg a2, hb, c]

/-- The image in slot 1 passes the checks where its signature does (a free value). -/
theorem image_passes (r : State) (hr : r = pRun ∨ r = runsCmd (cmdTo 0 0) pRun)
    (h1 : State.signedBy ((okImage r).flashAt (formSlotAt 1)) (fmBody ((okImage r).flashAt (formSlotAt 1))) (okImage r).signerDigest = true) :
    (okImage r).formLoadResult 1 = 0 := by
  have hb : (okImage r).flashAt (formSlotAt 1) = okByte r := okImage_flash r (by rcases hr with rfl | rfl <;> decide +kernel)
  rw [hb] at h1
  have e : (okImage r).reg 0x900088 = r.reg 0x900088 := by rcases hr with rfl | rfl <;> decide +kernel
  refine load_passes hb ?_ ?_ ?_ ?_ ?_ ?_ ?_ ?_ h1
  case refine_8 =>
    have h := okImage_tables r (by rcases hr with rfl | rfl <;> decide +kernel) (by rcases hr with rfl | rfl <;> decide +kernel)
      (by rcases hr with rfl | rfl <;> decide +kernel)
    unfold State.fmTablesOk at h ⊢
    rw [e]
    exact h
  all_goals rcases hr with rfl | rfl <;> decide +kernel

theorem withFlash_wf {m : Sparse 8} {s : State} (h : s.maps.wf = true) (hm : Sparse.wf 0 m = true) : (withFlash m s).maps.wf = true := by
  rw [Maps.wf_iff] at h ⊢
  exact ⟨h.1, h.2.1, hm, h.2.2.2⟩

/-- The flash of the image keeps its canonical form. -/
theorem okImage_wf (r : State) (h : (marked (formImage 1 r)).maps.wf = true) : (okImage r).maps.wf = true := by
  rw [okImage]
  exact withFlash_wf h (Sparse.wf_setList ((Maps.wf_iff _).1 h).2.2.1 _ _)

/-- No pseudo-channel of the module retrains or is repaired as the load begins. -/
theorem channels_quiet : ∀ i, i < 512 → (loads 1 (formImage 1 pRun)).pcState i ≠ 1 ∧ (loads 1 (formImage 1 pRun)).pcState i ≠ 2 := by
  decide +kernel

/-- The table, the dependence array and the argument block of a graph, each decided. -/
theorem tablesOk_of {s : State} {g : GraphRec}
    (h : s.rangeFault g.p (s.devNat (g.addr + 0x10) 8) (16 * s.devNat g.addr 2) = none ∧
      s.rangeFault g.p (s.devNat (g.addr + 0x18) 8) (2 * s.devNat (g.addr + 0x20) 4) = none ∧
      (s.argBlock g ≠ 0 → s.rangeFault g.p (s.argBlock g) 64 = none) ∧
      (∀ i, i < s.devNat g.addr 2 → s.entryOk g i = true) ∧ s.depsOk g (s.devNat g.addr 2) = true) : s.tablesOk g := h

/-! Ill-formed commands: one term for each check. -/

/-- Commands through a function, at an offset, or of a partition, ring, slot, unit, port, core or page that the module does not have. -/
theorem test_wellformed_refuses_numbers : ∀ i ∈ [Instr.registerWrite 9 0 4 0, .registerWrite 0 0x4000000 4 0, .saveDone 8 0,
    .completionEntryWrite 0 16, .unitIssue 8 0 [], .tileIssue 0 0 17, .reuseGate 0 16, .rtSlotBegin 64, .eviction 4194304,
    .pcControllerFault 512, .ackTimeout 24, .coreRestartComplete 8, .thermalCritical 28 0, .hbmTgStop 0 256 0, .flrVf 0, .flrVf 9,
    .vfConfigChange 9 true, .pldmGetSensor 35, .migrationStart 0 0 0, .migrationStart 0 4 0], i.wellFormed = false := by decide

/-- Commands whose lists, lengths, lines or rows leave what the module has. -/
theorem test_wellformed_refuses_extents : ∀ i ∈ [Instr.thermNDeassert [] [], .unitIssue 0 0 [⟨8, 0⟩], .bar2Read 0 0 0 false,
    .bar2Read 0 68719476735 2 false, .bar2Write 0 0 [], .bar2Write 0 68719476736 [0], .hbmRequest 0 [{ hbmReq .read [] with line := 6291456 }],
    .narrowPathRequest 0 0 129 [] false, .patrolScrub 0 6291456 [], .repairStart 0 1572864, .formationLoad [(8, 0)],
    .hostCompletionFault ⟨true, none, some (8, 0)⟩, .hostCompletionFault ⟨true, some 0x10000000, none⟩,
    .frameTick ⟨0, 0, 0, 0, 0, List.replicate 20 0, List.replicate 8 0, [(8, 0)], []⟩,
    .frameTick ⟨0, 0, 0, 0, 0, List.replicate 20 0, List.replicate 8 0, [], [⟨8, 0⟩]⟩], i.wellFormed = false := by decide

/-- Commands that met an error at a place outside the array, the chunk or the block of query rows. -/
theorem test_wellformed_refuses_places : ∀ i ∈ [Instr.chunkComplete 0 0 ⟨0, 0, 0, [.cell 128 0 1], none, none, 0⟩,
    .chunkComplete 0 0 ⟨0, 0, 0, [.checkRow 128 1], none, none, 0⟩, .chunkComplete 0 0 ⟨0, 0, 0, [.checkCol 128 1], none, none, 0⟩,
    .chunkComplete 0 0 ⟨0, 0, 0, [.loadSum true 32 1], none, none, 0⟩, .chunkComplete 0 0 ⟨0, 0, 0, [.duplicate 0 128], none, none, 0⟩,
    .chunkComplete 0 0 ⟨0, 0, 0, [.accWord 0 256], none, none, 0⟩, .accumSpill 0 0 ⟨0, some (128, 0)⟩, .tileDrain 0 0 (badSlot 0 128),
    .sliceHalt 0 0 [(0, ⟨0, some (0, 128)⟩)], .attentionKeyBlock 0 0 0 ⟨0, 0, 0, some (.arrayCheck true [.accWord 128 0])⟩,
    .attentionUnitFinal 0 0 ⟨0, 0, 0, some (.parity 128)⟩, .attentionUnitFinal 0 0 ⟨0, 0, 0, some (.table 128)⟩],
    i.wellFormed = false := by decide

/-- No word spells a command: the table gives no row bits. -/
theorem test_no_word_is_a_command : ∀ n < 9, decodeTableWord (8 * n) 0x123456 = none := by decide

/-! Worked examples of the spec. -/

/-- The E4M3 byte 0x5A is 10 × 2. -/
theorem test_e4m3_byte : decodeElem .e4m3 [] 0x5A = (.fin false 10 1, false) := by decide +kernel

/-- The padding words 0x0000_1800 and 0x00C0_0000 are 3 and −infinity. -/
theorem test_padding_words : xvOfCif 0x1800 = .fin false 3 0 ∧ xvOfCif 0xC00000 = .inf true := by decide +kernel

/-- 7.5 saturates to 6 in E2M1 and counts once, and 6.9 rounds to 6 (R59). -/
theorem test_e2m1_saturation : convElem .e2m1 [] .rne false false 0 (.fin false 15 (-1)) = (7, { sat := 1 }) ∧
    convElem .e2m1 [] .rne false false 0 (f32Val 0x40DCCCCD) = (7, {}) := by decide +kernel

/-- A block of E2M1 with an E8M0 scale: 10.5, −0.3, 1.25, 2.5 under scale 0x80 (R62's example). -/
theorem test_e2m1_block : (convBlock ⟨.e2m1, .e8m0, .rne, false, 0⟩ f32One [] (fun _ => 0) (fun _ => false) 0
    (([0x41280000, 0xBE99999A, 0x3FA00000, 0x40200000] ++ List.replicate 28 0 : List F32).map Src.f32)) =
      ([7, 8, 1, 2] ++ List.replicate 28 0, 0x80, {}) := by decide +kernel

/-- Under SR, 0.625 goes up to 1 when r ≥ 49,152. -/
theorem test_e2m1_stochastic : (convElem .e2m1 [] .sr false false 49152 (.fin false 5 (-3))).1 = 2 ∧
    (convElem .e2m1 [] .sr false false 49151 (.fin false 5 (-3))).1 = 1 := by decide +kernel

/-- The narrowing of R340's example: scale 0x78 and the codes 0x7C, 0xF0, 0x62, 0x08, 0x00. -/
theorem test_narrowed_block : (convBlock ⟨.e4m3, .e8m0, .rne, false, 0⟩ f32One [] (fun _ => 0) (fun _ => false) 0
    (([0x40400000, 0xBF800000, 0x3E9A0000, 0x39000000, 0x37000000] ++ List.replicate 27 0 : List F32).map Src.f32)) =
      ([0x7C, 0xF0, 0x62, 0x08, 0x00] ++ List.replicate 27 0, 0x78, {}) := by decide +kernel

/-- pair_add keeps 2^-30 beside 1.0 (R63). -/
theorem test_pair_add : pairAdd ⟨f32One, f32Zero⟩ ⟨0x30800000, f32Zero⟩ = ⟨f32One, 0x30800000⟩ := by decide +kernel

/-- A chunk of E4M3 under 2^-4 and 2^2 whose largest products cancel keeps 2^-18: 0x3580_0000 (R82, R84). -/
theorem test_chunk_keeps_low_product : let v := fun c => (decodeElem .e4m3 [] c).1
    let r := chunkVal 48 false (.fin false 1 (-2)) (.fin false 1 (-2)) ([(0x7E, 0x7E), (1, 1), (0xFE, 0x7E)].map fun (x : Nat × Nat) =>
      mkProd false .e4m3 .e4m3 (v x.1) (v x.2) false)
    (r.1.f32, r.2) = (0x35800000, false) := by decide +kernel

/-- A chunk of BF16 drops the product 2^-70 below its window, and says so (R83). -/
theorem test_chunk_window : let v := fun c => (decodeElem .bf16 [] c).1
    let r := chunkVal 48 false (.fin false 1 0) (.fin false 1 0) ([(0x3F80, 0x3F80), (0x3F80, 0xBF80), (0x1C80, 0x3F80)].map fun (x : Nat × Nat) =>
      mkProd false .bf16 .bf16 (v x.1) (v x.2) false)
    (r.1.f32, r.2) = (0, true) := by decide +kernel

/-- HBM frame 0x01_2345 at offset 0x1_2A40 lies in pseudo-channel 131 (R346), on the line that its bank and row name. -/
theorem test_hbm_map : (granulePlace none (74565 * 1024 + 0x12A40 / 256)).1 = 131 := by decide

/-- FB_BYTES of a 1080p 8-bit and of an 8K 10-bit 4:2:0 session (R480). -/
theorem test_frame_buffers : fbBytes 1920 1080 8 1 = 13 * 262144 ∧ fbBytes 7680 4320 10 1 = 383 * 262144 := by decide

/-- The power grant settles at 45 (R587); the powers of the last two frames stand in tenths of a watt, as do their caps. -/
theorem test_power_grant : nextGrant 64 1200 1600 = 48 ∧ nextGrant 48 1200 1245 = 46 ∧ nextGrant 46 12000 12006 = 45 ∧
    nextGrant 45 12000 11784 = 45 := by decide

/-- The three addresses of the register index's example. -/
theorem test_register_addresses : Addr.atp 6 5 0x100 = 0x01645100 ∧ Addr.stall 3 5 = 0x00104068 ∧ Addr.acct 2 17 0 = 0x00124220 := by decide

/-- The sum of three members in FP32 and as a pair, in both orders (R528). -/
theorem test_collective_sum : let add := fun (m : Bool) (l : List F32) => (l.map fun x => (⟨x, f32Zero⟩ : Pair)).foldl (partAdd m) ⟨f32Zero, f32Zero⟩
    (add false [0x3F800000, 0x33800000, 0x33800000]).hi = 0x3F800000 ∧ (add false [0x33800000, 0x33800000, 0x3F800000]).hi = 0x3F800001 ∧
      (add true [0x3F800000, 0x33800000, 0x33800000]).hi = 0x3F800001 := by decide +kernel

/-- Of eight row blocks over three dies, the first two dies take three (R123). -/
theorem test_die_shares : (List.range 8).map (fun x => shareOf 8 3 x) = [0, 0, 0, 1, 1, 1, 2, 2] := by decide

/-- HIF_IDENT before a formation: the part and step B0 (R6). -/
theorem test_identity_word : State.reset.identWord &&& 0xF0FFFF = 0x108768 := by decide +kernel

/-- Eight dies of one partition, with the substitute engines at work on the X grade alone; a product of 2,176 × 1,024 × 8,192. -/
def eightDies (x : Bool) : State :=
  (List.range 8).foldl (fun (s : State) d => s.setFld (Addr.mxe d 16 0) 3 0 (if x then 0 else 1)) { fw with parts := [{ p := 0, dies := List.range 8 }] }
def wideProduct : TaskRec := taskOf .ready (prodDesc [(0x20, 4, 2176), (0x24, 4, 1024), (0x28, 4, 8192)])

/-- The split of that product: seven parts on the S grade, eight on the X grade (R129, R130). -/
theorem test_split_parts : ((eightDies false).planOf wideProduct (pow2 32)).p = 7 ∧ ((eightDies true).planOf wideProduct (pow2 32)).p = 8 := by
  decide +kernel

/-- The first chunk of each of the seven parts (R130). -/
theorem test_split_first_chunks : ((eightDies false).splitUnits { wideProduct with units := [{ uid := 0, b := 0, rb := 0, ct := 0, last := 256 }] }
    ⟨17, 256, 128, 7⟩ (pow2 32)).map UnitRec.first = [0, 36, 73, 109, 146, 182, 219] := by decide +kernel

/-! Witnesses: the hypotheses of each clause of a statement. -/

theorem test_witness_StepTakesFront :
    (∃ (s : State) (c : Instr) (rest : List Instr), (s.pending = c :: rest)) ∧
    (∃ (s : State), (s.pending = [])) :=
  ⟨⟨(queued [.snapTake 0 (Addr.vxe 0 0 8)] up), (.snapTake 0 (Addr.vxe 0 0 8)), [], by decide +kernel⟩,
   ⟨up, by decide +kernel⟩⟩

theorem test_witness_CommandsRunExactlyWhenWellFormed :
    (∃ (c : Instr) (s : State), (c.wellFormed = true)) ∧
    (∃ (c : Instr) (s : State), (c.wellFormed = false)) :=
  ⟨⟨(.powerTrip 0), up, by decide +kernel⟩,
   ⟨(.snapTake 9 0), up, by decide +kernel⟩⟩

theorem test_witness_QueueStaysSound :
    ∃ (s : State), (s.queueWf = true) :=
  ⟨(queued [.powerTrip 0, .grantExhausted] up), by decide +kernel⟩

theorem test_witness_TablesStayCanonical :
    ∃ (s t : State), (step s = Host.Outcome.next t) ∧ (s.maps.wf = true) :=
  ⟨(queued [.snapTake 0 (Addr.vxe 0 0 8)] up), (after (step (queued [.snapTake 0 (Addr.vxe 0 0 8)] up))), rfl, by decide +kernel⟩

theorem test_witness_RegisterWritesFollowTheirType :
    (∃ (s : State) (fn off bytes : Nat) (v : W64) (d : RegDef), (s.maps.wf = true) ∧ (fn ≤ 8) ∧ (fn ≤ s.numVfs) ∧ (off < 67108864) ∧
      (regAt off = some d) ∧ (bytes = d.width / 8) ∧ (s.answers off = true) ∧ (s.mayWrite fn d off = true) ∧ (s.ownRow off d v = false) ∧
      (¬d.name ∈ ["HIF_WIN", "SCH_FRAME_CFG", "SCH_SQ_BASE", "SCH_CQ_BASE", "SCH_RING_CFG", "SYN_MODE", "PWR_CAP", "RAS_SB_CTRL"])) ∧
    (∃ (s : State) (fn off bytes : Nat) (v : W64) (d : RegDef), (s.maps.wf = true) ∧ (fn ≤ 8) ∧ (fn ≤ s.numVfs) ∧ (off < 67108864) ∧
      (regAt off = some d) ∧ (bytes = d.width / 8) ∧ (s.answers off = true) ∧ (s.mayWrite fn d off = true) ∧ (s.ownRow off d v = false) ∧
      (¬d.name ∈ ["HIF_WIN", "SCH_FRAME_CFG", "SCH_SQ_BASE", "SCH_CQ_BASE", "SCH_RING_CFG", "SYN_MODE", "PWR_CAP", "RAS_SB_CTRL"])) ∧
    (∃ (s : State) (fn off bytes : Nat) (v : W64), (fn ≤ 8) ∧ (fn ≤ s.numVfs) ∧ (off < 67108864) ∧ (regAt off = none) ∧ (badAccess off
      bytes = false)) ∧
    (∃ (s : State) (fn off bytes : Nat) (v : W64) (d : RegDef), (fn ≤ 8) ∧ (fn ≤ s.numVfs) ∧ (off < 67108864) ∧ (regAt off = some d) ∧
      (bytes = d.width / 8) ∧ (s.mayWrite fn d off = false ∨ s.answers off = false)) ∧
    (∃ (s : State) (fn off bytes : Nat) (v : W64) (d : RegDef), (fn ≤ 8) ∧ (fn ≤ s.numVfs) ∧ (off < 67108864) ∧ (regAt off = some d) ∧
      (bytes = d.width / 8) ∧ (s.mayWrite fn d off = false ∨ s.answers off = false)) :=
  ⟨⟨fw, 0, 0x700000, 8, 5, (regOf 0x700000), by decide +kernel⟩,
   ⟨up, 0, (Addr.ringStatus 1 15), 4, 0xFFFFFFFFFFFFFFFF, (regOf (Addr.ringStatus 1 15)), by decide +kernel⟩,
   ⟨up, 0, 0x200020, 8, 5, by decide +kernel⟩,
   ⟨(vfs 2 up), 1, (Addr.ringStatus 1 15), 4, 5, (regOf (Addr.ringStatus 1 15)), by decide +kernel⟩,
   ⟨fw, 0, (Addr.mxe 0 0 0), 8, 5, (regOf (Addr.mxe 0 0 0)), by decide +kernel⟩⟩

theorem test_witness_RegisterWriteLimits :
    (∃ (s : State) (v : W64), (s.maps.wf = true) ∧ (s.answers 10485768 = true)) ∧
    (∃ (s : State) (v : W64), (s.maps.wf = true) ∧ (s.answers 1048576 = true) ∧ (getBits v 31 16 = 0 ∨ 1000 < getBits v 31 16)) ∧
    (∃ (s : State) (v : W64), (s.maps.wf = true) ∧ (s.answers 1048576 = true) ∧ (1 ≤ getBits v 31 16) ∧ (getBits v 31 16 ≤ 1000)) ∧
    (∃ (s : State) (v : W64) (p r a : Nat), (s.maps.wf = true) ∧ (p < 8) ∧ (r < 16) ∧ (a = Addr.sqBase p r ∨ a = Addr.cqBase p r) ∧
      (s.answers a = true) ∧ (s.enabled p r = true)) ∧
    (∃ (s : State) (v : W64) (p r a : Nat), (s.maps.wf = true) ∧ (p < 8) ∧ (r < 16) ∧ (a = Addr.sqBase p r ∨ a = Addr.cqBase p r) ∧
      (s.answers a = true) ∧ (s.enabled p r = false)) ∧
    (∃ (s : State) (v : W64) (p r a : Nat), (s.maps.wf = true) ∧ (p < 8) ∧ (r < 16) ∧ (a = Addr.ringCfg p r) ∧ (s.answers a = true) ∧
      (getBits v 17 17 = s.rd a 17 17)) ∧
    (∃ (s : State) (v : W64) (p r a : Nat), (s.maps.wf = true) ∧ (p < 8) ∧ (r < 16) ∧ (a = Addr.ringCfg p r) ∧ (s.answers a = true) ∧
      (getBits v 17 17 = s.rd a 17 17)) ∧
    (∃ (s : State) (v : W64) (p a : Nat), (s.maps.wf = true) ∧ (p < 8) ∧ (a = Addr.syn p 0) ∧ (s.answers a = true)) ∧
    (∃ (s : State) (v : W64) (p a : Nat), (s.maps.wf = true) ∧ (p < 8) ∧ (a = Addr.syn p 0) ∧ (s.answers a = true)) ∧
    (∃ (s : State) (v : W64) (fn : Nat), (s.maps.wf = true) ∧ (fn ≤ 8) ∧ (fn ≤ s.numVfs) ∧ (s.answers 32 = true)) ∧
    (∃ (s : State) (v : W64) (fn : Nat), (s.maps.wf = true) ∧ (fn ≤ 8) ∧ (fn ≤ s.numVfs) ∧ (s.answers 32 = true)) ∧
    (∃ (s : State) (v : W64), (s.maps.wf = true) ∧ (s.answers 7376904 = true)) ∧
    (∃ (s : State) (v : W64), (s.maps.wf = true) ∧ (s.answers 7376904 = true)) :=
  ⟨⟨fw, 0x18F, by decide +kernel⟩,
   ⟨up, 0x03E90000, by decide +kernel⟩,
   ⟨up, 0x03E80000, by decide +kernel⟩,
   ⟨(up.setFld (Addr.ringCfg 7 15) 17 17 1), 0xFFFFFFFFFFFFFFFF, 7, 15, (Addr.sqBase 7 15), by decide +kernel⟩,
   ⟨up, 0xFFFFFFFFFFFFFFFF, 7, 15, (Addr.cqBase 7 15), by decide +kernel⟩,
   ⟨(up.setFld (Addr.ringCfg 7 15) 17 17 1), 0xFFFFFFFFFFFFFFFF, 7, 15, (Addr.ringCfg 7 15), by decide +kernel⟩,
   ⟨up, 0xFFFFFFFFFFFDFFFF, 7, 15, (Addr.ringCfg 7 15), by decide +kernel⟩,
   ⟨up, 0xFFFF0000FFFFFFFF, 7, (Addr.syn 7 0), by decide +kernel⟩,
   ⟨up, 0xFFFFFFFFFFFFFFFF, 0, (Addr.syn 0 0), by decide +kernel⟩,
   ⟨(vfs 8 up), 0xFFFFFFFFFFFFFFFF, 8, by decide +kernel⟩,
   ⟨(vfs 8 up), 0xFFFFFFFFFFFFFFFF, 0, by decide +kernel⟩,
   ⟨fw, 0x81, by decide +kernel⟩,
   ⟨fw, 0x91, by decide +kernel⟩⟩

theorem test_witness_BadAccessRecorded :
    (∃ (s : State) (fn off bytes : Nat) (w : Bool), (s.maps.wf = true) ∧ (fn ≤ 8) ∧ (fn ≤ s.numVfs) ∧ (off < 67108864) ∧ (badAccess off
      bytes = true)) ∧
    (∃ (s : State) (fn off bytes : Nat) (w : Bool), (s.maps.wf = true) ∧ (fn ≤ 8) ∧ (fn ≤ s.numVfs) ∧ (off < 67108864) ∧ (badAccess off
      bytes = true)) :=
  ⟨⟨up, 0, 0x100000, 4, false, by decide +kernel⟩,
   ⟨(recHeld up), 0, 0x100002, 8, true, by decide +kernel⟩⟩

theorem test_witness_SnapshotsCopy :
    (∃ (s : State) (d k : Nat), (s.maps.wf = true) ∧ (d < 8) ∧ (k < 16) ∧ (s.answers (Addr.vxe d k 8) = true)) ∧
    (∃ (s : State) (fn off : Nat), (s.maps.wf = true) ∧ (fn ≤ 8) ∧ (s.snapAllowed fn off = true) ∧ (¬off ∈ [2097160, 7376912, 7376976,
      9437200]) ∧ (¬(2101248 ≤ off ∧ off < 2134016))) ∧
    (∃ (s : State) (fn off : Nat), (s.maps.wf = true) ∧ (fn ≤ 8) ∧ (s.snapAllowed fn off = false)) ∧
    (∃ (s : State), (s.maps.wf = true) ∧ (s.snapAllowed 0 9437200 = true)) ∧
    (∃ (s : State) (fn p : Nat), (s.maps.wf = true) ∧ (fn ≤ 8) ∧ (p < 8) ∧ (s.snapAllowed fn (Addr.memp p 0) = true)) ∧
    (∃ (s : State) (fn : Nat), (s.maps.wf = true) ∧ (fn ≤ 8) ∧ (s.snapAllowed fn 2097160 = true)) ∧
    (∃ (s : State) (fn : Nat), (s.maps.wf = true) ∧ (fn ≤ 8) ∧ (s.snapAllowed fn 7376912 = true)) ∧
    (∃ (s : State), (s.maps.wf = true) ∧ (s.snapAllowed 0 7376976 = true)) :=
  ⟨⟨up, 7, 15, by decide +kernel⟩,
   ⟨up, 0, (Addr.mxe 7 16 0x10), by decide +kernel⟩,
   ⟨(vfs 2 up), 1, (Addr.vxe 1 0 8), by decide +kernel⟩,
   ⟨up, by decide +kernel⟩,
   ⟨up, 0, 7, by decide +kernel⟩,
   ⟨(pages [(0, 0x0008000000000000)] up), 0, by decide +kernel⟩,
   ⟨(up.event 1 1 1 1 1), 0, by decide +kernel⟩,
   ⟨up, by decide +kernel⟩⟩

theorem test_witness_SecurityMinimumsNeverFall :
    ∃ (s t : State), (step s = Host.Outcome.next t) :=
  ⟨(queued [.powerTrip 0] up), (after (step (queued [.powerTrip 0] up))), rfl⟩

theorem test_witness_RingEnableAndDisable :
    (∃ (s : State) (fn p r : Nat) (v : W32) (host : List HostStore), (s.maps.wf = true) ∧ (fn ≤ 8) ∧ (p < 8) ∧ (r < 16) ∧ (s.answers
      (Addr.ringCfg p r) = true) ∧ (s.fnReaches fn p = true) ∧ (s.enabled p r = false) ∧ (fld (BitVec.toNat v) 17 17 = 1) ∧ (s.enableBad p r
      v = true)) ∧
    (∃ (s : State) (fn p r : Nat) (v : W32) (host : List HostStore), (s.maps.wf = true) ∧ (fn ≤ 8) ∧ (p < 8) ∧ (r < 16) ∧ (s.answers
      (Addr.ringCfg p r) = true) ∧ (s.fnReaches fn p = true) ∧ (s.enabled p r = false) ∧ (fld (BitVec.toNat v) 17 17 = 1) ∧ (s.enableBad p r
      v = false)) ∧
    (∃ (s : State) (fn p r : Nat) (v : W32), (s.maps.wf = true) ∧ (fn ≤ 8) ∧ (p < 8) ∧ (r < 16) ∧ (s.answers (Addr.ringCfg p r) = true) ∧
      (s.fnReaches fn p = true) ∧ (s.enabled p r = true) ∧ (fld (BitVec.toNat v) 17 17 = 0)) :=
  ⟨⟨up, 0, 7, 15, 0x20000, [], by decide +kernel⟩,
   ⟨ringAgain, 0, 0, 0, 0x7060404, [⟨0x20008, 5⟩], by decide +kernel⟩,
   ⟨ringOn, 0, 0, 0, 0xFF000404, by decide +kernel⟩⟩

theorem test_witness_RingReadTakesEntries :
    (∃ (s h : State) (p r : Nat) (tick : Bool) (host : List HostStore) (n : Nat), (s.maps.wf = true) ∧ (p < 8) ∧ (r < 16) ∧ (h =
      s.hostStores host) ∧ (List.find? (fun x => x.fst == p && x.snd.fst == r) s.reading = some (p, r, tick)) ∧ (s.serving p = true) ∧
      (s.enabled p r = true) ∧ (n = (h.hostNat (s.sq p r) 4 + pow2 32 - (s.ring p r).taken) % pow2 32) ∧ (s.sqSize p r < n)) ∧
    (∃ (s h : State) (p r : Nat) (tick : Bool) (host : List HostStore) (n : Nat), (s.maps.wf = true) ∧ (p < 8) ∧ (r < 16) ∧ (h =
      s.hostStores host) ∧ (List.find? (fun x => x.fst == p && x.snd.fst == r) s.reading = some (p, r, tick)) ∧ (s.serving p = true) ∧
      (s.enabled p r = true) ∧ (n = (h.hostNat (s.sq p r) 4 + pow2 32 - (s.ring p r).taken) % pow2 32) ∧ (n ≤ s.sqSize p r)) ∧
    (∃ (s h : State) (p r : Nat) (tick : Bool) (host : List HostStore) (n : Nat), (s.maps.wf = true) ∧ (p < 8) ∧ (r < 16) ∧ (h =
      s.hostStores host) ∧ (List.find? (fun x => x.fst == p && x.snd.fst == r) s.reading = some (p, r, tick)) ∧ (s.serving p = true) ∧
      (s.enabled p r = true) ∧ (n = (h.hostNat (s.sq p r) 4 + pow2 32 - (s.ring p r).taken) % pow2 32) ∧ (n ≤ s.sqSize p r)) :=
  ⟨⟨ringRead, (ringRead.hostStores [⟨0x10000, 17⟩]), 0, 0, true, [⟨0x10000, 17⟩], 17, by decide +kernel⟩,
   ⟨ringRead, (ringRead.hostStores [⟨0x10000, 16⟩]), 0, 0, true, [⟨0x10000, 16⟩], 16, by decide +kernel⟩,
   ⟨ringRead, (ringRead.hostStores []), 0, 0, true, [], 0, by decide +kernel⟩⟩

theorem test_witness_GraphsEnterTheTaskTable :
    (∃ (s : State) (g : GraphRec), (s.memGood) ∧ (s.tablesOk g) ∧ (g.p < 8) ∧ (g.r < 16) ∧ (s.serving g.p = true) ∧ (s.hasTurn
      SharedUnit.admission s.admitWaiting g.p = true) ∧ (List.find? (fun x => x.p == g.p && x.phase == GPhase.taken) s.graphs = some g) ∧
      (g.addr % 64 = 0) ∧ (s.rangeFault g.p g.addr 64 = none) ∧ (s.headerOk g = true) ∧ (g.recompute.isSome = true ∨ (s.graphs.any fun x =>
      x.p == g.p && x.phase == GPhase.backlog) = false ∧ s.quotaUsed g.p + s.devNat g.addr 2 ≤ (Option.map PartRec.quota (s.part g.p)).getD
      0)) ∧
    (∃ (s : State) (g : GraphRec), (s.memGood) ∧ (g.p < 8) ∧ (g.r < 16) ∧ (s.serving g.p = true) ∧ (s.hasTurn SharedUnit.admission
      s.admitWaiting g.p = true) ∧ (List.find? (fun x => x.p == g.p && x.phase == GPhase.taken) s.graphs = some g) ∧ (g.addr % 64 = 0) ∧
      (s.rangeFault g.p g.addr 64 = none) ∧ (s.headerOk g = true) ∧ (g.recompute = none) ∧ ((s.graphs.any fun x => x.p == g.p && x.phase ==
      GPhase.backlog) = true ∨ (Option.map PartRec.quota (s.part g.p)).getD 0 < s.quotaUsed g.p + s.devNat g.addr 2)) ∧
    (∃ (s : State) (g : GraphRec), (s.memGood) ∧ (s.tablesOk g) ∧ (g.p < 8) ∧ (s.serving g.p = true) ∧ (s.hasTurn SharedUnit.admission
      s.admitWaiting g.p = true) ∧ (List.find? (fun x => x.p == g.p && x.phase == GPhase.backlog) s.graphs = some g) ∧ (s.quotaUsed g.p +
      s.devNat g.addr 2 ≤ (Option.map PartRec.quota (s.part g.p)).getD 0)) ∧
    (∃ (s : State) (g : GraphRec) (st : Nat), (s.lost (g.addr / 4096) = true ∧ st = 34 ∨ s.memGood ∧ s.headerOk g = false ∧ st = 16) ∧
      (s.maps.wf = true) ∧ (g.p < 8) ∧ (g.r < 16) ∧ (s.serving g.p = true) ∧ (g.recompute = none) ∧ (s.hasTurn SharedUnit.admission
      s.admitWaiting g.p = true) ∧ (List.find? (fun x => x.p == g.p && x.phase == GPhase.taken) s.graphs = some g) ∧ (g.addr % 64 = 0) ∧
      (s.rangeFault g.p g.addr 64 = none)) ∧
    (∃ (s : State) (g : GraphRec) (st : Nat), (s.lost (g.addr / 4096) = true ∧ st = 34 ∨ s.memGood ∧ s.headerOk g = false ∧ st = 16) ∧
      (s.maps.wf = true) ∧ (g.p < 8) ∧ (g.r < 16) ∧ (s.serving g.p = true) ∧ (g.recompute = none) ∧ (s.hasTurn SharedUnit.admission
      s.admitWaiting g.p = true) ∧ (List.find? (fun x => x.p == g.p && x.phase == GPhase.taken) s.graphs = some g) ∧ (g.addr % 64 = 0) ∧
      (s.rangeFault g.p g.addr 64 = none)) ∧
    (∃ (s : State) (p r seq : Nat), (p < 8) ∧ (r < 16) ∧ (s.hasTurn SharedUnit.admission s.admitWaiting p = false)) :=
  ⟨⟨gTaken, g0, memGood_of_side rfl, tablesOk_of (by decide +kernel), by decide +kernel⟩,
   ⟨gBehind, g0, memGood_of_side rfl, by decide +kernel⟩,
   ⟨gBack, gb0, memGood_of_side rfl, tablesOk_of (by decide +kernel), by decide +kernel⟩,
   ⟨gBad, g0, 0x10, .inr ⟨memGood_of_side rfl, by decide +kernel, rfl⟩, by decide +kernel⟩,
   ⟨gLost, g0, 0x22, .inl (by decide +kernel), by decide +kernel⟩,
   ⟨gTaken, 1, 0, 0, by decide +kernel⟩⟩

theorem test_witness_CompletionEntryReachesTheRing :
    (∃ (s : State) (p r : Nat) (e : CqEntry) (rest : List CqEntry) (a n : Nat), (s.maps.wf = true) ∧ (p < 8) ∧ (r < 16) ∧ ((s.ring p
      r).kept = e :: rest) ∧ (s.ready = true) ∧ (s.stopped = false) ∧ (s.enabled p r = true) ∧ (s.cqFull p r = false) ∧ (s.hasTurn
      SharedUnit.entries s.entryWaiting p = true) ∧ (n = (s.ring p r).written) ∧ (a = s.cq p r + 64 + 32 * (n % s.cqSize p r))) ∧
    (∃ (s : State) (p r : Nat) (e : CqEntry) (rest : List CqEntry) (a n : Nat), (s.maps.wf = true) ∧ (p < 8) ∧ (r < 16) ∧ ((s.ring p
      r).kept = e :: rest) ∧ (s.ready = true) ∧ (s.stopped = false) ∧ (s.enabled p r = true) ∧ (s.cqFull p r = false) ∧ (s.hasTurn
      SharedUnit.entries s.entryWaiting p = true) ∧ (n = (s.ring p r).written) ∧ (a = s.cq p r + 64 + 32 * (n % s.cqSize p r))) ∧
    (∃ (s : State) (p r : Nat) (e : CqEntry) (rest : List CqEntry) (a n : Nat), (s.maps.wf = true) ∧ (p < 8) ∧ (r < 16) ∧ ((s.ring p
      r).kept = e :: rest) ∧ (s.ready = true) ∧ (s.stopped = false) ∧ (s.enabled p r = true) ∧ (s.cqFull p r = false) ∧ (s.hasTurn
      SharedUnit.entries s.entryWaiting p = true) ∧ (n = (s.ring p r).written) ∧ (a = s.cq p r + 64 + 32 * (n % s.cqSize p r))) ∧
    (∃ (s : State) (p r : Nat), (s.maps.wf = true) ∧ (p < 8) ∧ (r < 16) ∧ (s.cqFull p r = true)) ∧
    (∃ (s : State) (p r : Nat), (p < 8) ∧ (r < 16) ∧ ((s.ring p r).moderating = true)) ∧
    (∃ (s : State) (p r : Nat), (p < 8) ∧ (r < 16) ∧ ((s.ring p r).moderating = true)) :=
  ⟨⟨(ringKept { p := 0, r := 0, kept := [cqe 1, cqe 2], written := 15 } ringOn), 0, 0, (cqe 1), [cqe 2], (0x20040 + 32 * 15), 15,
     by decide +kernel⟩,
   ⟨(ringKept { p := 0, r := 0, kept := [cqe 1], written := 16, consumer := 1, moderating := true } ringOn), 0, 0, (cqe 1), [], 0x20040,
     16, by decide +kernel⟩,
   ⟨(ringKept { p := 0, r := 0, kept := [cqe 1], written := 16, consumer := 1, moderating := true } (ringOn.setFld (Addr.ringCfg 0 0) 31
     24 0)), 0, 0, (cqe 1), [], 0x20040, 16, by decide +kernel⟩,
   ⟨(ringKept { p := 0, r := 0, kept := [cqe 1], written := 16 } ringOn), 0, 0, by decide +kernel⟩,
   ⟨(ringKept { p := 0, r := 0, moderating := true, unsignalled := 2 } ringOn), 0, 0, by decide +kernel⟩,
   ⟨(ringKept { p := 0, r := 0, moderating := true } ringOn), 0, 0, by decide +kernel⟩⟩

theorem test_witness_TaskAdmissionChecks :
    (∃ (s : State) (tid : Nat) (x y : TaskRec), (s.memGood) ∧ (s.DescOk x y) ∧ (s.maps.wf = true) ∧ (s.task tid = some x) ∧ (x.phase =
      TPhase.fresh) ∧ (s.serving x.p = true) ∧ (s.admitHeld x = false) ∧ (s.openHeld x = false) ∧ ((s.graphs.any fun g => g.recompute ==
      some tid) = false) ∧ (s.rangesFault x.p (s.taskReads y ++ s.taskWrites y) = none) ∧ (y.f 0 1 ≠ 1 ∨ y.aOp = 0)) ∧
    (∃ (s : State) (tid : Nat) (x y : TaskRec), (s.memGood) ∧ (s.DescOk x y) ∧ (s.maps.wf = true) ∧ (s.task tid = some x) ∧ (x.phase =
      TPhase.fresh) ∧ (s.serving x.p = true) ∧ (s.admitHeld x = false) ∧ (s.openHeld x = false) ∧ ((s.graphs.any fun g => g.recompute ==
      some tid) = false) ∧ (s.rangesFault x.p (s.taskReads y ++ s.taskWrites y) = none) ∧ (y.f 0 1 = 1) ∧ (y.aOp ≠ 0) ∧ (s.atOk y = false ∨
      s.tooMany y = true)) ∧
    (∃ (s : State) (tid : Nat) (x : TaskRec), (s.memGood) ∧ (s.maps.wf = true) ∧ (s.task tid = some x) ∧ (x.phase = TPhase.fresh) ∧
      (s.serving x.p = true) ∧ (s.admitHeld x = false) ∧ (s.openHeld x = false) ∧ ((s.graphs.any fun g => g.recompute == some tid) = false)
      ∧ (s.rangeFault x.p x.descAddr 64 = none) ∧ (descSize (bytesNat (s.devBytes x.descAddr 64) 0 1) (bytesNat (s.devBytes x.descAddr 64) 1
      1) = none)) ∧
    (∃ (s : State) (tid : Nat) (x y : TaskRec) (k pg : Nat), (s.memGood) ∧ (s.DescOk x y) ∧ (s.maps.wf = true) ∧ (s.task tid = some x) ∧
      (x.phase = TPhase.fresh) ∧ (s.serving x.p = true) ∧ (s.admitHeld x = false) ∧ (s.openHeld x = false) ∧ ((s.graphs.any fun g =>
      g.recompute == some tid) = false) ∧ (s.rangesFault x.p (s.taskReads y ++ s.taskWrites y) = some (k, pg))) ∧
    (∃ (s : State) (tid : Nat) (x y : TaskRec), (s.memGood) ∧ (s.DescOk x y) ∧ (s.maps.wf = true) ∧ (s.task tid = some x) ∧ (x.phase =
      TPhase.fresh) ∧ (s.serving x.p = true) ∧ (s.admitHeld x = false) ∧ (s.openHeld x = false) ∧ ((s.graphs.any fun g => g.recompute ==
      some tid) = false) ∧ (s.rangesFault x.p (s.taskReads y ++ s.taskWrites y) = none) ∧ (y.f 0 1 = 1) ∧ (y.aOp ≠ 0) ∧ (s.atOk y = true) ∧
      (s.tooMany y = false) ∧ (s.missing y = [])) :=
  ⟨⟨pFresh, 0, (taskOf .fresh []), (taskOf .fresh (prodDesc [])), memGood_of_side rfl, descOk_of (by decide +kernel), by decide +kernel⟩,
   ⟨kvBad, 0, (taskOf .fresh []), (atPaged .fresh 1 [(0x2C, 2, 0)]), memGood_of_side rfl, descOk_of (by decide +kernel),
     by decide +kernel⟩,
   ⟨pUnlisted, 0, (taskOf .fresh []), memGood_of_side rfl, by decide +kernel⟩,
   ⟨pOutside, 0, (taskOf .fresh []), (taskOf .fresh (prodDesc [(0x60, 8, 0x400000)])), 1, 16, memGood_of_side rfl,
     descOk_of (by decide +kernel), by decide +kernel⟩,
   ⟨kvFresh, 0, (taskOf .fresh []), (atPaged .fresh 1 []), memGood_of_side rfl, descOk_of (by decide +kernel), by decide +kernel⟩⟩

theorem test_witness_TaskReadyWaitsForPredecessors :
    (∃ (s : State) (tid : Nat) (x : TaskRec) (g : GraphRec), (s.task tid = some x) ∧ (x.phase = TPhase.waiting) ∧ (s.graph x.gid = some g)
      ∧ (s.graphReleased g = true) ∧ ((s.preds x).length = x.deps.length) ∧ (∀ (y : TaskRec), y ∈ s.preds x → y.passed = true) ∧
      (s.resMayStart x = true) ∧ (∀ (y : TaskRec), y ∈ s.earlier x → y.desc ≠ [] ∧ usesClash (s.taskUses x) (s.taskUses y) = false) ∧
      (s.overwrites x = false)) ∧
    (∃ (s : State) (tid : Nat) (x : TaskRec), (s.task tid = some x) ∧ ((∃ y, y ∈ s.preds x ∧ y.passed = false) ∨ (s.preds x).length ≠
      x.deps.length ∨ s.resMayStart x = false ∨ s.overwrites x = true)) :=
  ⟨⟨(pair 1), 1, task1, { g0 with phase := .admitted, ntasks := 1 }, by decide +kernel⟩,
   ⟨(pair 0x21), 1, task1, by decide +kernel⟩⟩

theorem test_witness_TasksCompleteOnce :
    (∃ (s : State) (tid clocks : Nat) (x : TaskRec), (s.maps.wf = true) ∧ (s.task tid = some x) ∧ (x.phase = TPhase.ended) ∧
      ((s.flights.any fun f => f.tid == tid) = false) ∧ ((s.narrowDue.any fun y => y.fst == tid) = false) ∧ ((s.entryWait.any fun y => y.fst
      == tid) = false)) ∧
    (∃ (s : State) (tid clocks : Nat) (x : TaskRec), (s.maps.wf = true) ∧ (s.task tid = some x) ∧ (x.phase = TPhase.ended) ∧
      ((s.flights.any fun f => f.tid == tid) = false) ∧ ((s.narrowDue.any fun y => y.fst == tid) = false) ∧ ((s.entryWait.any fun y => y.fst
      == tid) = false)) ∧
    (∃ (s : State) (tid clocks : Nat) (x : TaskRec), (s.maps.wf = true) ∧ (s.task tid = some x) ∧ (x.phase = TPhase.ended) ∧
      ((s.flights.any fun f => f.tid == tid) = false) ∧ ((s.narrowDue.any fun y => y.fst == tid) = false) ∧ ((s.entryWait.any fun y => y.fst
      == tid) = false)) ∧
    (∃ (s : State) (tid clocks : Nat) (x y : TaskRec), (s.maps.wf = true) ∧ (s.task tid = some x) ∧ (x.phase = TPhase.waiting) ∧ ((s.preds
      x).length = x.deps.length) ∧ (∀ (z : TaskRec), z ∈ s.preds x → z.phase = TPhase.done) ∧ (List.find? (fun z => !z.passed) (s.preds x) =
      some y)) :=
  ⟨⟨(withTasks [ended 0 0]), 0, 5, (ended 0 0), by decide +kernel⟩,
   ⟨(withTasks [ended 0x21 1, task1]), 0, 5, (ended 0x21 1), by decide +kernel⟩,
   ⟨(poke 0x4000 4 77 (withTasks [failed, rival])), 0, 5, failed, by decide +kernel⟩,
   ⟨(pair 0x21), 1, 9, task1, (task0 0x21), by decide +kernel⟩⟩

theorem test_witness_IssueFollowsTheOrder :
    (∃ (s : State) (d k : Nat) (x : TaskRec) (u : UnitRec), (s.maps.wf = true) ∧ (d < 8) ∧ (k < 17) ∧ (s.stopped = false) ∧ (∀ (y :
      TaskRec), y ∈ s.tasks → s.epochAhead y d = false) ∧ (s.pickTask (List.filter (fun y => (s.nextUnit y d k).isSome) s.tasks) = some x) ∧
      (s.task x.tid = some x) ∧ (s.nextUnit x d k = some u) ∧ (x.unit u.uid = some u) ∧ (x.f 0 1 = 0) ∧ (u.phase = UPhase.todo) ∧
      (s.lostNeed x u = none)) ∧
    (∃ (s : State) (d k p : Nat) (w : StallWait) (n : Nat), (s.maps.wf = true) ∧ (d < 8) ∧ (k < 17) ∧ (w.d < 8) ∧ (s.stopped = false) ∧ (∀
      (y : TaskRec), y ∈ s.tasks → s.nextUnit y d k = none) ∧ (s.dieOwner w.d = some p) ∧ (stallCause (s.stallCauses p w.d) = some n)) ∧
    (∃ (s : State) (d k p : Nat) (w : StallWait), (s.maps.wf = true) ∧ (d < 8) ∧ (k < 17) ∧ (w.d < 8) ∧ (s.stopped = false) ∧ (∀ (y :
      TaskRec), y ∈ s.tasks → s.nextUnit y d k = none) ∧ (s.dieOwner w.d = some p) ∧ (stallCause (s.stallCauses p w.d) = none)) ∧
    (∃ (s : State) (p d : Nat) (x : TaskRec), (x ∈ s.tasks) ∧ (x.p = p) ∧ (d ∈ s.taskDies x) ∧ (x.phase = TPhase.stalled)) ∧
    (∃ (s : State) (p : Nat), (p < 8)) :=
  ⟨⟨pRun, 0, 0, pTask, pUnit, by decide +kernel⟩,
   ⟨(inRun (stalledAt 0 (atPaged .ready 1 []))), 7, 16, 0, ⟨0, 100⟩, 5, by decide +kernel⟩,
   ⟨up, 0, 0, 0, ⟨0, 100⟩, by decide +kernel⟩,
   ⟨(inRun (stalledAt 0 (atPaged .ready 1 []))), 0, 0, (stalledAt 0 (atPaged .ready 1 [])), by decide +kernel⟩,
   ⟨(tenanted [⟨0, 5, 7, 3⟩, ⟨1, 5, 7, 3⟩] up), 0, by decide +kernel⟩⟩

theorem test_witness_SlicesReadTheirLength :
    (∃ (s : State) (tid d clocks expect : Nat) (x : TaskRec) (pl : Plan) (L : Nat), (s.memGood) ∧ (s.maps.wf = true) ∧ (d < 8) ∧ (s.task
      tid = some x) ∧ (x.phase = TPhase.running) ∧ (x.sliceOn d = none) ∧ (d ∈ s.taskDies x) ∧ (s.serving x.p = true) ∧ (s.sliceFits clocks
      expect = true) ∧ (x.f 0 1 = 0) ∧ (L = s.lengthOf x) ∧ (pl = x.plan.getD (s.planOf x L)) ∧ (∃ u, u ∈ x.units ∧ u.phase = UPhase.todo ∧
      x.beyond u L = false ∧ x.f 6 1 = 0)) ∧
    (∃ (s : State) (tid d clocks expect : Nat) (x : TaskRec) (pl : Plan) (L : Nat), (s.memGood) ∧ (s.maps.wf = true) ∧ (d < 8) ∧ (s.task
      tid = some x) ∧ (x.phase = TPhase.running) ∧ (x.sliceOn d = none) ∧ (d ∈ s.taskDies x) ∧ (s.serving x.p = true) ∧ (s.sliceFits clocks
      expect = true) ∧ (x.f 0 1 = 0) ∧ (L = s.lengthOf x) ∧ (pl = x.plan.getD (s.planOf x L)) ∧ (∃ u, u ∈ x.units ∧ u.phase = UPhase.todo ∧
      x.beyond u L = false ∧ x.f 6 1 = 0)) ∧
    (∃ (s : State) (tid d clocks expect : Nat) (x : TaskRec) (pl : Plan) (L : Nat), (s.memGood) ∧ (s.maps.wf = true) ∧ (d < 8) ∧ (s.task
      tid = some x) ∧ (x.phase = TPhase.running) ∧ (x.sliceOn d = none) ∧ (d ∈ s.taskDies x) ∧ (s.serving x.p = true) ∧ (s.sliceFits clocks
      expect = true) ∧ (x.f 0 1 = 0) ∧ (L = s.lengthOf x) ∧ (pl = x.plan.getD (s.planOf x L)) ∧ (∃ u, u ∈ x.units ∧ u.phase = UPhase.todo ∧
      x.beyond u L = false ∧ x.f 6 1 = 0)) ∧
    (∃ (s : State) (tid d clocks expect : Nat) (x : TaskRec), (s.memGood) ∧ (s.maps.wf = true) ∧ (d < 8) ∧ (s.task tid = some x) ∧
      (x.phase = TPhase.running) ∧ (x.sliceOn d = none) ∧ (d ∈ s.taskDies x) ∧ (s.serving x.p = true) ∧ (x.f 0 1 = 1) ∧ (s.sliceFits clocks
      expect = true)) ∧
    (∃ (s : State) (tid d clocks expect : Nat) (f : Option ReadFault), (d < 8) ∧ (s.rd 1048576 14 0 * 2500 < clocks + expect)) ∧
    (∃ (s : State) (tid d clocks expect : Nat) (x : TaskRec), (s.maps.wf = true) ∧ (d < 8) ∧ (s.task tid = some x) ∧ (x.phase =
      TPhase.running) ∧ (x.sliceOn d = none) ∧ (d ∈ s.taskDies x) ∧ (s.serving x.p = true) ∧ (s.sliceFits clocks expect = true) ∧ (x.f 0 1 =
      0) ∧ (x.ctrl 15 14 ≠ 0) ∧ (x.f 176 8 % 4 = 0) ∧ (s.lost (x.f 176 8 / 4096) = true) ∧ (s.recoverable (x.f 176 8 / 4096) = none) ∧
      (s.blockQuiesced (x.f 176 8 / 4096) = false)) ∧
    (∃ (s : State) (tid d : Nat) (x : TaskRec) (reads : List (Nat × SlotRead)), (s.maps.wf = true) ∧ (d < 8) ∧ (s.task tid = some x) ∧
      (x.phase = TPhase.running) ∧ (∃ sl, sl ∈ x.slices ∧ sl.die = d ∧ sl.frame < BitVec.toNat (s.reg 1048584)) ∧ ((List.map UnitRec.uid
      x.units).Nodup) ∧ (∀ (r : Nat × SlotRead), r ∈ reads → r.snd.bad = none) ∧ (∀ (u : UnitRec), u ∈ x.issuedOn d → x.atBoundary u = true)
      ∧ (s.hasRoom x.p d (List.foldl (fun x1 x2 => x1 + x2) 0 (List.map x.haltBytes (x.issuedOn d))) = true)) ∧
    (∃ (s : State) (tid d : Nat) (x : TaskRec) (reads : List (Nat × SlotRead)), (s.maps.wf = true) ∧ (d < 8) ∧ (s.task tid = some x) ∧
      (x.phase = TPhase.running) ∧ (∃ sl, sl ∈ x.slices ∧ sl.die = d ∧ sl.frame < BitVec.toNat (s.reg 1048584)) ∧ ((List.map UnitRec.uid
      x.units).Nodup) ∧ (∀ (r : Nat × SlotRead), r ∈ reads → r.snd.bad = none) ∧ (∀ (u : UnitRec), u ∈ x.issuedOn d → x.atBoundary u = true)
      ∧ (s.hasRoom x.p d (List.foldl (fun x1 x2 => x1 + x2) 0 (List.map x.haltBytes (x.issuedOn d))) = true)) ∧
    (∃ (s : State) (tid d : Nat) (x : TaskRec) (reads : List (Nat × SlotRead)), (d < 8) ∧ (s.task tid = some x) ∧ ((reads.all fun r =>
      r.snd.placed) = true) ∧ ((∃ u, u ∈ x.issuedOn d ∧ x.atBoundary u = false) ∨ s.hasRoom x.p d (List.foldl (fun x1 x2 => x1 + x2) 0
      (List.map x.haltBytes (x.issuedOn d))) = false)) :=
  ⟨⟨(withTasks [pIdle [] [pUnit]]), 0, 0, 624999, 1, (pIdle [] [pUnit]), ⟨1, 1, 17, 1⟩, 4294967296, memGood_of_side rfl,
     by decide +kernel⟩,
   ⟨(withTasks [pSplit]), 0, 0, 0, 0, pSplit, ⟨1, 32, 17, 2⟩, 4294967296, memGood_of_side rfl, by decide +kernel⟩,
   ⟨(lenIs 1), 0, 0, 0, 0, pLen, ⟨1, 1, 17, 1⟩, 1, memGood_of_side rfl, by decide +kernel⟩,
   ⟨(withTasks [atFull .running []]), 0, 0, 0, 9, (atFull .running []), memGood_of_side rfl, by decide +kernel⟩,
   ⟨up, 0, 0, 624999, 2, none, by decide +kernel⟩,
   ⟨lostLen, 0, 0, 0, 0, pLen, by decide +kernel⟩,
   ⟨(frameNo 1 (withTasks [pIssued])), 0, 0, pIssued, [], by decide +kernel⟩,
   ⟨(frameNo 1 (withTasks [pMidK])), 0, 0, pMidK, [(0, { corr := 3 })], by decide +kernel⟩,
   ⟨(frameNo 1 (withTasks [pMidPanel])), 0, 0, pMidPanel, [], by decide +kernel⟩⟩

theorem test_witness_RealTimeWindowsHaltOtherWork :
    (∃ (s : State) (slot : Nat), (slot < 64) ∧ (s.slotValid slot = true)) ∧
    (∃ (s : State) (tid uid : Nat) (x : TaskRec) (u : UnitRec) (read : SlotRead), (s.maps.wf = true) ∧ (s.task tid = some x) ∧ (x.unit uid
      = some u) ∧ ((List.map UnitRec.uid x.units).Nodup) ∧ (u.phase = UPhase.issued) ∧ (read.bad = none) ∧ (s.hasRoom x.p u.die (x.haltBytes
      u) = true) ∧ (((u.die, false) ∈ x.halts ∨ s.powerHold = true ∧ x.slot = 0) ∨ (x.unhalted u.die = false ∨ s.tripped = true ∧ x.slot =
      0) ∧ x.atBoundary u = true)) ∧
    (∃ (s : State) (tid uid : Nat) (x : TaskRec) (u : UnitRec) (read : SlotRead), (s.maps.wf = true) ∧ (s.task tid = some x) ∧ (x.unit uid
      = some u) ∧ ((List.map UnitRec.uid x.units).Nodup) ∧ (u.phase = UPhase.issued) ∧ (read.bad = none) ∧ (s.hasRoom x.p u.die (x.haltBytes
      u) = true) ∧ (((u.die, false) ∈ x.halts ∨ s.powerHold = true ∧ x.slot = 0) ∨ (x.unhalted u.die = false ∨ s.tripped = true ∧ x.slot =
      0) ∧ x.atBoundary u = true)) ∧
    (∃ (s : State) (slot : Nat), (slot < 64) ∧ (s.slotValid slot = true) ∧ (¬slot ∈ s.slotsOn)) ∧
    (∃ (s : State) (slot : Nat), (s.maps.wf = true) ∧ (slot < 64) ∧ (slot ∈ s.slotsOn)) :=
  ⟨⟨(slotted 63 (withTasks [pIssued])), 63, by decide +kernel⟩,
   ⟨(withTasks [pHalted]), 0, 0, pHalted, { pUnit with phase := .issued, attempt := 1, acc := [[]] }, {}, by decide +kernel⟩,
   ⟨(withTasks [pMidK]), 0, 0, pMidK, uMidK, {}, by decide +kernel⟩,
   ⟨(slotted 0 (withTasks [pHalted])), 0, by decide +kernel⟩,
   ⟨(opened [0, 63] (slotted 63 (withTasks [{ pIssued with slot := 64 }]))), 63, by decide +kernel⟩⟩

theorem test_witness_RepeatsStartAgain :
    (∃ (s : State) (tid : Nat) (x : TaskRec), (s.maps.wf = true) ∧ (s.task tid = some x) ∧ (x.phase = TPhase.running) ∧ (x.oneShot =
      false) ∧ (x.retries < s.taskRetries) ∧ (∃ u, u ∈ x.units ∧ u.phase = UPhase.abandoned)) ∧
    (∃ (s : State) (tid : Nat) (x : TaskRec), (s.maps.wf = true) ∧ (s.task tid = some x) ∧ (x.f 0 1 = 1) ∧ (x.phase = TPhase.running ∨
      x.phase = TPhase.stalled)) :=
  ⟨⟨(withTasks [pAbandoned]), 0, pAbandoned, by decide +kernel⟩,
   ⟨(withTasks [aRunning]), 0, aRunning, by decide +kernel⟩⟩

theorem test_witness_ProductsIssueTheirTiles :
    (∃ (s : State) (tid : Nat) (x : TaskRec), (s.task tid = some x) ∧ (x.phase = TPhase.ready) ∧ (x.f 0 1 = 0) ∧ (s.productOk x = true)) ∧
    (∃ (s : State) (tid : Nat) (x : TaskRec), (s.task tid = some x) ∧ (x.phase = TPhase.ready) ∧ (x.f 0 1 = 0) ∧ (s.productOk x = false)) ∧
    (∃ (s : State) (tid uid k : Nat) (x : TaskRec) (u : UnitRec), (s.maps.wf = true) ∧ (k < 17) ∧ (s.task tid = some x) ∧ (x.unit uid =
      some u) ∧ (s.tileReady x u k = true) ∧ (u.phase = UPhase.todo) ∧ (s.engineOk x u k = true) ∧ (s.epochAhead x u.die = false) ∧
      (s.lostNeed x u = none)) ∧
    (∃ (s : State) (tid uid k : Nat) (x : TaskRec) (u : UnitRec) (b : Nat), (s.maps.wf = true) ∧ (k < 17) ∧ (s.task tid = some x) ∧
      (x.unit uid = some u) ∧ (s.tileReady x u k = true) ∧ (u.phase = UPhase.todo) ∧ (s.engineOk x u k = true) ∧ (s.epochAhead x u.die =
      false) ∧ (s.lostNeed x u = some b) ∧ (s.recoverable b = none)) ∧
    (∃ (s : State) (tid uid k : Nat) (x : TaskRec) (u : UnitRec), (s.maps.wf = true) ∧ (k < 17) ∧ (s.task tid = some x) ∧ (x.unit uid =
      some u) ∧ (s.tileReady x u k = true) ∧ (u.phase = UPhase.todo) ∧ (s.engineOk x u k = true) ∧ (s.epochAhead x u.die = true) ∧
      (u.epochHeld = false)) ∧
    (∃ (s : State) (tid uid k : Nat) (x : TaskRec) (u : UnitRec), (s.maps.wf = true) ∧ (k < 17) ∧ (s.task tid = some x) ∧ (x.unit uid =
      some u) ∧ (s.tileReady x u k = true) ∧ (u.phase = UPhase.halted) ∧ (u.eng = k ∨ s.mxeActive u.die u.eng = false) ∧ (s.lostNeed x u =
      none)) ∧
    (∃ (s : State) (tid uid k : Nat) (x : TaskRec) (u : UnitRec), (s.maps.wf = true) ∧ (k < 17) ∧ (s.task tid = some x) ∧ (x.unit uid =
      some u) ∧ (s.tileReady x u k = true) ∧ (u.phase = UPhase.failed) ∧ (s.redoOk u k = true) ∧ (s.lostNeed x u = none)) ∧
    (∃ (s : State) (tid uid k : Nat) (x : TaskRec) (u : UnitRec), (s.maps.wf = true) ∧ (k < 17) ∧ (s.task tid = some x) ∧ (x.unit uid =
      some u) ∧ (s.tileReady x u k = true) ∧ (u.phase = UPhase.escalate) ∧ (s.lostNeed x u = none)) :=
  ⟨⟨(inRun (taskOf .ready (prodDesc []))), 0, (taskOf .ready (prodDesc [])), by decide +kernel⟩,
   ⟨(inRun (taskOf .ready (prodDesc [(0x20, 4, 0)]))), 0, (taskOf .ready (prodDesc [(0x20, 4, 0)])), by decide +kernel⟩,
   ⟨pRun, 0, 0, 16, pTask, pUnit, by decide +kernel⟩,
   ⟨(lost2 (inRun (prodIn [] [pUnit]))), 0, 0, 16, (prodIn [] [pUnit]), pUnit, 2, by decide +kernel⟩,
   ⟨(inRun (prodIn [(8, 4, 1)] [pUnit])), 0, 0, 0, (prodIn [(8, 4, 1)] [pUnit]), pUnit, by decide +kernel⟩,
   ⟨(inRun (prodIn [] [uHalted])), 0, 0, 16, (prodIn [] [uHalted]), uHalted, by decide +kernel⟩,
   ⟨(inRun (prodIn [] [uFailed])), 0, 0, 1, (prodIn [] [uFailed]), uFailed, by decide +kernel⟩,
   ⟨(inRun (prodIn [] [unitIn .escalate])), 0, 0, 1, (prodIn [] [unitIn .escalate]), (unitIn .escalate), by decide +kernel⟩⟩

theorem test_witness_ChunksAccumulateAndSpill :
    (∃ (s : State) (tid uid : Nat) (env : ChunkEnv) (x : TaskRec) (u : UnitRec) (n : Nat), (s.maps.wf = true) ∧ (env.vxe < 16) ∧ (∀ (f :
      ArrayFault), f ∈ env.faults → f.placed = true) ∧ (u.die < 8) ∧ (u.eng < 17) ∧ (x.p < 8) ∧ (s.task tid = some x) ∧ (x.unit uid = some
      u) ∧ (u.phase = UPhase.issued) ∧ (u.spilled = false) ∧ (x.f 0 1 = 0) ∧ (u.next < u.last) ∧ (x.chunkTurn u = true) ∧ (∀ (b : Nat), b ∈
      s.chunkNeeds x u → b ∈ u.arrived) ∧ (x.prologueRuns u = false ∨ env.parity = none ∧ env.ftEcc = none) ∧ ((s.sumChunk x u
      env.faults).found = none) ∧ (n = productChunkClocks (x.attemptFmts u).fst (x.attemptFmts u).snd x.complex)) ∧
    (∃ (s : State) (tid uid : Nat) (env : ChunkEnv) (x : TaskRec) (u : UnitRec) (n : Nat), (s.maps.wf = true) ∧ (env.vxe < 16) ∧ (∀ (f :
      ArrayFault), f ∈ env.faults → f.placed = true) ∧ (u.die < 8) ∧ (u.eng < 17) ∧ (x.p < 8) ∧ (s.task tid = some x) ∧ (x.unit uid = some
      u) ∧ (u.phase = UPhase.issued) ∧ (u.spilled = false) ∧ (x.f 0 1 = 0) ∧ (u.next < u.last) ∧ (x.chunkTurn u = true) ∧ (∀ (b : Nat), b ∈
      s.chunkNeeds x u → b ∈ u.arrived) ∧ (x.prologueRuns u = false ∨ env.parity = none ∧ env.ftEcc = none) ∧ ((s.sumChunk x u
      env.faults).found = none) ∧ (n = productChunkClocks (x.attemptFmts u).fst (x.attemptFmts u).snd x.complex)) ∧
    (∃ (s : State) (tid uid : Nat) (env : ChunkEnv) (x : TaskRec) (u : UnitRec) (b : Nat), (env.vxe < 16) ∧ (∀ (f : ArrayFault), f ∈
      env.faults → f.placed = true) ∧ (s.task tid = some x) ∧ (x.unit uid = some u) ∧ (b ∈ s.chunkNeeds x u) ∧ (¬b ∈ u.arrived) ∧ (u.phase ≠
      UPhase.failed)) ∧
    (∃ (s : State) (tid uid : Nat) (env : ChunkEnv) (x : TaskRec) (u : UnitRec) (b : Nat) (k : Nat × Nat × Nat), (env.vxe < 16) ∧ (∀ (f :
      ArrayFault), f ∈ env.faults → f.placed = true) ∧ (s.task tid = some x) ∧ (x.unit uid = some u) ∧ (b ∈ s.chunkNeeds x u) ∧ (¬b ∈
      u.arrived) ∧ (u.phase = UPhase.failed) ∧ (u.why = 8) ∧ (x.f 0 1 = 0) ∧ (u.next < u.last) ∧ ((s.sumChunk x u env.faults).found = some
      k)) ∧
    (∃ (s : State) (tid uid : Nat) (read : SlotRead) (x : TaskRec) (u : UnitRec), (s.maps.wf = true) ∧ (s.task tid = some x) ∧ (x.unit uid
      = some u) ∧ (u.phase = UPhase.issued) ∧ (x.f 0 1 = 0) ∧ (u.spilled = false) ∧ (read.bad = none) ∧ (s.slotNeeded x u = true) ∧
      (s.spillRoom x u = true) ∧ (∀ (v : UnitRec), v ∈ x.rowMates u → v.phase ≠ UPhase.issued ∨ v.spilled = true ∨ keyLe (x.loopKey v)
      (x.loopKey u) = true)) ∧
    (∃ (s : State) (tid uid : Nat) (read : SlotRead) (x : TaskRec) (u : UnitRec), (s.maps.wf = true) ∧ (s.task tid = some x) ∧ (x.unit uid
      = some u) ∧ (u.phase = UPhase.issued) ∧ (x.f 0 1 = 0) ∧ (s.slotNeeded x u = false ∨ s.spillRoom x u = false) ∧ (read.placed = true)) ∧
    (∃ (s : State) (tid uid : Nat) (read : SlotRead) (x : TaskRec) (u : UnitRec), (s.maps.wf = true) ∧ (s.task tid = some x) ∧ (x.unit uid
      = some u) ∧ (u.phase = UPhase.issued) ∧ (x.f 0 1 = 0) ∧ (u.spilled = true) ∧ (s.slotsUsed u.die u.eng + x.tileSlots ≤ 15)) :=
  ⟨⟨(inRun (prodIn [] [uReady])), 0, 0, { vxe := 15, wait := 7, corr := 1 }, (prodIn [] [uReady]), uReady, (productChunkClocks .bf16 .bf16
     0), by decide +kernel⟩,
   ⟨(inRun (prodIn [] [uReady])), 0, 0, { vxe := 0, wait := 0, faults := [.cell 1 1 65535] }, (prodIn [] [uReady]), uReady,
     (productChunkClocks .bf16 .bf16 0), by decide +kernel⟩,
   ⟨(inRun (prodIn [] [uBare])), 0, 0, { vxe := 15, wait := 7 }, (prodIn [] [uBare]), uBare, 2, by decide +kernel⟩,
   ⟨(inRun (prodIn [] [{ uBare with phase := .failed, why := 8 }])), 0, 0, { vxe := 15, wait := 7, faults := [.accWord 3 5] }, (prodIn []
     [{ uBare with phase := .failed, why := 8 }]), { uBare with phase := .failed, why := 8 }, 2, (4, 3, 5), by decide +kernel⟩,
   ⟨(inRun wide), 0, 0, { corr := 2 }, wide, (wideUnit 0), by decide +kernel⟩,
   ⟨(inRun (prodIn [] [uIssued])), 0, 0, {}, (prodIn [] [uIssued]), uIssued, by decide +kernel⟩,
   ⟨(inRun (prodIn [] [uSpilled])), 0, 0, {}, (prodIn [] [uSpilled]), uSpilled, by decide +kernel⟩⟩

theorem test_witness_ArrayChecksRepeatThenMove :
    (∃ (s : State) (tid uid : Nat) (x : TaskRec) (u : UnitRec) (env : ChunkEnv) (kind row col : Nat), (s.maps.wf = true) ∧ (u.die < 8) ∧
      (u.eng < 17) ∧ (x.p < 8) ∧ (s.task tid = some x) ∧ (x.unit uid = some u) ∧ (u.phase = UPhase.issued) ∧ (x.f 0 1 = 0) ∧ (env.vxe < 16)
      ∧ (∀ (f : ArrayFault), f ∈ env.faults → f.placed = true) ∧ (u.spilled = false) ∧ (u.next < u.last) ∧ (x.chunkTurn u = true) ∧ (∀ (b :
      Nat), b ∈ s.chunkNeeds x u → b ∈ u.arrived) ∧ (x.prologueRuns u = false ∨ env.parity = none ∧ env.ftEcc = none) ∧ ((s.sumChunk x u
      env.faults).found = some (kind, row, col)) ∧ (¬(u.moved = true ∧ s.taskRetries ≤ x.retries))) ∧
    (∃ (s : State) (tid uid : Nat) (x : TaskRec) (u : UnitRec) (env : ChunkEnv) (kind row col : Nat), (s.maps.wf = true) ∧ (u.die < 8) ∧
      (u.eng < 17) ∧ (x.p < 8) ∧ (s.task tid = some x) ∧ (x.unit uid = some u) ∧ (u.phase = UPhase.issued) ∧ (x.f 0 1 = 0) ∧ (env.vxe < 16)
      ∧ (∀ (f : ArrayFault), f ∈ env.faults → f.placed = true) ∧ (u.spilled = false) ∧ (u.next < u.last) ∧ (x.chunkTurn u = true) ∧ (∀ (b :
      Nat), b ∈ s.chunkNeeds x u → b ∈ u.arrived) ∧ (x.prologueRuns u = false ∨ env.parity = none ∧ env.ftEcc = none) ∧ ((s.sumChunk x u
      env.faults).found = some (kind, row, col)) ∧ (¬(u.moved = true ∧ s.taskRetries ≤ x.retries))) ∧
    (∃ (s : State) (tid uid : Nat) (x : TaskRec) (u : UnitRec) (env : ChunkEnv) (row : Nat), (s.maps.wf = true) ∧ (u.die < 8) ∧ (u.eng <
      17) ∧ (x.p < 8) ∧ (s.task tid = some x) ∧ (x.unit uid = some u) ∧ (u.phase = UPhase.issued) ∧ (x.f 0 1 = 0) ∧ (env.vxe < 16) ∧ (∀ (f :
      ArrayFault), f ∈ env.faults → f.placed = true) ∧ (u.spilled = false) ∧ (u.next < u.last) ∧ (x.chunkTurn u = true) ∧ (∀ (b : Nat), b ∈
      s.chunkNeeds x u → b ∈ u.arrived) ∧ (x.prologueRuns u = true) ∧ (laneError env.parity env.ftEcc = some row) ∧ (u.parity = 0)) ∧
    (∃ (s : State) (tid uid : Nat) (x : TaskRec) (u : UnitRec) (late : Nat), (s.maps.wf = true) ∧ (u.die < 8) ∧ (u.eng < 17) ∧ (x.p < 8) ∧
      (s.task tid = some x) ∧ (x.unit uid = some u) ∧ (u.phase = UPhase.issued) ∧ (x.f 0 1 = 0) ∧ (¬(u.moved = true ∧ s.taskRetries ≤
      x.retries))) ∧
    (∃ (s : State) (tid uid : Nat) (x : TaskRec) (u : UnitRec) (late : Nat), (s.maps.wf = true) ∧ (u.die < 8) ∧ (u.eng < 17) ∧ (x.p < 8) ∧
      (s.task tid = some x) ∧ (x.unit uid = some u) ∧ (u.phase = UPhase.issued) ∧ (x.f 0 1 = 0) ∧ (u.moved = true) ∧ (s.taskRetries ≤
      x.retries) ∧ (x.phase = TPhase.running)) :=
  ⟨⟨(inRun (prodIn [] [uReady])), 0, 0, (prodIn [] [uReady]), uReady, { vxe := 0, wait := 0, faults := [.cell 1 1 5] }, 1, 1, 1,
     by decide +kernel⟩,
   ⟨(inRun (prodIn [] [uReadyMoved])), 0, 0, (prodIn [] [uReadyMoved]), uReadyMoved, { vxe := 0, wait := 0, faults := [.accWord 1 0] }, 4,
     1, 0, by decide +kernel⟩,
   ⟨(inRun (withPro (prodIn [] [uReady]))), 0, 0, (withPro (prodIn [] [uReady])), uReady, { vxe := 15, wait := 3, parity := some 1 }, 1,
     by decide +kernel⟩,
   ⟨(inRun (prodIn [] [{ uIssued with fails := 1 }])), 0, 0, (prodIn [] [{ uIssued with fails := 1 }]), { uIssued with fails := 1 }, 3,
     by decide +kernel⟩,
   ⟨(inRun (exhausted (prodIn [] [uMoved]))), 0, 0, (exhausted (prodIn [] [uMoved])), uMoved, 0, by decide +kernel⟩⟩

theorem test_witness_DrainsSendRowsToMemory :
    (∃ (s : State) (tid uid : Nat) (env : DrainEnv) (x : TaskRec) (u : UnitRec), (s.maps.wf = true) ∧ (env.vxe < 16) ∧ (u.die < 8) ∧
      (u.eng < 17) ∧ (env.slot.placed = true) ∧ (s.task tid = some x) ∧ (x.unit uid = some u) ∧ (u.phase = UPhase.summed) ∧ (x.f 0 1 = 0) ∧
      (s.allArrived x u = false)) ∧
    (∃ (s : State) (tid uid : Nat) (env : DrainEnv) (x : TaskRec) (u : UnitRec), (s.maps.wf = true) ∧ (env.vxe < 16) ∧ (u.die < 8) ∧
      (u.eng < 17) ∧ (env.slot.placed = true) ∧ (s.task tid = some x) ∧ (x.unit uid = some u) ∧ (u.phase = UPhase.summed) ∧ (x.f 0 1 = 0) ∧
      (s.allArrived x u = true) ∧ (u.part ≠ 0) ∧ (s.partRoom x u = false)) ∧
    (∃ (s : State) (tid uid : Nat) (env : DrainEnv) (x : TaskRec) (u : UnitRec), (s.maps.wf = true) ∧ (env.vxe < 16) ∧ (u.die < 8) ∧
      (u.eng < 17) ∧ (env.slot.placed = true) ∧ (s.task tid = some x) ∧ (x.unit uid = some u) ∧ (u.phase = UPhase.summed) ∧ (x.f 0 1 = 0) ∧
      (s.allArrived x u = true) ∧ (u.part ≠ 0) ∧ (s.partRoom x u = true) ∧ (env.slot.bad = none)) ∧
    (∃ (s : State) (tid uid : Nat) (env : DrainEnv) (x : TaskRec) (u : UnitRec) (r c : Nat), (s.maps.wf = true) ∧ (env.vxe < 16) ∧ (u.die
      < 8) ∧ (u.eng < 17) ∧ (env.slot.placed = true) ∧ (s.task tid = some x) ∧ (x.unit uid = some u) ∧ (u.phase = UPhase.summed) ∧ (x.f 0 1
      = 0) ∧ (s.allArrived x u = true) ∧ (x.p < 8) ∧ (env.slot.bad = some (r, c)) ∧ (¬(u.moved = true ∧ s.taskRetries ≤ x.retries)) ∧
      (u.part ≠ 0 ∧ s.partRoom x u = true ∨ u.part = 0 ∧ x.parts u = [] ∧ s.vxeOk x u.die env.vxe = true ∧ s.stageRoom x u = true)) ∧
    (∃ (s : State) (tid uid : Nat) (env : DrainEnv) (x : TaskRec) (u : UnitRec), (s.maps.wf = true) ∧ (env.vxe < 16) ∧ (u.die < 8) ∧
      (u.eng < 17) ∧ (env.slot.placed = true) ∧ (s.task tid = some x) ∧ (x.unit uid = some u) ∧ (u.phase = UPhase.summed) ∧ (x.f 0 1 = 0) ∧
      (s.allArrived x u = true) ∧ (u.part = 0) ∧ (x.epilogue = 0) ∧ (x.epi = none) ∧ (env.slot.bad = none) ∧ (env.parity = none) ∧
      (env.ftEcc = none) ∧ (x.discard = false) ∧ (x.parts u = [])) ∧
    (∃ (s : State) (tid uid : Nat) (env : DrainEnv) (x : TaskRec) (u : UnitRec), (s.maps.wf = true) ∧ (env.vxe < 16) ∧ (u.die < 8) ∧
      (u.eng < 17) ∧ (env.slot.placed = true) ∧ (s.task tid = some x) ∧ (x.unit uid = some u) ∧ (u.phase = UPhase.summed) ∧ (x.f 0 1 = 0) ∧
      (s.allArrived x u = true) ∧ (u.part = 0) ∧ (x.epilogue = 0) ∧ (x.epi = none) ∧ (env.slot.bad = none) ∧ (env.parity = none) ∧
      (env.ftEcc = none) ∧ (x.discard = false) ∧ (x.parts u ≠ []) ∧ (∀ (v : UnitRec), v ∈ x.parts u → v.phase = UPhase.drained)) :=
  ⟨⟨(inRun (prodIn [] [{ unitIn .summed with arrived := [] }])), 0, 0, drainEnv, (prodIn [] [{ unitIn .summed with arrived := [] }]),
     { unitIn .summed with arrived := [] }, by decide +kernel⟩,
   ⟨(allKept (inRun (prodIn [] [uPart1]))), 0, 1, drainEnv, (prodIn [] [uPart1]), uPart1, by decide +kernel⟩,
   ⟨(inRun (prodIn [] [uPart1])), 0, 1, drainEnv, (prodIn [] [uPart1]), uPart1, by decide +kernel⟩,
   ⟨(inRun (prodIn [] [unitIn .summed])), 0, 0, (badSlot 127 127), (prodIn [] [unitIn .summed]), (unitIn .summed), 127, 127,
     by decide +kernel⟩,
   ⟨(inRun (prodIn [] [unitIn .summed])), 0, 0, drainEnv, (prodIn [] [unitIn .summed]), (unitIn .summed), by decide +kernel⟩,
   ⟨(inRun (prodIn [] [unitIn .summed, uPart])), 0, 0, drainEnv, (prodIn [] [unitIn .summed, uPart]), (unitIn .summed), by decide +kernel⟩⟩

theorem test_witness_FenceDropsInvalidWrites :
    (∃ (s : State) (i : Nat) (f : Flight), (s.maps.wf = true) ∧ (s.flights[i]? = some f) ∧ (s.stopped = false) ∧ (s.offside f = true ∨
      s.stale f = true)) ∧
    (∃ (s : State) (i : Nat) (f : Flight), (s.maps.wf = true) ∧ (s.flights[i]? = some f) ∧ (s.stopped = false) ∧ (s.offside f = true ∨
      s.stale f = true)) ∧
    (∃ (s : State) (i : Nat) (f : Flight), (s.maps.wf = true) ∧ (s.flights[i]? = some f) ∧ (s.stopped = false) ∧ (s.flightFits f = false)) ∧
    (∃ (s : State) (i : Nat) (f : Flight), (s.maps.wf = true) ∧ (s.flights[i]? = some f) ∧ (s.stopped = false) ∧ (s.offside f = false) ∧
      (s.stale f = false) ∧ (s.flightFits f = true) ∧ ((List.map Prod.fst f.bytes).Nodup)) :=
  ⟨⟨(flying 9 1), 0, (flight 9 1), by decide +kernel⟩,
   ⟨(flying 0 0), 0, (flight 0 0), by decide +kernel⟩,
   ⟨(heldPage (flying 0 1)), 0, (flight 0 1), by decide +kernel⟩,
   ⟨(flying 0 1), 0, (flight 0 1), by decide +kernel⟩⟩

theorem test_witness_StoredTilesEndOrEscalate :
    (∃ (s : State) (tid uid : Nat) (x : TaskRec) (u : UnitRec), (s.maps.wf = true) ∧ (s.task tid = some x) ∧ (x.unit uid = some u) ∧
      (u.phase = UPhase.drained) ∧ (u.part = 0) ∧ (x.f 0 1 = 0) ∧ (s.inFlight tid u = false) ∧ (x.defers = false) ∧ (x.phase =
      TPhase.running) ∧ (u.judged = true ∨ x.f 56 4 = 4294967295 ∨ u.sat ≤ x.f 56 4)) ∧
    (∃ (s : State) (tid uid : Nat) (x : TaskRec) (u : UnitRec), (s.maps.wf = true) ∧ (s.task tid = some x) ∧ (x.unit uid = some u) ∧
      (u.phase = UPhase.drained) ∧ (u.part = 0) ∧ (x.f 0 1 = 0) ∧ (s.inFlight tid u = false) ∧ (x.defers = false) ∧ (x.phase =
      TPhase.running) ∧ (u.judged = true ∨ x.f 56 4 = 4294967295 ∨ u.sat ≤ x.f 56 4)) ∧
    (∃ (s : State) (tid uid : Nat) (x : TaskRec) (u : UnitRec), (s.maps.wf = true) ∧ (s.task tid = some x) ∧ (x.unit uid = some u) ∧
      (u.phase = UPhase.drained) ∧ (u.part = 0) ∧ (x.f 0 1 = 0) ∧ (s.inFlight tid u = false) ∧ (x.defers = false) ∧ (x.phase =
      TPhase.running) ∧ (u.judged = false) ∧ (x.f 56 4 ≠ 4294967295) ∧ (x.f 56 4 < u.sat) ∧ (x.ctrl 21 18 ≠ 0)) ∧
    (∃ (s : State) (tid uid : Nat) (x : TaskRec) (u : UnitRec), (s.maps.wf = true) ∧ (s.task tid = some x) ∧ (x.unit uid = some u) ∧
      (u.phase = UPhase.drained) ∧ (u.part = 0) ∧ (x.f 0 1 = 0) ∧ (s.inFlight tid u = false) ∧ (x.defers = false) ∧ (x.phase =
      TPhase.running) ∧ (u.judged = false) ∧ (x.f 56 4 ≠ 4294967295) ∧ (x.f 56 4 < u.sat) ∧ (x.ctrl 21 18 = 0)) ∧
    (∃ (s : State) (tid uid : Nat) (x : TaskRec) (u : UnitRec), (s.maps.wf = true) ∧ (s.task tid = some x) ∧ (x.unit uid = some u) ∧
      (u.phase = UPhase.drained) ∧ (u.part = 0) ∧ (x.f 0 1 = 0) ∧ (s.inFlight tid u = false) ∧ (x.defers = true) ∧ (x.phase =
      TPhase.running) ∧ (u.judged = true ∨ x.f 56 4 = 4294967295 ∨ u.sat ≤ x.f 56 4 ∨ x.ctrl 21 18 = 0)) ∧
    (∃ (s : State) (d k gen pair : Nat) (begun : List Flight) (join : Prop), (s.maps.wf = true) ∧ (d < 8) ∧ (k < 17) ∧ (gen < 65536) ∧
      ((s.engRec d 0 k).due = true) ∧ (s.mxeActive d k = true) ∧ (begun = List.filter (s.begun d k) s.flights) ∧ (∀ (f : Flight), f ∈ begun
      → s.flightFits f = true) ∧ (pair = s.rd (Addr.mxe d k 0) 15 8) ∧ (join ↔ s.rd (Addr.mxe d 16 0) 3 0 = 1 ∨ pair ≠ 255 ∧ k ≠ 16 ∧
      s.mxeActive d 16 = true ∧ s.rd (Addr.mxe d 16 0) 15 8 = 255)) ∧
    (∃ (s : State) (d k gen pair : Nat) (begun : List Flight) (join : Prop), (s.maps.wf = true) ∧ (d < 8) ∧ (k < 17) ∧ (gen < 65536) ∧
      ((s.engRec d 0 k).due = true) ∧ (s.mxeActive d k = true) ∧ (begun = List.filter (s.begun d k) s.flights) ∧ (∀ (f : Flight), f ∈ begun
      → s.flightFits f = true) ∧ (pair = s.rd (Addr.mxe d k 0) 15 8) ∧ (join ↔ s.rd (Addr.mxe d 16 0) 3 0 = 1 ∨ pair ≠ 255 ∧ k ≠ 16 ∧
      s.mxeActive d 16 = true ∧ s.rd (Addr.mxe d 16 0) 15 8 = 255)) ∧
    (∃ (s : State) (d k gen pair : Nat) (begun : List Flight) (join : Prop), (s.maps.wf = true) ∧ (d < 8) ∧ (k < 17) ∧ (gen < 65536) ∧
      ((s.engRec d 0 k).due = true) ∧ (s.mxeActive d k = true) ∧ (begun = List.filter (s.begun d k) s.flights) ∧ (∀ (f : Flight), f ∈ begun
      → s.flightFits f = true) ∧ (pair = s.rd (Addr.mxe d k 0) 15 8) ∧ (join ↔ s.rd (Addr.mxe d 16 0) 3 0 = 1 ∨ pair ≠ 255 ∧ k ≠ 16 ∧
      s.mxeActive d 16 = true ∧ s.rd (Addr.mxe d 16 0) 15 8 = 255)) :=
  ⟨⟨(inRun (prodIn [] [uSat 0])), 0, 0, (prodIn [] [uSat 0]), (uSat 0), by decide +kernel⟩,
   ⟨(inRun (prodIn [] [uSatMoved, pIssued.units.headD pUnit])), 0, 0, (prodIn [] [uSatMoved, pIssued.units.headD pUnit]), uSatMoved,
     by decide +kernel⟩,
   ⟨(inRun (prodIn [(0x30, 8, 0x40000)] [uSat 1])), 0, 0, (prodIn [(0x30, 8, 0x40000)] [uSat 1]), (uSat 1), by decide +kernel⟩,
   ⟨(inRun (prodIn [(0x38, 4, 4)] [uSat 5])), 0, 0, (prodIn [(0x38, 4, 4)] [uSat 5]), (uSat 5), by decide +kernel⟩,
   ⟨(inRun (withStat (prodIn [(0x38, 4, 4)] [uSat 5, uStaged1]))), 0, 0, (withStat (prodIn [(0x38, 4, 4)] [uSat 5, uStaged1])), (uSat 5),
     by decide +kernel⟩,
   ⟨retiring, 0, 3, 65535, 255, [], False, by decide +kernel⟩,
   ⟨retiringSub, 0, 3, 65535, 255, [], True, by decide +kernel⟩,
   ⟨retiringBusy, 0, 3, 65535, 255, [{ flight 1 1 with eng := 3 }], False, by decide +kernel⟩⟩

theorem test_witness_ApplyPassesFollowTheStatistic :
    (∃ (s : State) (tid b rb : Nat) (env : DrainEnv) (x : TaskRec) (u0 : UnitRec) (rest : List UnitRec), (s.maps.wf = true) ∧ (env.vxe <
      16) ∧ (s.task tid = some x) ∧ (x.f 0 1 = 0) ∧ (x.rowTiles b rb = u0 :: rest) ∧ (x.epi.isSome = true) ∧ (u0.die < 8) ∧ ((List.map
      UnitRec.uid x.units).Nodup) ∧ (∀ (u : UnitRec), u ∈ x.rowTiles b rb → s.inFlight tid u = false ∧ u.die = u0.die ∧ env.vxe ∈
      s.activeVxes u.die) ∧ (∀ (u : UnitRec), u ∈ x.rowTiles b rb → u.phase = UPhase.staged ∧ u.judged = false) ∧ (env.parity = none) ∧
      (env.ftEcc = none)) ∧
    (∃ (s : State) (tid b rb : Nat) (env : DrainEnv) (x : TaskRec) (u0 : UnitRec) (rest : List UnitRec), (s.maps.wf = true) ∧ (env.vxe <
      16) ∧ (s.task tid = some x) ∧ (x.f 0 1 = 0) ∧ (x.rowTiles b rb = u0 :: rest) ∧ (x.epi.isSome = true) ∧ (u0.die < 8) ∧ ((List.map
      UnitRec.uid x.units).Nodup) ∧ (∀ (u : UnitRec), u ∈ x.rowTiles b rb → s.inFlight tid u = false ∧ u.die = u0.die ∧ env.vxe ∈
      s.activeVxes u.die) ∧ (∀ (u : UnitRec), u ∈ x.rowTiles b rb → u.judged = true ∧ (u.phase = UPhase.staged ∨ u.phase = UPhase.stored)) ∧
      (∃ u, u ∈ x.rowTiles b rb ∧ u.phase = UPhase.staged) ∧ (env.parity = none) ∧ (env.ftEcc = none)) ∧
    (∃ (s : State) (tid b rb : Nat) (env : DrainEnv) (x : TaskRec) (u0 : UnitRec) (rest : List UnitRec) (row : Nat) (u : UnitRec),
      (s.maps.wf = true) ∧ (env.vxe < 16) ∧ (s.task tid = some x) ∧ (x.f 0 1 = 0) ∧ (x.rowTiles b rb = u0 :: rest) ∧ (x.epi.isSome = true) ∧
      (u0.die < 8) ∧ ((List.map UnitRec.uid x.units).Nodup) ∧ (∀ (u : UnitRec), u ∈ x.rowTiles b rb → s.inFlight tid u = false ∧ u.die =
      u0.die ∧ env.vxe ∈ s.activeVxes u.die) ∧ (∀ (w : UnitRec), w ∈ x.rowTiles b rb → w.phase = UPhase.staged ∧ w.judged = false) ∧
      (laneError env.parity env.ftEcc = some row) ∧ (List.find? (fun w => w.ct == env.tile) (x.rowTiles b rb) = some u) ∧ (u.parity = 0)) :=
  ⟨⟨(inRun (withStat (prodIn [] [uStaged false]))), 0, 0, 0, drainEnv, (withStat (prodIn [] [uStaged false])), (uStaged false), [],
     by decide +kernel⟩,
   ⟨(inRun (withStat (prodIn [] [uStaged true]))), 0, 0, 0, drainEnv, (withStat (prodIn [] [uStaged true])), (uStaged true), [],
     by decide +kernel⟩,
   ⟨(inRun (withStat (prodIn [] [uStaged false, uStaged1]))), 0, 0, 0, { drainEnv with parity := some 1 }, (withStat (prodIn [] [uStaged
     false, uStaged1])), (uStaged false), [uStaged1], 1, (uStaged false), by decide +kernel⟩⟩

theorem test_witness_OneStepTasksCheckTheirInputs :
    (∃ (s : State) (tid vxe : Nat) (x : TaskRec) (c : Instr) (ok : Bool) (ins : List Nat) (outs : List Rng), (s.maps.wf = true) ∧ (vxe <
      16) ∧ (s.task tid = some x) ∧ (s.mayRun x = true) ∧ (∀ (d : Nat), d ∈ s.taskDies x → vxe ∈ s.activeVxes d) ∧ (s.taskDies x ≠ []) ∧ (c
      = Instr.convert tid ∧ x.isKind 3 0 = true ∧ ok = x.cvOk ∧ ins = rngBlocks x.cvReads ∧ outs = x.cvWrites ∨ c = Instr.codebookLoad tid ∧
      x.isKind 3 2 = true ∧ ok = (x.loadDescOk false true && decide (18 ≤ x.f 44 4) && decide (x.f 44 4 ≤ 31)) ∧ ins = rngBlocks x.cbReads ∧
      outs = [] ∨ c = Instr.seedLoad tid ∧ x.isKind 3 4 = true ∧ ok = x.loadDescOk false false ∧ ins = rngBlocks x.seedReads ∧ outs = [] ∨ c
      = Instr.rngFill tid ∧ x.isKind 3 5 = true ∧ ok = x.rfOk ∧ ins = [] ∧ outs = x.rfWrites ∨ c = Instr.reuseGate tid vxe ∧ x.isKind 2 1 =
      true ∧ ok = x.rgOk ∧ ins = rngBlocks x.rgReads ∧ outs = x.rgWrites.flatten ∨ c = Instr.finiteCheck tid vxe ∧ x.isKind 2 2 = true ∧ ok
      = x.fcOk ∧ ins = rngBlocks x.fcReads ∧ outs = x.fcWrites.flatten) ∧ (ok = false)) ∧
    (∃ (s : State) (tid vxe : Nat) (x : TaskRec) (c : Instr) (ok : Bool) (ins : List Nat) (outs : List Rng), (s.maps.wf = true) ∧ (vxe <
      16) ∧ (s.task tid = some x) ∧ (s.mayRun x = true) ∧ (∀ (d : Nat), d ∈ s.taskDies x → vxe ∈ s.activeVxes d) ∧ (s.taskDies x ≠ []) ∧ (c
      = Instr.convert tid ∧ x.isKind 3 0 = true ∧ ok = x.cvOk ∧ ins = rngBlocks x.cvReads ∧ outs = x.cvWrites ∨ c = Instr.codebookLoad tid ∧
      x.isKind 3 2 = true ∧ ok = (x.loadDescOk false true && decide (18 ≤ x.f 44 4) && decide (x.f 44 4 ≤ 31)) ∧ ins = rngBlocks x.cbReads ∧
      outs = [] ∨ c = Instr.seedLoad tid ∧ x.isKind 3 4 = true ∧ ok = x.loadDescOk false false ∧ ins = rngBlocks x.seedReads ∧ outs = [] ∨ c
      = Instr.rngFill tid ∧ x.isKind 3 5 = true ∧ ok = x.rfOk ∧ ins = [] ∧ outs = x.rfWrites ∨ c = Instr.reuseGate tid vxe ∧ x.isKind 2 1 =
      true ∧ ok = x.rgOk ∧ ins = rngBlocks x.rgReads ∧ outs = x.rgWrites.flatten ∨ c = Instr.finiteCheck tid vxe ∧ x.isKind 2 2 = true ∧ ok
      = x.fcOk ∧ ins = rngBlocks x.fcReads ∧ outs = x.fcWrites.flatten) ∧ (ok = false)) ∧
    (∃ (s : State) (tid vxe : Nat) (x : TaskRec) (c : Instr) (ok : Bool) (ins : List Nat) (outs : List Rng), (s.maps.wf = true) ∧ (vxe <
      16) ∧ (s.task tid = some x) ∧ (s.mayRun x = true) ∧ (∀ (d : Nat), d ∈ s.taskDies x → vxe ∈ s.activeVxes d) ∧ (s.taskDies x ≠ []) ∧ (c
      = Instr.convert tid ∧ x.isKind 3 0 = true ∧ ok = x.cvOk ∧ ins = rngBlocks x.cvReads ∧ outs = x.cvWrites ∨ c = Instr.codebookLoad tid ∧
      x.isKind 3 2 = true ∧ ok = (x.loadDescOk false true && decide (18 ≤ x.f 44 4) && decide (x.f 44 4 ≤ 31)) ∧ ins = rngBlocks x.cbReads ∧
      outs = [] ∨ c = Instr.seedLoad tid ∧ x.isKind 3 4 = true ∧ ok = x.loadDescOk false false ∧ ins = rngBlocks x.seedReads ∧ outs = [] ∨ c
      = Instr.rngFill tid ∧ x.isKind 3 5 = true ∧ ok = x.rfOk ∧ ins = [] ∧ outs = x.rfWrites ∨ c = Instr.reuseGate tid vxe ∧ x.isKind 2 1 =
      true ∧ ok = x.rgOk ∧ ins = rngBlocks x.rgReads ∧ outs = x.rgWrites.flatten ∨ c = Instr.finiteCheck tid vxe ∧ x.isKind 2 2 = true ∧ ok
      = x.fcOk ∧ ins = rngBlocks x.fcReads ∧ outs = x.fcWrites.flatten) ∧ (ok = false)) ∧
    (∃ (s : State) (tid vxe : Nat) (x : TaskRec) (c : Instr) (ok : Bool) (ins : List Nat) (outs : List Rng), (s.maps.wf = true) ∧ (vxe <
      16) ∧ (s.task tid = some x) ∧ (s.mayRun x = true) ∧ (∀ (d : Nat), d ∈ s.taskDies x → vxe ∈ s.activeVxes d) ∧ (s.taskDies x ≠ []) ∧ (c
      = Instr.convert tid ∧ x.isKind 3 0 = true ∧ ok = x.cvOk ∧ ins = rngBlocks x.cvReads ∧ outs = x.cvWrites ∨ c = Instr.codebookLoad tid ∧
      x.isKind 3 2 = true ∧ ok = (x.loadDescOk false true && decide (18 ≤ x.f 44 4) && decide (x.f 44 4 ≤ 31)) ∧ ins = rngBlocks x.cbReads ∧
      outs = [] ∨ c = Instr.seedLoad tid ∧ x.isKind 3 4 = true ∧ ok = x.loadDescOk false false ∧ ins = rngBlocks x.seedReads ∧ outs = [] ∨ c
      = Instr.rngFill tid ∧ x.isKind 3 5 = true ∧ ok = x.rfOk ∧ ins = [] ∧ outs = x.rfWrites ∨ c = Instr.reuseGate tid vxe ∧ x.isKind 2 1 =
      true ∧ ok = x.rgOk ∧ ins = rngBlocks x.rgReads ∧ outs = x.rgWrites.flatten ∨ c = Instr.finiteCheck tid vxe ∧ x.isKind 2 2 = true ∧ ok
      = x.fcOk ∧ ins = rngBlocks x.fcReads ∧ outs = x.fcWrites.flatten) ∧ (ok = false)) ∧
    (∃ (s : State) (tid vxe : Nat) (x : TaskRec) (c : Instr) (ok : Bool) (ins : List Nat) (outs : List Rng), (s.maps.wf = true) ∧ (vxe <
      16) ∧ (s.task tid = some x) ∧ (s.mayRun x = true) ∧ (∀ (d : Nat), d ∈ s.taskDies x → vxe ∈ s.activeVxes d) ∧ (s.taskDies x ≠ []) ∧ (c
      = Instr.convert tid ∧ x.isKind 3 0 = true ∧ ok = x.cvOk ∧ ins = rngBlocks x.cvReads ∧ outs = x.cvWrites ∨ c = Instr.codebookLoad tid ∧
      x.isKind 3 2 = true ∧ ok = (x.loadDescOk false true && decide (18 ≤ x.f 44 4) && decide (x.f 44 4 ≤ 31)) ∧ ins = rngBlocks x.cbReads ∧
      outs = [] ∨ c = Instr.seedLoad tid ∧ x.isKind 3 4 = true ∧ ok = x.loadDescOk false false ∧ ins = rngBlocks x.seedReads ∧ outs = [] ∨ c
      = Instr.rngFill tid ∧ x.isKind 3 5 = true ∧ ok = x.rfOk ∧ ins = [] ∧ outs = x.rfWrites ∨ c = Instr.reuseGate tid vxe ∧ x.isKind 2 1 =
      true ∧ ok = x.rgOk ∧ ins = rngBlocks x.rgReads ∧ outs = x.rgWrites.flatten ∨ c = Instr.finiteCheck tid vxe ∧ x.isKind 2 2 = true ∧ ok
      = x.fcOk ∧ ins = rngBlocks x.fcReads ∧ outs = x.fcWrites.flatten) ∧ (ok = false)) ∧
    (∃ (s : State) (tid vxe : Nat) (x : TaskRec) (c : Instr) (ok : Bool) (ins : List Nat) (outs : List Rng), (s.maps.wf = true) ∧ (vxe <
      16) ∧ (s.task tid = some x) ∧ (s.mayRun x = true) ∧ (∀ (d : Nat), d ∈ s.taskDies x → vxe ∈ s.activeVxes d) ∧ (s.taskDies x ≠ []) ∧ (c
      = Instr.convert tid ∧ x.isKind 3 0 = true ∧ ok = x.cvOk ∧ ins = rngBlocks x.cvReads ∧ outs = x.cvWrites ∨ c = Instr.codebookLoad tid ∧
      x.isKind 3 2 = true ∧ ok = (x.loadDescOk false true && decide (18 ≤ x.f 44 4) && decide (x.f 44 4 ≤ 31)) ∧ ins = rngBlocks x.cbReads ∧
      outs = [] ∨ c = Instr.seedLoad tid ∧ x.isKind 3 4 = true ∧ ok = x.loadDescOk false false ∧ ins = rngBlocks x.seedReads ∧ outs = [] ∨ c
      = Instr.rngFill tid ∧ x.isKind 3 5 = true ∧ ok = x.rfOk ∧ ins = [] ∧ outs = x.rfWrites ∨ c = Instr.reuseGate tid vxe ∧ x.isKind 2 1 =
      true ∧ ok = x.rgOk ∧ ins = rngBlocks x.rgReads ∧ outs = x.rgWrites.flatten ∨ c = Instr.finiteCheck tid vxe ∧ x.isKind 2 2 = true ∧ ok
      = x.fcOk ∧ ins = rngBlocks x.fcReads ∧ outs = x.fcWrites.flatten) ∧ (ok = false)) ∧
    (∃ (s : State) (tid vxe : Nat) (x : TaskRec) (c : Instr) (ok : Bool) (ins : List Nat) (outs : List Rng) (b : Nat), (s.maps.wf = true)
      ∧ (vxe < 16) ∧ (s.task tid = some x) ∧ (s.mayRun x = true) ∧ (∀ (d : Nat), d ∈ s.taskDies x → vxe ∈ s.activeVxes d) ∧ (s.taskDies x ≠
      []) ∧ (c = Instr.convert tid ∧ x.isKind 3 0 = true ∧ ok = x.cvOk ∧ ins = rngBlocks x.cvReads ∧ outs = x.cvWrites ∨ c =
      Instr.codebookLoad tid ∧ x.isKind 3 2 = true ∧ ok = (x.loadDescOk false true && decide (18 ≤ x.f 44 4) && decide (x.f 44 4 ≤ 31)) ∧
      ins = rngBlocks x.cbReads ∧ outs = [] ∨ c = Instr.seedLoad tid ∧ x.isKind 3 4 = true ∧ ok = x.loadDescOk false false ∧ ins = rngBlocks
      x.seedReads ∧ outs = [] ∨ c = Instr.rngFill tid ∧ x.isKind 3 5 = true ∧ ok = x.rfOk ∧ ins = [] ∧ outs = x.rfWrites ∨ c =
      Instr.reuseGate tid vxe ∧ x.isKind 2 1 = true ∧ ok = x.rgOk ∧ ins = rngBlocks x.rgReads ∧ outs = x.rgWrites.flatten ∨ c =
      Instr.finiteCheck tid vxe ∧ x.isKind 2 2 = true ∧ ok = x.fcOk ∧ ins = rngBlocks x.fcReads ∧ outs = x.fcWrites.flatten) ∧ (ok = true) ∧
      (s.canWriteAll ((s.taskDies x).headD 0) (rngPages outs) = true) ∧ (List.find? (fun k => s.lost k) ins = some b) ∧ (s.recoverable b =
      none) ∧ (s.blockQuiesced b = false)) ∧
    (∃ (s : State) (tid vxe : Nat) (x : TaskRec) (c : Instr) (ok : Bool) (ins : List Nat) (outs : List Rng) (b : Nat), (s.maps.wf = true)
      ∧ (vxe < 16) ∧ (s.task tid = some x) ∧ (s.mayRun x = true) ∧ (∀ (d : Nat), d ∈ s.taskDies x → vxe ∈ s.activeVxes d) ∧ (s.taskDies x ≠
      []) ∧ (c = Instr.convert tid ∧ x.isKind 3 0 = true ∧ ok = x.cvOk ∧ ins = rngBlocks x.cvReads ∧ outs = x.cvWrites ∨ c =
      Instr.codebookLoad tid ∧ x.isKind 3 2 = true ∧ ok = (x.loadDescOk false true && decide (18 ≤ x.f 44 4) && decide (x.f 44 4 ≤ 31)) ∧
      ins = rngBlocks x.cbReads ∧ outs = [] ∨ c = Instr.seedLoad tid ∧ x.isKind 3 4 = true ∧ ok = x.loadDescOk false false ∧ ins = rngBlocks
      x.seedReads ∧ outs = [] ∨ c = Instr.rngFill tid ∧ x.isKind 3 5 = true ∧ ok = x.rfOk ∧ ins = [] ∧ outs = x.rfWrites ∨ c =
      Instr.reuseGate tid vxe ∧ x.isKind 2 1 = true ∧ ok = x.rgOk ∧ ins = rngBlocks x.rgReads ∧ outs = x.rgWrites.flatten ∨ c =
      Instr.finiteCheck tid vxe ∧ x.isKind 2 2 = true ∧ ok = x.fcOk ∧ ins = rngBlocks x.fcReads ∧ outs = x.fcWrites.flatten) ∧ (ok = true) ∧
      (s.canWriteAll ((s.taskDies x).headD 0) (rngPages outs) = true) ∧ (List.find? (fun k => s.lost k) ins = some b) ∧ (s.recoverable b =
      none) ∧ (s.blockQuiesced b = false)) ∧
    (∃ (s : State) (tid vxe : Nat) (x : TaskRec) (c : Instr) (ok : Bool) (ins : List Nat) (outs : List Rng), (s.maps.wf = true) ∧ (vxe <
      16) ∧ (s.task tid = some x) ∧ (s.mayRun x = true) ∧ (∀ (d : Nat), d ∈ s.taskDies x → vxe ∈ s.activeVxes d) ∧ (s.taskDies x ≠ []) ∧ (c
      = Instr.convert tid ∧ x.isKind 3 0 = true ∧ ok = x.cvOk ∧ ins = rngBlocks x.cvReads ∧ outs = x.cvWrites ∨ c = Instr.codebookLoad tid ∧
      x.isKind 3 2 = true ∧ ok = (x.loadDescOk false true && decide (18 ≤ x.f 44 4) && decide (x.f 44 4 ≤ 31)) ∧ ins = rngBlocks x.cbReads ∧
      outs = [] ∨ c = Instr.seedLoad tid ∧ x.isKind 3 4 = true ∧ ok = x.loadDescOk false false ∧ ins = rngBlocks x.seedReads ∧ outs = [] ∨ c
      = Instr.rngFill tid ∧ x.isKind 3 5 = true ∧ ok = x.rfOk ∧ ins = [] ∧ outs = x.rfWrites ∨ c = Instr.reuseGate tid vxe ∧ x.isKind 2 1 =
      true ∧ ok = x.rgOk ∧ ins = rngBlocks x.rgReads ∧ outs = x.rgWrites.flatten ∨ c = Instr.finiteCheck tid vxe ∧ x.isKind 2 2 = true ∧ ok
      = x.fcOk ∧ ins = rngBlocks x.fcReads ∧ outs = x.fcWrites.flatten) ∧ (ok = true) ∧ (s.canWriteAll ((s.taskDies x).headD 0) (rngPages
      outs) = false)) ∧
    (∃ (s : State) (tid vxe : Nat) (x : TaskRec) (c : Instr) (ok : Bool) (ins : List Nat) (outs : List Rng), (s.maps.wf = true) ∧ (vxe <
      16) ∧ (s.task tid = some x) ∧ (s.mayRun x = true) ∧ (∀ (d : Nat), d ∈ s.taskDies x → vxe ∈ s.activeVxes d) ∧ (s.taskDies x ≠ []) ∧ (c
      = Instr.convert tid ∧ x.isKind 3 0 = true ∧ ok = x.cvOk ∧ ins = rngBlocks x.cvReads ∧ outs = x.cvWrites ∨ c = Instr.codebookLoad tid ∧
      x.isKind 3 2 = true ∧ ok = (x.loadDescOk false true && decide (18 ≤ x.f 44 4) && decide (x.f 44 4 ≤ 31)) ∧ ins = rngBlocks x.cbReads ∧
      outs = [] ∨ c = Instr.seedLoad tid ∧ x.isKind 3 4 = true ∧ ok = x.loadDescOk false false ∧ ins = rngBlocks x.seedReads ∧ outs = [] ∨ c
      = Instr.rngFill tid ∧ x.isKind 3 5 = true ∧ ok = x.rfOk ∧ ins = [] ∧ outs = x.rfWrites ∨ c = Instr.reuseGate tid vxe ∧ x.isKind 2 1 =
      true ∧ ok = x.rgOk ∧ ins = rngBlocks x.rgReads ∧ outs = x.rgWrites.flatten ∨ c = Instr.finiteCheck tid vxe ∧ x.isKind 2 2 = true ∧ ok
      = x.fcOk ∧ ins = rngBlocks x.fcReads ∧ outs = x.fcWrites.flatten) ∧ (ok = true) ∧ (s.canWriteAll ((s.taskDies x).headD 0) (rngPages
      outs) = true) ∧ (∀ (b : Nat), b ∈ ins → s.lost b = false) ∧ (∃ b, b ∈ ins ∧ s.readable (b / 64) = false)) ∧
    (∃ (s : State) (tid vxe : Nat) (x : TaskRec) (c : Instr) (ok : Bool) (ins : List Nat) (outs : List Rng), (s.maps.wf = true) ∧ (vxe <
      16) ∧ (s.task tid = some x) ∧ (s.mayRun x = true) ∧ (∀ (d : Nat), d ∈ s.taskDies x → vxe ∈ s.activeVxes d) ∧ (s.taskDies x ≠ []) ∧ (c
      = Instr.convert tid ∧ x.isKind 3 0 = true ∧ ok = x.cvOk ∧ ins = rngBlocks x.cvReads ∧ outs = x.cvWrites ∨ c = Instr.codebookLoad tid ∧
      x.isKind 3 2 = true ∧ ok = (x.loadDescOk false true && decide (18 ≤ x.f 44 4) && decide (x.f 44 4 ≤ 31)) ∧ ins = rngBlocks x.cbReads ∧
      outs = [] ∨ c = Instr.seedLoad tid ∧ x.isKind 3 4 = true ∧ ok = x.loadDescOk false false ∧ ins = rngBlocks x.seedReads ∧ outs = [] ∨ c
      = Instr.rngFill tid ∧ x.isKind 3 5 = true ∧ ok = x.rfOk ∧ ins = [] ∧ outs = x.rfWrites ∨ c = Instr.reuseGate tid vxe ∧ x.isKind 2 1 =
      true ∧ ok = x.rgOk ∧ ins = rngBlocks x.rgReads ∧ outs = x.rgWrites.flatten ∨ c = Instr.finiteCheck tid vxe ∧ x.isKind 2 2 = true ∧ ok
      = x.fcOk ∧ ins = rngBlocks x.fcReads ∧ outs = x.fcWrites.flatten) ∧ (ok = true) ∧ (s.canWriteAll ((s.taskDies x).headD 0) (rngPages
      outs) = true) ∧ (∀ (b : Nat), b ∈ ins → s.lost b = false ∧ s.readable (b / 64) = true) ∧ (∃ b, b ∈ ins ∧ s.crcBad b = true) ∧
      (s.foulRetries ≠ 0)) :=
  ⟨⟨(jobRun (cvJob [(0x20, 4, 0)])), 0, 15, (cvJob [(0x20, 4, 0)]), (.convert 0), false, (rngBlocks (cvJob [(0x20, 4, 0)]).cvReads),
     (cvJob [(0x20, 4, 0)]).cvWrites, by decide +kernel⟩,
   ⟨(jobRun (cbJob 0x11)), 0, 15, (cbJob 0x11), (.codebookLoad 0), false, (rngBlocks (cbJob 0x11).cbReads), [], by decide +kernel⟩,
   ⟨(jobRun (seedJob [(0x28, 4, 1)])), 0, 0, (seedJob [(0x28, 4, 1)]), (.seedLoad 0), false, (rngBlocks (seedJob [(0x28, 4,
     1)]).seedReads), [], by decide +kernel⟩,
   ⟨(jobRun (fillJob [(0x20, 8, 0)])), 0, 0, (fillJob [(0x20, 8, 0)]), (.rngFill 0), false, [], (fillJob [(0x20, 8, 0)]).rfWrites,
     by decide +kernel⟩,
   ⟨(jobRun (gateJob [(0x20, 4, 65537)])), 0, 15, (gateJob [(0x20, 4, 65537)]), (.reuseGate 0 15), false, (rngBlocks (gateJob [(0x20, 4,
     65537)]).rgReads), (gateJob [(0x20, 4, 65537)]).rgWrites.flatten, by decide +kernel⟩,
   ⟨(jobRun (checkJob [(0x20, 4, 9)])), 0, 15, (checkJob [(0x20, 4, 9)]), (.finiteCheck 0 15), false, (rngBlocks (checkJob [(0x20, 4,
     9)]).fcReads), (checkJob [(0x20, 4, 9)]).fcWrites.flatten, by decide +kernel⟩,
   ⟨(lost2 (jobRun (cvJob []))), 0, 0, (cvJob []), (.convert 0), true, (rngBlocks (cvJob []).cvReads), (cvJob []).cvWrites, 2,
     by decide +kernel⟩,
   ⟨(lost2 (jobRun (checkJob []))), 0, 0, (checkJob []), (.finiteCheck 0 0), true, (rngBlocks (checkJob []).fcReads), (checkJob
     []).fcWrites.flatten, 2, by decide +kernel⟩,
   ⟨(heldPage (jobRun (cvJob []))), 0, 0, (cvJob []), (.convert 0), true, (rngBlocks (cvJob []).cvReads), (cvJob []).cvWrites,
     by decide +kernel⟩,
   ⟨(inHost (jobRun (cvJob [(0x48, 8, 0x44000)]))), 0, 0, (cvJob [(0x48, 8, 0x44000)]), (.convert 0), true, (rngBlocks (cvJob [(0x48, 8,
     0x44000)]).cvReads), (cvJob [(0x48, 8, 0x44000)]).cvWrites, by decide +kernel⟩,
   ⟨(foul2 (jobRun (cvJob []))), 0, 0, (cvJob []), (.convert 0), true, (rngBlocks (cvJob []).cvReads), (cvJob []).cvWrites,
     by decide +kernel⟩⟩

theorem test_witness_VectorProgramsRunTheirTiles :
    (∃ (s : State) (tid : Nat) (env : DrainEnv) (x : TaskRec), (s.maps.wf = true) ∧ (env.vxe < 16) ∧ (s.task tid = some x) ∧ (x.isKind 2 0
      = true) ∧ (x.phase = TPhase.ready) ∧ (s.serving x.p = true) ∧ (s.vecOk x = false)) ∧
    (∃ (s : State) (tid : Nat) (env : DrainEnv) (x : TaskRec), (s.maps.wf = true) ∧ (env.vxe < 16) ∧ (s.task tid = some x) ∧ (x.isKind 2 0
      = true) ∧ (x.phase = TPhase.ready) ∧ (s.serving x.p = true) ∧ (s.vecOk x = true) ∧ (∃ d, d ∈ s.taskDies x ∧ s.epochAhead x d = true) ∧
      (x.mark = 0)) ∧
    (∃ (s : State) (tid : Nat) (env : DrainEnv) (x : TaskRec), (s.memGood) ∧ (s.CanStep x (s.vecNeeds x) (s.vecWrites x)) ∧ (s.maps.wf =
      true) ∧ (env.vxe < 16) ∧ (s.task tid = some x) ∧ (x.isKind 2 0 = true) ∧ (x.phase = TPhase.ready) ∧ (s.serving x.p = true) ∧ (s.vecOk
      x = true) ∧ (s.mayRun x = true) ∧ (∀ (d : Nat), d ∈ s.taskDies x → env.vxe ∈ s.activeVxes d) ∧ (s.vecErr x env = none)) ∧
    (∃ (s : State) (tid : Nat) (env : DrainEnv) (x : TaskRec) (tile : VecTile) (row v : Nat), (s.maps.wf = true) ∧ (env.vxe < 16) ∧
      (s.task tid = some x) ∧ (x.isKind 2 0 = true) ∧ (x.phase = TPhase.ready) ∧ (s.serving x.p = true) ∧ (s.vecOk x = true) ∧ (s.mayRun x =
      true) ∧ (∀ (d : Nat), d ∈ s.taskDies x → env.vxe ∈ s.activeVxes d) ∧ (s.vecErr x env = some (tile, row)) ∧ (v = s.rowVxe tile.die
      env.vxe row) ∧ (x.units = []) ∧ (∀ (f : VecFail), f ∈ x.vfails → f.tile ≠ tile.n)) ∧
    (∃ (s : State) (tid : Nat) (env : DrainEnv) (x : TaskRec) (tile : VecTile) (row v : Nat), (s.maps.wf = true) ∧ (env.vxe < 16) ∧
      (s.task tid = some x) ∧ (x.isKind 2 0 = true) ∧ (x.phase = TPhase.ready) ∧ (s.serving x.p = true) ∧ (s.vecOk x = true) ∧ (s.mayRun x =
      true) ∧ (∀ (d : Nat), d ∈ s.taskDies x → env.vxe ∈ s.activeVxes d) ∧ (s.vecErr x env = some (tile, row)) ∧ (v = s.rowVxe tile.die
      env.vxe row) ∧ (x.units = []) ∧ (∃ f, f ∈ x.vfails ∧ f.tile = tile.n) ∧ (x.retries < s.taskRetries)) ∧
    (∃ (s : State) (tid : Nat) (env : DrainEnv) (x : TaskRec) (tile : VecTile) (row v : Nat), (s.maps.wf = true) ∧ (env.vxe < 16) ∧
      (s.task tid = some x) ∧ (x.isKind 2 0 = true) ∧ (x.phase = TPhase.ready) ∧ (s.serving x.p = true) ∧ (s.vecOk x = true) ∧ (s.mayRun x =
      true) ∧ (∀ (d : Nat), d ∈ s.taskDies x → env.vxe ∈ s.activeVxes d) ∧ (s.vecErr x env = some (tile, row)) ∧ (v = s.rowVxe tile.die
      env.vxe row) ∧ (x.units = []) ∧ (∃ f, f ∈ x.vfails ∧ f.tile = tile.n) ∧ (s.taskRetries ≤ x.retries)) :=
  ⟨⟨(jobRun (vecJob [(0x2C, 4, 2)])), 0, drainEnv, (vecJob [(0x2C, 4, 2)]), by decide +kernel⟩,
   ⟨(jobRun (vecJob [(8, 4, 1)])), 0, drainEnv, (vecJob [(8, 4, 1)]), by decide +kernel⟩,
   ⟨(infAt (jobRun (vecJob []))), 0, drainEnv, (vecJob []), memGood_of_side rfl, canStep_of (by decide +kernel), by decide +kernel⟩,
   ⟨(jobRun (vecJob [])), 0, { drainEnv with parity := some 0 }, (vecJob []), ⟨0, 0, 0, 0, 0⟩, 0, 15, by decide +kernel⟩,
   ⟨(jobRun (vecAgain 0)), 0, { drainEnv with parity := some 0 }, (vecAgain 0), ⟨0, 0, 0, 0, 0⟩, 0, 15, by decide +kernel⟩,
   ⟨(jobRun (vecAgain 2)), 0, { drainEnv with parity := some 0 }, (vecAgain 2), ⟨0, 0, 0, 0, 0⟩, 0, 15, by decide +kernel⟩⟩

theorem test_witness_ConversionsWriteTheirOutput :
    (∃ (s : State) (tid : Nat) (x : TaskRec), (s.memGood) ∧ (s.CanStep x (rngBlocks x.cvReads) x.cvWrites) ∧ (s.maps.wf = true) ∧ (s.task
      tid = some x) ∧ (x.isKind 3 0 = true) ∧ (s.mayRun x = true) ∧ (x.cvOk = true)) ∧
    (∃ (s : State) (tid : Nat) (x : TaskRec), (s.memGood) ∧ (s.CanStep x (rngBlocks x.cvReads) x.cvWrites) ∧ (s.maps.wf = true) ∧ (s.task
      tid = some x) ∧ (x.isKind 3 0 = true) ∧ (s.mayRun x = true) ∧ (x.cvOk = true)) :=
  ⟨⟨(infAt (jobRun (cvJob []))), 0, (cvJob []), memGood_of_side rfl, canStep_of (by decide +kernel), by decide +kernel⟩,
   ⟨(infAt (jobRun (cvJob [(0x34, 4, 8)]))), 0, (cvJob [(0x34, 4, 8)]), memGood_of_side rfl, canStep_of (by decide +kernel),
     by decide +kernel⟩⟩

theorem test_witness_LoadsAndGenerationOfRandomness :
    (∃ (s : State) (tid k : Nat) (x : TaskRec) (tab : List W32), (s.memGood) ∧ (s.CanStep x (rngBlocks x.cbReads) []) ∧ (s.maps.wf = true)
      ∧ (s.task tid = some x) ∧ (x.isKind 3 2 = true) ∧ (s.mayRun x = true) ∧ (x.loadDescOk false true = true) ∧ (k < 14) ∧ (x.f 44 4 = 18 +
      k) ∧ (tab = s.memWords (x.f 32 8) 16) ∧ (codebookOk tab = true)) ∧
    (∃ (s : State) (tid k : Nat) (x : TaskRec) (tab : List W32), (s.memGood) ∧ (s.CanStep x (rngBlocks x.cbReads) []) ∧ (s.maps.wf = true)
      ∧ (s.task tid = some x) ∧ (x.isKind 3 2 = true) ∧ (s.mayRun x = true) ∧ (x.loadDescOk false true = true) ∧ (k < 14) ∧ (x.f 44 4 = 18 +
      k) ∧ (tab = s.memWords (x.f 32 8) 16) ∧ (codebookOk tab = false)) ∧
    (∃ (s : State) (tid : Nat) (x : TaskRec), (s.memGood) ∧ (s.CanStep x (rngBlocks x.seedReads) []) ∧ (s.maps.wf = true) ∧ (s.task tid =
      some x) ∧ (x.isKind 3 4 = true) ∧ (s.mayRun x = true) ∧ (x.loadDescOk false false = true) ∧ (s.devNat (x.f 32 8 + 2) 6 = 0)) ∧
    (∃ (s : State) (tid : Nat) (x : TaskRec), (s.CanStep x [] x.rfWrites) ∧ (s.maps.wf = true) ∧ (s.task tid = some x) ∧ (x.isKind 3 5 =
      true) ∧ (s.mayRun x = true) ∧ (x.rfOk = true)) :=
  ⟨⟨(poke 0x2004 4 0x7800 (jobRun (cbJob 0x1F))), 0, 13, (cbJob 0x1F), [0, 0x7800, 0, 0, 0, 0, 0, 0, 0, 0, 0, 0, 0, 0, 0, 0],
     memGood_of_side rfl, canStep_of (by decide +kernel), by decide +kernel⟩,
   ⟨(badBook (jobRun (cbJob 0x12))), 0, 0, (cbJob 0x12), [0x7F800000, 0, 0, 0, 0, 0, 0, 0, 0, 0, 0, 0, 0, 0, 0, 0], memGood_of_side rfl,
     canStep_of (by decide +kernel), by decide +kernel⟩,
   ⟨(seedMem (jobRun (seedJob []))), 0, (seedJob []), memGood_of_side rfl, canStep_of (by decide +kernel), by decide +kernel⟩,
   ⟨(jobRun (fillJob [])), 0, (fillJob []), canStep_of (by decide +kernel), by decide +kernel⟩⟩

theorem test_witness_FunctionTablesLoadInThreeSteps :
    (∃ (s : State) (tid : Nat) (x : TaskRec), (s.memGood) ∧ (s.CanStep x (rngBlocks x.ftReads) []) ∧ (s.maps.wf = true) ∧ (s.task tid =
      some x) ∧ (x.isKind 3 3 = true) ∧ (s.mayRun x = true) ∧ (s.ftBusy x.p = false) ∧ (x.loadDescOk true false = true) ∧ (s.ftImageOk x =
      true)) ∧
    (∃ (s : State) (tid : Nat) (x : TaskRec), (s.memGood) ∧ (s.CanStep x (rngBlocks x.ftReads) []) ∧ (s.maps.wf = true) ∧ (s.task tid =
      some x) ∧ (x.isKind 3 3 = true) ∧ (s.mayRun x = true) ∧ (s.ftBusy x.p = false) ∧ (x.loadDescOk true false = true) ∧ (s.ftImageOk x =
      false)) ∧
    (∃ (s : State) (tid : Nat) (x : TaskRec) (m : FtImage), (s.maps.wf = true) ∧ (s.task tid = some x) ∧ (x.isKind 3 3 = true) ∧ (x.phase
      = TPhase.running) ∧ (x.mark = 1) ∧ (s.inactiveBound x.p = false) ∧ (m = s.ftImage (x.f 32 8)) ∧ (m.first + m.count ≤ 16384)) ∧
    (∃ (s : State) (tid : Nat) (x : TaskRec), (s.maps.wf = true) ∧ (s.task tid = some x) ∧ (x.isKind 3 3 = true) ∧ (x.phase =
      TPhase.running) ∧ (x.mark = 2) ∧ ((s.dies x.p).Nodup) ∧ (∀ (d : Nat), d ∈ s.dies x.p → d < 8)) :=
  ⟨⟨(noTables (jobRun (ftJob .ready 0))), 0, (ftJob .ready 0), memGood_of_side rfl, canStep_of (by decide +kernel), by decide +kernel⟩,
   ⟨(poke 0x2000 8 1 (jobRun (ftJob .ready 0))), 0, (ftJob .ready 0), memGood_of_side rfl, canStep_of (by decide +kernel),
     by decide +kernel⟩,
   ⟨(jobRun (ftJob .running 1)), 0, (ftJob .running 1), ⟨0, 0, 0, [], 8256⟩, by decide +kernel⟩,
   ⟨(jobRun (ftJob .running 2)), 0, (ftJob .running 2), by decide +kernel⟩⟩

theorem test_witness_ReuseGatesAndFiniteChecks :
    (∃ (s : State) (tid vxe : Nat) (x : TaskRec), (s.memGood) ∧ (s.CanStep x (rngBlocks x.rgReads) x.rgWrites.flatten) ∧ (s.maps.wf =
      true) ∧ (vxe < 16) ∧ (s.task tid = some x) ∧ (x.isKind 2 1 = true) ∧ (s.mayRun x = true) ∧ (∀ (d : Nat), d ∈ s.taskDies x → vxe ∈
      s.activeVxes d) ∧ (x.rgOk = true)) ∧
    (∃ (s : State) (tid vxe n nf prev : Nat) (x : TaskRec), (s.memGood) ∧ (s.CanStep x (rngBlocks x.fcReads) x.fcWrites.flatten) ∧
      (s.maps.wf = true) ∧ (vxe < 16) ∧ (s.task tid = some x) ∧ (x.isKind 2 2 = true) ∧ (s.mayRun x = true) ∧ (vxe ∈ s.activeVxes
      ((s.taskDies x).headD 0)) ∧ (x.fcOk = true) ∧ (n = List.foldl (fun x1 x2 => x1 + x2) 0 (List.map (fun y => y.snd.fst) x.fcTensors)) ∧
      (nf = List.foldl (fun x1 x2 => x1 + x2) 0 (List.map s.nonFinite x.fcTensors)) ∧ (prev = if bit (x.f 36 4) 0 = true then x.f 40 4 else
      s.devNat (x.f 48 8) 4)) ∧
    (∃ (s : State) (tid vxe n nf prev : Nat) (x : TaskRec), (s.memGood) ∧ (s.CanStep x (rngBlocks x.fcReads) x.fcWrites.flatten) ∧
      (s.maps.wf = true) ∧ (vxe < 16) ∧ (s.task tid = some x) ∧ (x.isKind 2 2 = true) ∧ (s.mayRun x = true) ∧ (vxe ∈ s.activeVxes
      ((s.taskDies x).headD 0)) ∧ (x.fcOk = true) ∧ (n = List.foldl (fun x1 x2 => x1 + x2) 0 (List.map (fun y => y.snd.fst) x.fcTensors)) ∧
      (nf = List.foldl (fun x1 x2 => x1 + x2) 0 (List.map s.nonFinite x.fcTensors)) ∧ (prev = if bit (x.f 36 4) 0 = true then x.f 40 4 else
      s.devNat (x.f 48 8) 4)) :=
  ⟨⟨(infAt (jobRun (gateJob []))), 0, 15, (gateJob []), memGood_of_side rfl, canStep_of (by decide +kernel), by decide +kernel⟩,
   ⟨(infAt (jobRun (checkJob []))), 0, 15, 32, 1, 7, (checkJob []), memGood_of_side rfl, canStep_of (by decide +kernel),
     by decide +kernel⟩,
   ⟨(jobRun (checkJob [])), 0, 15, 32, 0, 7, (checkJob []), memGood_of_side rfl, canStep_of (by decide +kernel), by decide +kernel⟩⟩

theorem test_witness_AttentionTasksFormUnits :
    (∃ (s : State) (tid : Nat) (x : TaskRec), (s.maps.wf = true) ∧ (s.task tid = some x) ∧ (x.f 0 1 = 1) ∧ (x.phase = TPhase.ready) ∧
      (x.mark = 0) ∧ (x.aOp = 0) ∧ (s.atOk x = false)) ∧
    (∃ (s : State) (tid : Nat) (x : TaskRec), (s.maps.wf = true) ∧ (s.task tid = some x) ∧ (x.f 0 1 = 1) ∧ (x.phase = TPhase.ready) ∧
      (x.mark = 0) ∧ (x.aOp = 0) ∧ (s.atOk x = true) ∧ (∀ (d : Nat), d ∈ s.taskDies x → s.diePipes d = false)) ∧
    (∃ (s : State) (tid : Nat) (x : TaskRec), (s.maps.wf = true) ∧ (s.task tid = some x) ∧ (x.f 0 1 = 1) ∧ (x.phase = TPhase.ready) ∧
      (x.mark = 0) ∧ (x.aOp = 0) ∧ (s.atOk x = true) ∧ (∃ d, d ∈ s.taskDies x ∧ s.diePipes d = true)) ∧
    (∃ (s : State) (tid : Nat) (x : TaskRec), (s.maps.wf = true) ∧ (s.task tid = some x) ∧ (x.f 0 1 = 1) ∧ (x.phase = TPhase.ready) ∧
      (x.mark = 0) ∧ (x.aOp = 1) ∧ (s.atOk x = false ∨ ∃ b, b < x.aBatch ∧ s.recLen (x.recAt b) < x.aM)) ∧
    (∃ (s : State) (tid : Nat) (x : TaskRec), (s.maps.wf = true) ∧ (s.task tid = some x) ∧ (x.f 0 1 = 1) ∧ (x.phase = TPhase.ready) ∧
      (x.mark = 0) ∧ (x.aOp = 1) ∧ (s.atOk x = true) ∧ (∀ (b : Nat), b < x.aBatch → x.aM ≤ s.recLen (x.recAt b)) ∧ (∀ (d : Nat), d ∈
      s.taskDies x → s.diePipes d = false)) ∧
    (∃ (s : State) (tid : Nat) (x : TaskRec), (s.maps.wf = true) ∧ (s.task tid = some x) ∧ (x.f 0 1 = 1) ∧ (x.phase = TPhase.ready) ∧
      (x.mark = 0) ∧ (x.aOp = 1) ∧ (s.atOk x = true) ∧ (∀ (b : Nat), b < x.aBatch → x.aM ≤ s.recLen (x.recAt b)) ∧ (∃ d, d ∈ s.taskDies x ∧
      s.diePipes d = true)) ∧
    (∃ (s : State) (tid : Nat) (x : TaskRec), (s.maps.wf = true) ∧ (s.task tid = some x) ∧ (x.f 0 1 = 1) ∧ (x.phase = TPhase.ready) ∧
      (x.mark = 0) ∧ (x.aOp = 2) ∧ (s.atOk x = false)) ∧
    (∃ (s : State) (tid : Nat) (x : TaskRec), (s.maps.wf = true) ∧ (s.task tid = some x) ∧ (x.f 0 1 = 1) ∧ (x.phase = TPhase.ready) ∧
      (x.mark = 0) ∧ (x.aOp = 2) ∧ (s.atOk x = true) ∧ (∃ b, b < x.aBatch ∧ 1048576 < s.recLen (x.recAt b) + x.aNew)) ∧
    (∃ (s : State) (tid : Nat) (x : TaskRec), (s.maps.wf = true) ∧ (s.task tid = some x) ∧ (x.f 0 1 = 1) ∧ (x.phase = TPhase.ready) ∧
      (x.mark = 0) ∧ (x.aOp = 2) ∧ (s.atOk x = true) ∧ (∀ (b : Nat), b < x.aBatch → s.recLen (x.recAt b) + x.aNew ≤ 1048576) ∧
      (s.canWriteAll noDie (s.kvBooks x) = false)) ∧
    (∃ (s : State) (tid : Nat) (x : TaskRec) (q : State × Bool) (w : State), (q = s.secureAll x.p (s.kvPool x) (s.appendEntries x)) ∧ (w =
      q.fst.kvServed x TPhase.ready) ∧ (w.memGood) ∧ (w.CanStep x (rngBlocks ((w.newTensor x false).rngs ++ (w.newTensor x true).rngs)) [])
      ∧ (s.maps.wf = true) ∧ (s.task tid = some x) ∧ (x.f 0 1 = 1) ∧ (x.phase = TPhase.ready) ∧ (x.mark = 0) ∧ (x.aOp = 2) ∧ (s.atOk x =
      true) ∧ (∀ (b : Nat), b < x.aBatch → s.recLen (x.recAt b) + x.aNew ≤ 1048576) ∧ (q.snd = true) ∧ (s.canWriteAll noDie (s.kvBooks x) =
      true) ∧ (s.kvTurn x = true ∨ ∀ (e : Nat × Nat), e ∈ s.appendEntries x → s.present e.snd = true) ∧ (w.canWriteAll ((s.taskDies x).headD
      0) (w.appendPages x) = true) ∧ (∃ d, d ∈ s.taskDies x ∧ s.diePipes d = true)) ∧
    (∃ (s : State) (tid : Nat) (x : TaskRec) (r e : Nat) (rest : List (Nat × Nat)), (s.maps.wf = true) ∧ (s.task tid = some x) ∧ (x.f 0 1
      = 1) ∧ (x.phase = TPhase.ready) ∧ (x.mark = 0) ∧ (x.aOp = 2) ∧ (s.atOk x = true) ∧ (∀ (b : Nat), b < x.aBatch → s.recLen (x.recAt b) +
      x.aNew ≤ 1048576) ∧ (s.appendEntries x = (r, e) :: rest) ∧ (s.present e = false) ∧ (s.secure x.p (s.kvPool x) e r true = none) ∧
      (s.canWriteAll noDie (s.kvBooks x) = true)) :=
  ⟨⟨(withTasks [atFull .ready [(0x24, 4, 0)]]), 0, (atFull .ready [(0x24, 4, 0)]), by decide +kernel⟩,
   ⟨(noPipes (withTasks [atFull .ready []])), 0, (atFull .ready []), by decide +kernel⟩,
   ⟨(withTasks [atFull .ready []]), 0, (atFull .ready []), by decide +kernel⟩,
   ⟨(kvMem 0 held (atPaged .ready 1 [])), 0, (atPaged .ready 1 []), by decide +kernel⟩,
   ⟨(noPipes (kvMem 1 held (atPaged .ready 1 []))), 0, (atPaged .ready 1 []), by decide +kernel⟩,
   ⟨(kvMem 1 held (atPaged .ready 1 [])), 0, (atPaged .ready 1 []), by decide +kernel⟩,
   ⟨(kvMem 1 held atBadAppend), 0, atBadAppend, by decide +kernel⟩,
   ⟨(kvMem 1048576 held (atAppend .ready)), 0, (atAppend .ready), by decide +kernel⟩,
   ⟨(heldPage (kvMem 127 held (atAppend .ready))), 0, (atAppend .ready), by decide +kernel⟩,
   ⟨(kvMem 127 held (atAppend .ready)), 0, (atAppend .ready), (kvSecured (atAppend .ready) (kvMem 127 held (atAppend .ready))), (kvReady
     (atAppend .ready) (kvMem 127 held (atAppend .ready))), rfl, rfl, memGood_of_side (by decide +kernel), canStep_of (by decide +kernel),
     by decide +kernel⟩,
   ⟨(kvMem 127 0 (atAppend .ready)), 0, (atAppend .ready), 0x10100, 0x10300, [], by decide +kernel⟩⟩

theorem test_witness_PagesOfSequencesComeAndGo :
    (∃ (s : State) (tid : Nat) (x : TaskRec), (s.maps.wf = true) ∧ (s.task tid = some x) ∧ (x.phase = TPhase.stalled) ∧ (x.mark = 1)) ∧
    (∃ (s : State) (tid : Nat) (x : TaskRec) (q : State × Bool) (w : State), (q = s.secureAll x.p (s.kvPool x) (s.appendEntries x)) ∧ (w =
      q.fst.kvServed x TPhase.ready) ∧ (w.memGood) ∧ (w.CanStep x (rngBlocks ((w.newTensor x false).rngs ++ (w.newTensor x true).rngs)) [])
      ∧ (s.maps.wf = true) ∧ (s.task tid = some x) ∧ (x.phase = TPhase.stalled) ∧ (x.mark ≠ 1) ∧ (q.snd = true) ∧ (s.canWriteAll noDie
      (s.kvBooks x) = true) ∧ (s.kvTurn x = true ∨ ∀ (e : Nat × Nat), e ∈ s.appendEntries x → s.present e.snd = true) ∧ (w.canWriteAll
      ((s.taskDies x).headD 0) (w.appendPages x) = true) ∧ (∃ d, d ∈ s.taskDies x ∧ s.diePipes d = true)) ∧
    (∃ (s : State) (tid : Nat) (x : TaskRec) (q : State × Bool) (w : State), (q = s.secureAll x.p (s.kvPool x) (s.appendEntries x)) ∧ (w =
      q.fst.kvServed x TPhase.ready) ∧ (w.memGood) ∧ (w.CanStep x (rngBlocks ((w.newTensor x false).rngs ++ (w.newTensor x true).rngs)) [])
      ∧ (s.maps.wf = true) ∧ (s.task tid = some x) ∧ (x.phase = TPhase.stalled) ∧ (x.mark ≠ 1) ∧ (q.snd = true) ∧ (s.canWriteAll noDie
      (s.kvBooks x) = true) ∧ (s.kvTurn x = true ∨ ∀ (e : Nat × Nat), e ∈ s.appendEntries x → s.present e.snd = true) ∧ (w.canWriteAll
      ((s.taskDies x).headD 0) (w.appendPages x) = true) ∧ (∃ d, d ∈ s.taskDies x ∧ s.diePipes d = true)) ∧
    (∃ (s : State) (tid : Nat) (x : TaskRec), (s.maps.wf = true) ∧ (s.task tid = some x) ∧ (x.phase = TPhase.ready) ∧ (x.f 0 1 = 1) ∧
      (x.aOp = 3) ∧ (s.atOk x = false)) ∧
    (∃ (s : State) (tid : Nat) (x : TaskRec) (mine : List Nat), (s.maps.wf = true) ∧ (s.task tid = some x) ∧ (x.phase = TPhase.ready) ∧
      (x.f 0 1 = 1) ∧ (x.aOp = 3) ∧ (s.atOk x = true) ∧ (s.canWriteAll noDie (s.kvBooks x) = true) ∧ (mine = List.filter (fun p =>
      s.pageOwnerOf (s.kvPool x) p != 0 && s.present (s.pageOwnerOf (s.kvPool x) p) && s.kvRecs.any fun y => y.entry == s.pageOwnerOf
      (s.kvPool x) p && (List.map x.recAt (List.range x.aBatch)).contains y.record) (List.range (s.kvPool x).pages))) ∧
    (∃ (s : State) (p : Nat) (x : TaskRec), (s.maps.wf = true) ∧ (p < 8) ∧ ((List.filter (fun y => y.p == p && y.phase == TPhase.stalled)
      s.tasks).getLast? = some x) ∧ (s.task x.tid = some x) ∧ (64 ≤ s.kvFrames p)) :=
  ⟨⟨(kvMem 0 0 (stalledAt 1 (atAppend .ready))), 0, (stalledAt 1 (atAppend .ready)), by decide +kernel⟩,
   ⟨(kvMem 0 held (stalledAt 0 (atAppend .ready))), 0, (stalledAt 0 (atAppend .ready)), (kvSecured (stalledAt 0 (atAppend .ready)) (kvMem
     0 held (stalledAt 0 (atAppend .ready)))), (kvReady (stalledAt 0 (atAppend .ready)) (kvMem 0 held (stalledAt 0 (atAppend .ready)))),
     rfl, rfl, memGood_of_side (by decide +kernel), canStep_of (by decide +kernel), by decide +kernel⟩,
   ⟨kvRoom, 0, (stalledAt 0 (atAppend .ready)), (kvSecured (stalledAt 0 (atAppend .ready)) kvRoom), (kvReady (stalledAt 0 (atAppend
     .ready)) kvRoom), rfl, rfl, memGood_of_side (by decide +kernel), canStep_of (by decide +kernel), by decide +kernel⟩,
   ⟨(kvMem 1 held rlBad), 0, rlBad, by decide +kernel⟩,
   ⟨(kvMem 1 held rlJob), 0, rlJob, [0], by decide +kernel⟩,
   ⟨(stuckFor 64 (kvMem 1 0 (stalledAt 0 (atAppend .ready)))), 0, (stalledAt 0 (atAppend .ready)), by decide +kernel⟩⟩

theorem test_witness_AttentionUnitsRunTheirBlocks :
    (∃ (s : State) (tid uid : Nat) (x : TaskRec) (u : UnitRec) (ks ko wait : Nat) (env : RsuEnv), (s.maps.wf = true) ∧ (s.task tid = some
      x) ∧ (x.unit uid = some u) ∧ (x.f 0 1 = 1) ∧ (u.die < 8) ∧ (u.eng < 8) ∧ (ks = s.rd (Addr.atp u.die u.eng 0) 23 16) ∧ (ko = s.rd
      (Addr.atp u.die u.eng 0) 15 8) ∧ (ks < 17) ∧ (ko < 17) ∧ (u.image = none) ∧ (env.placed = true) ∧ (u.phase = UPhase.issued) ∧ (u.next
      < u.last) ∧ (∀ (b : Nat), b ∈ s.keyNeeds x u → b ∈ u.arrived) ∧ (s.blockSkipped x u u.next = true)) ∧
    (∃ (s : State) (tid uid : Nat) (x : TaskRec) (u : UnitRec) (ks ko wait busy : Nat) (env : RsuEnv), (s.maps.wf = true) ∧ (s.task tid =
      some x) ∧ (x.unit uid = some u) ∧ (x.f 0 1 = 1) ∧ (u.die < 8) ∧ (u.eng < 8) ∧ (ks = s.rd (Addr.atp u.die u.eng 0) 23 16) ∧ (ko = s.rd
      (Addr.atp u.die u.eng 0) 15 8) ∧ (ks < 17) ∧ (ko < 17) ∧ (u.image = none) ∧ (env.placed = true) ∧ (u.phase = UPhase.issued) ∧ (u.next
      < u.last) ∧ (∀ (b : Nat), b ∈ s.keyNeeds x u → b ∈ u.arrived) ∧ (s.blockSkipped x u u.next = false) ∧ (busy = max (s.atClocks x).fst
      (max 128 (s.atClocks x).snd)) ∧ (env.fault = none)) ∧
    (∃ (s : State) (tid uid : Nat) (x : TaskRec) (u : UnitRec) (ks ko wait busy : Nat) (env : RsuEnv) (row : Nat), (s.maps.wf = true) ∧
      (s.task tid = some x) ∧ (x.unit uid = some u) ∧ (x.f 0 1 = 1) ∧ (u.die < 8) ∧ (u.eng < 8) ∧ (ks = s.rd (Addr.atp u.die u.eng 0) 23 16)
      ∧ (ko = s.rd (Addr.atp u.die u.eng 0) 15 8) ∧ (ks < 17) ∧ (ko < 17) ∧ (u.image = none) ∧ (env.placed = true) ∧ (u.phase =
      UPhase.issued) ∧ (u.next < u.last) ∧ (∀ (b : Nat), b ∈ s.keyNeeds x u → b ∈ u.arrived) ∧ (s.blockSkipped x u u.next = false) ∧ (busy =
      max (s.atClocks x).fst (max 128 (s.atClocks x).snd)) ∧ (env.fault = some (UnitFault.parity row) ∨ env.fault = some (UnitFault.table
      row)) ∧ (¬(u.moved = true ∧ s.taskRetries ≤ x.retries))) ∧
    (∃ (s : State) (tid uid : Nat) (x : TaskRec) (u : UnitRec) (ks ko wait busy : Nat) (env : RsuEnv) (row : Nat), (s.maps.wf = true) ∧
      (s.task tid = some x) ∧ (x.unit uid = some u) ∧ (x.f 0 1 = 1) ∧ (u.die < 8) ∧ (u.eng < 8) ∧ (ks = s.rd (Addr.atp u.die u.eng 0) 23 16)
      ∧ (ko = s.rd (Addr.atp u.die u.eng 0) 15 8) ∧ (ks < 17) ∧ (ko < 17) ∧ (u.image = none) ∧ (env.placed = true) ∧ (u.phase =
      UPhase.issued) ∧ (u.next < u.last) ∧ (∀ (b : Nat), b ∈ s.keyNeeds x u → b ∈ u.arrived) ∧ (s.blockSkipped x u u.next = false) ∧ (busy =
      max (s.atClocks x).fst (max 128 (s.atClocks x).snd)) ∧ (env.fault = some (UnitFault.parity row) ∨ env.fault = some (UnitFault.table
      row)) ∧ (¬(u.moved = true ∧ s.taskRetries ≤ x.retries))) ∧
    (∃ (s : State) (tid uid : Nat) (x : TaskRec) (u : UnitRec) (ks ko late : Nat), (s.maps.wf = true) ∧ (s.task tid = some x) ∧ (x.unit
      uid = some u) ∧ (x.f 0 1 = 1) ∧ (u.die < 8) ∧ (u.eng < 8) ∧ (ks = s.rd (Addr.atp u.die u.eng 0) 23 16) ∧ (ko = s.rd (Addr.atp u.die
      u.eng 0) 15 8) ∧ (ks < 17) ∧ (ko < 17) ∧ (u.image = none) ∧ (u.phase = UPhase.issued) ∧ (¬(u.moved = true ∧ s.taskRetries ≤
      x.retries))) ∧
    (∃ (s : State) (tid uid : Nat) (x : TaskRec) (u : UnitRec) (ks ko : Nat) (env : RsuEnv), (s.maps.wf = true) ∧ (s.task tid = some x) ∧
      (x.unit uid = some u) ∧ (x.f 0 1 = 1) ∧ (u.die < 8) ∧ (u.eng < 8) ∧ (ks = s.rd (Addr.atp u.die u.eng 0) 23 16) ∧ (ko = s.rd (Addr.atp
      u.die u.eng 0) 15 8) ∧ (ks < 17) ∧ (ko < 17) ∧ (u.image = none) ∧ (env.placed = true) ∧ (env.fault = none) ∧ (u.phase = UPhase.summed)
      ∧ (s.atAwaited x u = []) ∧ (s.canWriteAll u.die (s.atPages x u) = true) ∧ (u.b < x.aBatch) ∧ (u.ct < x.aHkv) ∧ (x.aOp ≠ 3) ∧ (x.phase
      = TPhase.running)) ∧
    (∃ (s : State) (tid uid : Nat) (x : TaskRec) (u : UnitRec) (ks ko : Nat) (env : RsuEnv), (s.maps.wf = true) ∧ (s.task tid = some x) ∧
      (x.unit uid = some u) ∧ (x.f 0 1 = 1) ∧ (u.die < 8) ∧ (u.eng < 8) ∧ (ks = s.rd (Addr.atp u.die u.eng 0) 23 16) ∧ (ko = s.rd (Addr.atp
      u.die u.eng 0) 15 8) ∧ (ks < 17) ∧ (ko < 17) ∧ (u.image = none) ∧ (env.placed = true) ∧ (env.fault = none) ∧ (u.phase = UPhase.summed)
      ∧ (s.atAwaited x u = []) ∧ (s.canWriteAll u.die (s.atPages x u) = true) ∧ (u.b < x.aBatch) ∧ (u.ct < x.aHkv) ∧ (x.aOp ≠ 3) ∧ (x.phase
      = TPhase.running)) :=
  ⟨⟨(atEngines (withTasks [atTask [] (atHas 1)])), 0, 0, (atTask [] (atHas 1)), (atHas 1), 1, 16, 3, {}, by decide +kernel⟩,
   ⟨(atEngines (withTasks [atTask [] (atHas 0)])), 0, 0, (atTask [] (atHas 0)), (atHas 0), 1, 16, 3, 256, {}, by decide +kernel⟩,
   ⟨(atEngines (withTasks [atTask [] (atHas 0)])), 0, 0, (atTask [] (atHas 0)), (atHas 0), 1, 16, 3, 256, { fault := some (.parity 0) },
     0, by decide +kernel⟩,
   ⟨(atEngines (withTasks [atTask [] (atHas 0)])), 0, 0, (atTask [] (atHas 0)), (atHas 0), 1, 16, 3, 256, { fault := some (.table 127) },
     127, by decide +kernel⟩,
   ⟨(atEngines (withTasks [atTask [] (atUnit .issued 0)])), 0, 0, (atTask [] (atUnit .issued 0)), (atUnit .issued 0), 1, 16, 1,
     by decide +kernel⟩,
   ⟨(atEngines (withTasks [atTask [] atSummed])), 0, 0, (atTask [] atSummed), atSummed, 1, 16, {}, by decide +kernel⟩,
   ⟨(atEngines (withTasks [atTask [(0x30, 8, 0x440), (0xA8, 8, 0xD000)] atSummed])), 0, 0, (atTask [(0x30, 8, 0x440), (0xA8, 8, 0xD000)]
     atSummed), atSummed, 1, 16, {}, by decide +kernel⟩⟩

theorem test_witness_ResidencyOperationsChangeEntries :
    (∃ (s : State) (tid : Nat) (x : TaskRec) (pages : List Nat) (c : Instr), (s.memGood) ∧ (s.maps.wf = true) ∧ (s.task tid = some x) ∧
      (s.mayRun x = true) ∧ (x.p < 8) ∧ (pages = listPages (s.rangeList x).fst) ∧ (c = Instr.map tid ∧ x.isKind 3 6 = true ∨ c = Instr.unmap
      tid ∧ x.isKind 3 7 = true ∨ c = Instr.hint tid ∧ x.isKind 3 8 = true) ∧ (s.resOk x = false)) ∧
    (∃ (s : State) (tid : Nat) (x : TaskRec) (pages : List Nat) (c : Instr), (s.memGood) ∧ (s.maps.wf = true) ∧ (s.task tid = some x) ∧
      (s.mayRun x = true) ∧ (x.p < 8) ∧ (pages = listPages (s.rangeList x).fst) ∧ (c = Instr.map tid ∧ x.isKind 3 6 = true ∨ c = Instr.unmap
      tid ∧ x.isKind 3 7 = true ∨ c = Instr.hint tid ∧ x.isKind 3 8 = true) ∧ (s.resOk x = false)) ∧
    (∃ (s : State) (tid : Nat) (x : TaskRec) (pages : List Nat) (c : Instr), (s.memGood) ∧ (s.maps.wf = true) ∧ (s.task tid = some x) ∧
      (s.mayRun x = true) ∧ (x.p < 8) ∧ (pages = listPages (s.rangeList x).fst) ∧ (c = Instr.map tid ∧ x.isKind 3 6 = true ∨ c = Instr.unmap
      tid ∧ x.isKind 3 7 = true ∨ c = Instr.hint tid ∧ x.isKind 3 8 = true) ∧ (s.resOk x = false)) ∧
    (∃ (s : State) (tid : Nat) (x : TaskRec) (pages : List Nat), (s.memGood) ∧ (s.CanStep x (rngBlocks x.resReads) []) ∧ (s.maps.wf =
      true) ∧ (s.task tid = some x) ∧ (s.mayRun x = true) ∧ (x.p < 8) ∧ (pages = listPages (s.rangeList x).fst) ∧ (x.isKind 3 6 = true) ∧
      (s.resOk x = true)) ∧
    (∃ (s : State) (tid : Nat) (x : TaskRec) (pages : List Nat), (s.memGood) ∧ (s.CanStep x (rngBlocks x.resReads) []) ∧ (s.maps.wf =
      true) ∧ (s.task tid = some x) ∧ (s.mayRun x = true) ∧ (x.p < 8) ∧ (pages = listPages (s.rangeList x).fst) ∧ (x.isKind 3 6 = true) ∧
      (s.resOk x = true)) ∧
    (∃ (s : State) (tid : Nat) (x : TaskRec) (pages : List Nat), (s.memGood) ∧ (s.CanStep x (rngBlocks x.resReads) []) ∧ (s.maps.wf =
      true) ∧ (s.task tid = some x) ∧ (s.mayRun x = true) ∧ (x.p < 8) ∧ (pages = listPages (s.rangeList x).fst) ∧ (x.isKind 3 7 = true) ∧
      (s.resOk x = true)) ∧
    (∃ (s : State) (tid : Nat) (x : TaskRec) (pages : List Nat), (s.memGood) ∧ (s.CanStep x (rngBlocks x.resReads) []) ∧ (s.maps.wf =
      true) ∧ (s.task tid = some x) ∧ (s.mayRun x = true) ∧ (x.p < 8) ∧ (pages = listPages (s.rangeList x).fst) ∧ (x.isKind 3 8 = true) ∧
      (s.resOk x = true)) :=
  ⟨⟨(resMem 15 2 (resJob 7 1 0 0)), 0, (resJob 7 1 0 0), [15, 16], (.unmap 0), memGood_of_side rfl, by decide +kernel⟩,
   ⟨(resMem 0 1 (resJob 6 1 0 0)), 0, (resJob 6 1 0 0), [0], (.map 0), memGood_of_side rfl, by decide +kernel⟩,
   ⟨(resMem 1 2 (resJob 8 1 0 0x1FF)), 0, (resJob 8 1 0 0x1FF), [1, 2], (.hint 0), memGood_of_side rfl, by decide +kernel⟩,
   ⟨(resMem 2 14 (resJob 6 1 0x174 0)), 0, (resJob 6 1 0x174 0), [2, 3, 4, 5, 6, 7, 8, 9, 10, 11, 12, 13, 14, 15], memGood_of_side rfl,
     canStep_of (by decide +kernel), by decide +kernel⟩,
   ⟨(resMem 2 1 (resJob 6 1 0x13A 0)), 0, (resJob 6 1 0x13A 0), [2], memGood_of_side rfl, canStep_of (by decide +kernel),
     by decide +kernel⟩,
   ⟨(resMem 0 2 (resJob 7 1 0 0)), 0, (resJob 7 1 0 0), [0, 1], memGood_of_side rfl, canStep_of (by decide +kernel), by decide +kernel⟩,
   ⟨(resMem 0 2 (resJob 8 1 0x12A 0x1FF)), 0, (resJob 8 1 0x12A 0x1FF), [0, 1], memGood_of_side rfl, canStep_of (by decide +kernel),
     by decide +kernel⟩⟩

theorem test_witness_MigrationsAndNarrowing :
    (∃ (s : State) (page tier die : Nat), (s.MayMove page tier die) ∧ (s.maps.wf = true) ∧ (page < 4194304) ∧ (die < 8) ∧ (s.stopped =
      false) ∧ (0 < tier) ∧ (tier < 4) ∧ (s.moveDue page tier die = true)) ∧
    (∃ (s : State) (page tier die : Nat), (s.MayMove page tier die) ∧ (s.maps.wf = true) ∧ (page < 4194304) ∧ (die < 8) ∧ (s.stopped =
      false) ∧ (0 < tier) ∧ (tier < 4) ∧ (s.moveDue page tier die = true)) ∧
    (∃ (s : State) (page tier die p n d : Nat), (s.MayMove page tier 0) ∧ (s.maps.wf = true) ∧ (page < 4194304) ∧ (die < 8) ∧ (s.stopped =
      false) ∧ (s.evictable page = true) ∧ (s.oldest page = true) ∧ (tier = rtTier (s.rt page) + 1) ∧ ((p, n, d) = (rtPart (s.rt page),
      rtTier (s.rt page), if rtTier (s.rt page) = 1 then rtDie (s.rt page) else 0)) ∧ (s.belowMark p n d false = true ∨ (p, n, d) ∈
      s.evicting ∧ s.belowMark p n d true = true ∨ n = 1 ∧ s.freeFrames p 1 d = 0)) ∧
    (∃ (s : State) (page tier die p n d : Nat), (s.MayMove page tier 0) ∧ (s.maps.wf = true) ∧ (page < 4194304) ∧ (die < 8) ∧ (s.stopped =
      false) ∧ (s.evictable page = true) ∧ (s.oldest page = true) ∧ (tier = rtTier (s.rt page) + 1) ∧ ((p, n, d) = (rtPart (s.rt page),
      rtTier (s.rt page), if rtTier (s.rt page) = 1 then rtDie (s.rt page) else 0)) ∧ (s.belowMark p n d true = false) ∧ (n = 1 →
      s.freeFrames p 1 d ≠ 0) ∧ (s.belowMark p n d false = false)) ∧
    (∃ (s : State) (page tier die : Nat), (s.MayMove page 1 die) ∧ (s.maps.wf = true) ∧ (page < 4194304) ∧ (die < 8) ∧ (s.stopped = false)
      ∧ (rtTier (s.rt page) = 2) ∧ (rtPlace (s.rt page) ≤ 1) ∧ (rtKeep (s.rt page) = false) ∧ ((page, die) ∈ s.touchedPrev) ∧ (s.aboveMark
      (rtPart (s.rt page)) 1 die (rtPlace (s.rt page) == 0) = true)) ∧
    (∃ (s : State) (page stored : Nat) (m : MigRec), (s.maps.wf = true) ∧ (List.find? (fun x => x.page == page) s.migs = some m) ∧
      (m.dirty = []) ∧ (m.lostDest = []) ∧ (∀ (y : MoveRec), y ∈ s.moves → y.page ≠ page)) ∧
    (∃ (s : State) (page stored : Nat) (m : MigRec), (s.maps.wf = true) ∧ (List.find? (fun x => x.page == page) s.migs = some m) ∧
      (m.dirty ≠ [])) ∧
    (∃ (s : State) (page : Nat) (f : FrameRec), (s.maps.wf = true) ∧ (List.find? (fun x => x.page == page) s.frames = some f) ∧
      ((s.sick.any fun x => x.tier == f.tier && x.frame == f.frame && x.p == f.p && x.die == f.die) = false)) ∧
    (∃ (s : State) (page : Nat) (f : FrameRec), (s.maps.wf = true) ∧ (List.find? (fun x => x.page == page) s.frames = some f) ∧
      ((s.sick.any fun x => x.tier == f.tier && x.frame == f.frame && x.p == f.p && x.die == f.die) = true)) ∧
    (∃ (s : State) (tid : Nat) (x : TaskRec), (s.maps.wf = true) ∧ (s.task tid = some x) ∧ (x.phase = TPhase.ended)) ∧
    (∃ (s : State) (tid b : Nat) (x : TaskRec) (src tgt : Fmt) (w : Nat), (s.maps.wf = true) ∧ (s.task tid = some x) ∧ (x.phase =
      TPhase.ended) ∧ (List.filter (fun y => y.fst == tid) s.narrowDue = [(tid, b)]) ∧ (rtNarrow (s.rt (b / 64)) = true) ∧ (s.lost b =
      false) ∧ (src = nsrcFmt (rtNsrc (s.rt (b / 64)))) ∧ (tgt = ntgtFmt (rtNtgt (s.rt (b / 64)))) ∧ (w = src.width / 8)) :=
  ⟨⟨(entry 0 (hostPage 0) (pool 1)), 0, 2, 0, mayMove_of (by decide +kernel), by decide +kernel⟩,
   ⟨callsIn, 0, 1, 0, mayMove_of (by decide +kernel), by decide +kernel⟩,
   ⟨tight, 0, 3, 0, 0, 2, 0, mayMove_of (by decide +kernel), by decide +kernel⟩,
   ⟨slack, 0, 3, 0, 0, 2, 0, mayMove_of (by decide +kernel), by decide +kernel⟩,
   ⟨usedBy, 0, 1, 0, mayMove_of (by decide +kernel), by decide +kernel⟩,
   ⟨(moving []), 0, 262144, (moveOf []), by decide +kernel⟩,
   ⟨(moving [1]), 0, 262144, (moveOf [1]), by decide +kernel⟩,
   ⟨(leaving []), 0, oldFrame, by decide +kernel⟩,
   ⟨(leaving [oldFrame]), 0, oldFrame, by decide +kernel⟩,
   ⟨narrowing, 0, (taskOf .ended (prodDesc [])), by decide +kernel⟩,
   ⟨narrowing, 0, 3, (taskOf .ended (prodDesc [])), .bf16, .e4m3, 2, by decide +kernel⟩⟩

theorem test_witness_HostPoolAndWindow :
    (∃ (s : State) (fn p : Nat) (v : W64), (s.maps.wf = true) ∧ (fn ≤ 8) ∧ (p < 8) ∧ (s.reaches fn (Addr.memp p 40) = true) ∧ (s.rd
      (Addr.memp p 48) 23 0 = 0) ∧ (s.rd (Addr.memp p 52) 0 0 = 0)) ∧
    (∃ (s : State) (fn p : Nat) (v : W64), (s.maps.wf = true) ∧ (fn ≤ 8) ∧ (p < 8) ∧ (s.reaches fn (Addr.memp p 40) = true) ∧ (s.rd
      (Addr.memp p 48) 23 0 ≠ 0)) ∧
    (∃ (s : State) (fn p : Nat) (v : W32) (host : List HostStore) (h : State), (∀ (i : Nat), s.rd (Addr.memp p 48) 23 0 ≤ i → i <
      BitVec.toNat v % 16777216 → h.hostNat (BitVec.toNat (s.reg (Addr.memp p 40)) + 8 * i) 8 % 4096 = 0) ∧ (s.maps.wf = true) ∧ (fn ≤ 8) ∧
      (p < 8) ∧ (s.reaches fn (Addr.memp p 48) = true) ∧ (h = s.hostStores host) ∧ (s.rd (Addr.memp p 48) 23 0 < BitVec.toNat v % 16777216)) ∧
    (∃ (s : State) (fn p : Nat) (v : W32) (host : List HostStore) (h : State), (s.maps.wf = true) ∧ (fn ≤ 8) ∧ (p < 8) ∧ (s.reaches fn
      (Addr.memp p 48) = true) ∧ (h = s.hostStores host) ∧ (BitVec.toNat v % 16777216 < s.rd (Addr.memp p 48) 23 0) ∧ (s.poolFrames p 2 0 +
      BitVec.toNat v % 16777216 < (s.pagesOf p).length)) ∧
    (∃ (s : State) (fn p : Nat) (v : W32) (host : List HostStore) (h : State), (s.maps.wf = true) ∧ (fn ≤ 8) ∧ (p < 8) ∧ (s.reaches fn
      (Addr.memp p 48) = true) ∧ (h = s.hostStores host) ∧ (BitVec.toNat v % 16777216 < s.rd (Addr.memp p 48) 23 0) ∧ ((s.badFrames.any fun
      f => f.p == p) = false) ∧ ((s.hostSkips.any fun y => y.fst == p) = false) ∧ ((s.pagesOf p).length ≤ s.poolFrames p 2 0 + BitVec.toNat
      v % 16777216)) ∧
    (∃ (s : State) (fn p : Nat), (s.maps.wf = true) ∧ (fn ≤ 8) ∧ (p < 8) ∧ (s.rd (Addr.memp p 52) 0 0 = 1) ∧ (s.beyondPool p (s.rd
      (Addr.memp p 48) 23 0) = false)) ∧
    (∃ (s : State) (fn off len : Nat) (data : List Byte) (pg : Nat), (s.maps.wf = true) ∧ (fn ≤ 8) ∧ (fn ≤ s.numVfs) ∧ (0 < len) ∧ (off +
      len ≤ pow2 36) ∧ (data.length = len) ∧ (s.winFault fn (s.winAddr fn off) len = some pg)) ∧
    (∃ (s : State) (fn off len : Nat) (data : List Byte), (s.maps.wf = true) ∧ (fn ≤ 8) ∧ (fn ≤ s.numVfs) ∧ (0 < len) ∧ (off + len ≤ pow2
      36) ∧ (data.length = len) ∧ (s.winFault fn (s.winAddr fn off) len = none) ∧ (∀ (b : Nat), b ∈ blocksOf (s.winAddr fn off) len → s.lost
      b = false)) ∧
    (∃ (s : State) (fn off len : Nat) (data : List Byte), (s.maps.wf = true) ∧ (fn ≤ 8) ∧ (fn ≤ s.numVfs) ∧ (0 < len) ∧ (off + len ≤ pow2
      36) ∧ (data.length = len) ∧ (s.winFault fn (s.winAddr fn off) len = none) ∧ (∃ b, b ∈ blocksOf (s.winAddr fn off) len ∧ s.lost b =
      true)) ∧
    (∃ (s : State) (fn off len : Nat) (data : List Byte) (pages : List Nat), (s.maps.wf = true) ∧ (fn ≤ 8) ∧ (fn ≤ s.numVfs) ∧ (0 < len) ∧
      (off + len ≤ pow2 36) ∧ (data.length = len) ∧ (s.winFault fn (s.winAddr fn off) len = none) ∧ (pages = nubList (List.map (fun i =>
      (s.winAddr fn off + i) / 262144) (List.range len))) ∧ (s.canWriteAll noDie pages = true)) ∧
    (∃ (s : State) (fn off len : Nat) (data : List Byte) (pages : List Nat), (s.maps.wf = true) ∧ (fn ≤ 8) ∧ (fn ≤ s.numVfs) ∧ (0 < len) ∧
      (off + len ≤ pow2 36) ∧ (data.length = len) ∧ (s.winFault fn (s.winAddr fn off) len = none) ∧ (pages = nubList (List.map (fun i =>
      (s.winAddr fn off + i) / 262144) (List.range len))) ∧ (s.canWriteAll noDie pages = false)) ∧
    (∃ (s : State) (fn off len : Nat) (data : List Byte) (pg : Nat), (s.maps.wf = true) ∧ (fn ≤ 8) ∧ (fn ≤ s.numVfs) ∧ (0 < len) ∧ (off +
      len ≤ pow2 36) ∧ (data.length = len) ∧ (s.winFault fn (s.winAddr fn off) len = some pg)) :=
  ⟨⟨(pool 0), 0, 0, 0xFFFFFFFFFFFFFFFF, by decide +kernel⟩,
   ⟨(pool 1), 0, 0, 0x1000, by decide +kernel⟩,
   ⟨(pool 0), 0, 0, 1, [], (pool 0), pool_low, by decide +kernel⟩,
   ⟨full, 0, 0, 0, [], full, by decide +kernel⟩,
   ⟨(pool 1), 0, 0, 0, [], (pool 1), by decide +kernel⟩,
   ⟨(entry 2 (hostPage 2) shrinking), 0, 0, by decide +kernel⟩,
   ⟨gMem, 0, 4194303, 2, [1, 2], 15, by decide +kernel⟩,
   ⟨gMem, 0, 262143, 2, [1, 2], by decide +kernel⟩,
   ⟨(lost2 gMem), 0, 12287, 2, [1, 2], by decide +kernel⟩,
   ⟨gMem, 0, 262143, 2, [1, 2], [0, 1], by decide +kernel⟩,
   ⟨(heldPage gMem), 0, 262143, 2, [1, 2], [0, 1], by decide +kernel⟩,
   ⟨gMem, 0, 4194304, 2, [1, 2], 16, by decide +kernel⟩⟩

theorem test_witness_HbmRequestsAreServedOrHeld :
    (∃ (s : State) (pc : Nat) (arrivals w e : List HbmReq), (s.maps.wf = true) ∧ (pc < 512) ∧ (∀ (q : HbmReq), q ∈ arrivals → q.line <
      6291456) ∧ (s.pcState pc = 0 ∨ s.pcState pc = 3) ∧ (w = s.hbmWait ++ List.filter (s.reqOk pc) arrivals) ∧ (e =
      ({ s with hbmWait := w } : State).eligible pc) ∧ (∃ q, q ∈ w ∧ q.pc = pc) ∧ (∀ (q : HbmReq), q ∈ w → ∀ (p : Nat), s.reqPart q = some p
      → p < 8)) ∧
    (∃ (s : State) (pc : Nat) (arrivals w e : List HbmReq), (s.maps.wf = true) ∧ (pc < 512) ∧ (∀ (q : HbmReq), q ∈ arrivals → q.line <
      6291456) ∧ (s.pcState pc = 0 ∨ s.pcState pc = 3) ∧ (w = s.hbmWait ++ List.filter (s.reqOk pc) arrivals) ∧ (e =
      ({ s with hbmWait := w } : State).eligible pc) ∧ (∃ q, q ∈ w ∧ q.pc = pc) ∧ (∀ (q : HbmReq), q ∈ w → ∀ (p : Nat), s.reqPart q = some p
      → p < 8)) ∧
    (∃ (s : State) (pc : Nat) (arrivals w e : List HbmReq), (s.maps.wf = true) ∧ (pc < 512) ∧ (∀ (q : HbmReq), q ∈ arrivals → q.line <
      6291456) ∧ (s.pcState pc = 0 ∨ s.pcState pc = 3) ∧ (w = s.hbmWait ++ List.filter (s.reqOk pc) arrivals) ∧ (e =
      ({ s with hbmWait := w } : State).eligible pc) ∧ (∃ q, q ∈ w ∧ q.pc = pc) ∧ (∀ (q : HbmReq), q ∈ w → ∀ (p : Nat), s.reqPart q = some p
      → p < 8)) ∧
    (∃ (s : State) (q : HbmReq) (own : Prop), (s.maps.wf = true) ∧ (q.pc < 512) ∧ (q.line < 6291456) ∧ (s.reqOk q.pc q = true) ∧ (∀ (y :
      HbmReq), y ∈ s.hbmWait → y.pc ≠ q.pc) ∧ (∀ (p : Nat), s.reqPart q = some p → p < 8) ∧ (own ↔ (rtState (s.rt (q.blk / 64)) = 2 ∨
      rtState (s.rt (q.blk / 64)) = 3) ∧ rtTier (s.rt (q.blk / 64)) = 2 ∧ rtFrame (s.rt (q.blk / 64)) = granuleAt s.removedPc q.pc q.line /
      1024) ∧ (s.pcState q.pc = 1 ∨ s.pcState q.pc = 2) ∧ ((List.filter (fun x => x.pc == q.pc) s.hbmHold).length < 128)) ∧
    (∃ (s : State) (q : HbmReq) (own : Prop), (s.maps.wf = true) ∧ (q.pc < 512) ∧ (q.line < 6291456) ∧ (s.reqOk q.pc q = true) ∧ (∀ (y :
      HbmReq), y ∈ s.hbmWait → y.pc ≠ q.pc) ∧ (∀ (p : Nat), s.reqPart q = some p → p < 8) ∧ (own ↔ (rtState (s.rt (q.blk / 64)) = 2 ∨
      rtState (s.rt (q.blk / 64)) = 3) ∧ rtTier (s.rt (q.blk / 64)) = 2 ∧ rtFrame (s.rt (q.blk / 64)) = granuleAt s.removedPc q.pc q.line /
      1024) ∧ (s.pcState q.pc = 1 ∨ s.pcState q.pc = 2) ∧ ((List.filter (fun x => x.pc == q.pc) s.hbmHold).length = 128)) ∧
    (∃ (s : State) (q : HbmReq) (own : Prop), (s.maps.wf = true) ∧ (q.pc < 512) ∧ (q.line < 6291456) ∧ (s.reqOk q.pc q = true) ∧ (∀ (y :
      HbmReq), y ∈ s.hbmWait → y.pc ≠ q.pc) ∧ (∀ (p : Nat), s.reqPart q = some p → p < 8) ∧ (own ↔ (rtState (s.rt (q.blk / 64)) = 2 ∨
      rtState (s.rt (q.blk / 64)) = 3) ∧ rtTier (s.rt (q.blk / 64)) = 2 ∧ rtFrame (s.rt (q.blk / 64)) = granuleAt s.removedPc q.pc q.line /
      1024) ∧ (s.pcState q.pc = 0) ∧ (q.errs = [])) ∧
    (∃ (s : State) (q : HbmReq) (own : Prop) (w : Nat), (s.maps.wf = true) ∧ (q.pc < 512) ∧ (q.line < 6291456) ∧ (s.reqOk q.pc q = true) ∧
      (∀ (y : HbmReq), y ∈ s.hbmWait → y.pc ≠ q.pc) ∧ (∀ (p : Nat), s.reqPart q = some p → p < 8) ∧ (own ↔ (rtState (s.rt (q.blk / 64)) = 2
      ∨ rtState (s.rt (q.blk / 64)) = 3) ∧ rtTier (s.rt (q.blk / 64)) = 2 ∧ rtFrame (s.rt (q.blk / 64)) = granuleAt s.removedPc q.pc q.line
      / 1024) ∧ (s.pcState q.pc = 0) ∧ (q.op ≠ HbmOp.write) ∧ (w < 2 * q.n) ∧ (q.errs = [{ word := w, uncorr := false }])) ∧
    (∃ (s : State) (q : HbmReq) (own : Prop) (w : Nat), (s.maps.wf = true) ∧ (q.pc < 512) ∧ (q.line < 6291456) ∧ (s.reqOk q.pc q = true) ∧
      (∀ (y : HbmReq), y ∈ s.hbmWait → y.pc ≠ q.pc) ∧ (∀ (p : Nat), s.reqPart q = some p → p < 8) ∧ (own ↔ (rtState (s.rt (q.blk / 64)) = 2
      ∨ rtState (s.rt (q.blk / 64)) = 3) ∧ rtTier (s.rt (q.blk / 64)) = 2 ∧ rtFrame (s.rt (q.blk / 64)) = granuleAt s.removedPc q.pc q.line
      / 1024) ∧ (s.pcState q.pc = 0) ∧ (q.op ≠ HbmOp.write) ∧ (w < 2 * q.n) ∧ (q.errs = [{ word := w, uncorr := false }])) ∧
    (∃ (s : State) (q : HbmReq) (own : Prop) (w : Nat), (s.maps.wf = true) ∧ (q.pc < 512) ∧ (q.line < 6291456) ∧ (s.reqOk q.pc q = true) ∧
      (∀ (y : HbmReq), y ∈ s.hbmWait → y.pc ≠ q.pc) ∧ (∀ (p : Nat), s.reqPart q = some p → p < 8) ∧ (own ↔ (rtState (s.rt (q.blk / 64)) = 2
      ∨ rtState (s.rt (q.blk / 64)) = 3) ∧ rtTier (s.rt (q.blk / 64)) = 2 ∧ rtFrame (s.rt (q.blk / 64)) = granuleAt s.removedPc q.pc q.line
      / 1024) ∧ (s.pcState q.pc = 0) ∧ (q.op ≠ HbmOp.write) ∧ (w < 2 * q.n) ∧ (q.errs = [{ word := w, uncorr := true }]) ∧ ((s.pcRec
      q.pc).uncorr < 255)) ∧
    (∃ (s : State) (q : HbmReq) (own : Prop) (w : Nat), (s.maps.wf = true) ∧ (q.pc < 512) ∧ (q.line < 6291456) ∧ (s.reqOk q.pc q = true) ∧
      (∀ (y : HbmReq), y ∈ s.hbmWait → y.pc ≠ q.pc) ∧ (∀ (p : Nat), s.reqPart q = some p → p < 8) ∧ (own ↔ (rtState (s.rt (q.blk / 64)) = 2
      ∨ rtState (s.rt (q.blk / 64)) = 3) ∧ rtTier (s.rt (q.blk / 64)) = 2 ∧ rtFrame (s.rt (q.blk / 64)) = granuleAt s.removedPc q.pc q.line
      / 1024) ∧ (s.pcState q.pc = 0) ∧ (q.op ≠ HbmOp.write) ∧ (w < 2 * q.n) ∧ (q.errs = [{ word := w, uncorr := true }]) ∧ ((s.pcRec
      q.pc).uncorr < 255)) ∧
    (∃ (s : State) (q : HbmReq) (own : Prop), (s.maps.wf = true) ∧ (q.pc < 512) ∧ (q.line < 6291456) ∧ (s.reqOk q.pc q = true) ∧ (∀ (y :
      HbmReq), y ∈ s.hbmWait → y.pc ≠ q.pc) ∧ (∀ (p : Nat), s.reqPart q = some p → p < 8) ∧ (own ↔ (rtState (s.rt (q.blk / 64)) = 2 ∨
      rtState (s.rt (q.blk / 64)) = 3) ∧ rtTier (s.rt (q.blk / 64)) = 2 ∧ rtFrame (s.rt (q.blk / 64)) = granuleAt s.removedPc q.pc q.line /
      1024) ∧ (s.pcState q.pc = 3) ∧ (own) ∧ (q.op ≠ HbmOp.read ∨ s.frames = [])) ∧
    (∃ (s : State) (p blk sectors : Nat) (bad : Bool) (x : PartRec), (s.maps.wf = true) ∧ (p < 8) ∧ (sectors ≤ 128) ∧ (s.part p = some x)
      ∧ (x.owns (blk / 64) = true) ∧ (rtState (s.rt (blk / 64)) ≠ 0) ∧ (s.hbmWait = []) ∧ (∀ (g : Nat × Nat), g ∈ s.blockPlaces blk → g.fst
      < 512 ∧ s.pcState g.fst = 0) ∧ (∀ (q : Nat), s.pageOwner (blk / 64) = some q → q < 8)) ∧
    (∃ (s : State) (pc line : Nat) (errs : List WordErr), (s.maps.wf = true) ∧ (pc < 512) ∧ (line < 6291456) ∧ (s.pcState pc ≠ 0 ∨ s.rd
      7377160 0 0 = 1)) ∧
    (∃ (s : State) (pc line : Nat) (errs : List WordErr), (s.maps.wf = true) ∧ (pc < 512) ∧ (line < 6291456) ∧ (s.pcState pc = 0) ∧ (s.rd
      7377160 0 0 = 0) ∧ (∃ q, q ∈ s.hbmWait ∧ q.pc = pc)) ∧
    (∃ (s : State) (pc line : Nat) (errs : List WordErr), (s.maps.wf = true) ∧ (pc < 512) ∧ (line < 6291456) ∧ (s.pcState pc = 0) ∧ (s.rd
      7377160 0 0 = 0) ∧ (∀ (q : HbmReq), q ∈ s.hbmWait → q.pc ≠ pc) ∧ (errs = [])) :=
  ⟨⟨gMem, 497, [hbmReq .read []], [hbmReq .read []], [hbmReq .read []], by decide +kernel⟩,
   ⟨urgent, 497, [hbmFrom .host 2], [hbmFrom .narrow 0, hbmFrom .firmware 1, hbmFrom .host 2], [hbmFrom .narrow 0, hbmFrom .firmware 1,
     hbmFrom .host 2], by decide +kernel⟩,
   ⟨(pcIn 497 3 gMem), 497, [hbmReq .read [], { hbmReq .read [] with pc := 496 }], [hbmReq .read []], [hbmReq .read []],
     by decide +kernel⟩,
   ⟨(holdReqs 127 (pcIn 497 1 gMem)), (hbmReq .read []), True, by decide +kernel⟩,
   ⟨(holdReqs 128 (pcIn 497 2 gMem)), (hbmReq .read []), True, by decide +kernel⟩,
   ⟨gMem, (hbmReq .update []), True, by decide +kernel⟩,
   ⟨(rowKnown { pc := 497, row := 0, corr := 2 } (limits gMem)), (hbmReq .read [⟨7, false⟩]), True, 7, by decide +kernel⟩,
   ⟨(limits gMem), (hbmReq .update [⟨0, false⟩]), True, 0, by decide +kernel⟩,
   ⟨(pcKnown { pc := 497, uncorr := 254 } gMem), (hbmReq .read [⟨3, true⟩]), True, 3, by decide +kernel⟩,
   ⟨intoHbm, (hbmReq .update [⟨3, true⟩]), False, 3, by decide +kernel⟩,
   ⟨(pcIn 497 3 gMem), (hbmReq .write []), True, by decide +kernel⟩,
   ⟨gMem, 0, 63, 128, true, { p := 0, dies := [0], spanPages := 16, hbmFrames := 100, quota := 8, codecCores := 1, codecBufs := 64 },
     by decide +kernel⟩,
   ⟨(pcIn 511 2 gMem), 511, 6291455, [], by decide +kernel⟩,
   ⟨urgent, 497, 6291455, [⟨1, true⟩], by decide +kernel⟩,
   ⟨gMem, 511, 6291455, [], by decide +kernel⟩⟩

theorem test_witness_HbmChannelsRetrainRepairFail :
    (∃ (s : State) (pc : Nat) (cause : RetrainCause), (s.maps.wf = true) ∧ (pc < 512) ∧ (s.pcState pc = 0) ∧ (s.stackQuiet pc = true) ∧
      (s.retrainDue pc cause = true) ∧ (s.lowerDue pc = false) ∧ (s.repairFirst pc = false)) ∧
    (∃ (s : State) (pc : Nat) (cause : RetrainCause), (s.maps.wf = true) ∧ (pc < 512) ∧ (s.pcState pc ≠ 0 ∨ s.stackQuiet pc = false ∨
      s.retrainDue pc cause = false ∨ s.lowerDue pc = true ∨ s.repairFirst pc = true)) ∧
    (∃ (s : State) (pc clocks : Nat) (ok : Bool), (s.maps.wf = true) ∧ (pc < 512) ∧ (s.pcState pc = 1) ∧ (s.dying = false) ∧ (∀ (q :
      HbmReq), q ∈ s.hbmHold → q.pc ≠ pc)) ∧
    (∃ (s : State) (pc clocks : Nat) (ok : Bool), (s.maps.wf = true) ∧ (pc < 512) ∧ (s.pcState pc = 1) ∧ (s.dying = false) ∧ (∀ (q :
      HbmReq), q ∈ s.hbmHold → q.pc ≠ pc)) ∧
    (∃ (s : State) (pc clocks : Nat) (ok : Bool), (s.maps.wf = true) ∧ (pc < 512) ∧ (s.pcState pc = 1)) ∧
    (∃ (s : State) (pc clocks : Nat) (ok : Bool), (s.maps.wf = true) ∧ (pc < 512) ∧ (s.pcState pc = 1)) ∧
    (∃ (s : State) (pc : Nat), (s.maps.wf = true) ∧ (pc < 512) ∧ (s.answers 3145748 = true) ∧ (s.hbmDue ≠ [])) ∧
    (∃ (s : State) (pc row : Nat), (s.maps.wf = true) ∧ (pc < 512) ∧ (row < 1572864) ∧ (s.pcState pc = 0) ∧ (s.stackQuiet pc = true) ∧
      (s.firstDue (pc % 8) = some (pc, row)) ∧ (s.rd 3145736 48 48 = 1 → s.rd 3145748 0 0 = 1) ∧ (s.rd 7377160 0 0 = 0) ∧ (s.repairsLeft pc
      ≠ 0) ∧ (¬row % 16 ∈ (s.pcRec pc).used)) ∧
    (∃ (s : State) (pc row : Nat), (s.maps.wf = true) ∧ (pc < 512) ∧ (row < 1572864) ∧ (s.pcState pc = 0) ∧ (s.stackQuiet pc = true) ∧
      (s.firstDue (pc % 8) = some (pc, row)) ∧ (s.rd 3145736 48 48 = 1 → s.rd 3145748 0 0 = 1) ∧ (s.rd 7377160 0 0 = 0) ∧ (s.repairsLeft pc
      = 0 ∨ row % 16 ∈ (s.pcRec pc).used)) ∧
    (∃ (s : State) (pc row clocks : Nat), (s.maps.wf = true) ∧ (pc < 512) ∧ (s.pcState pc = 2) ∧ (s.dying = false) ∧ ((s.pcRec
      pc).repairing = some row) ∧ ((s.pcRec pc).uncorr < 256 ∨ 1 < s.repairsLeft pc) ∧ (∀ (q : HbmReq), q ∈ s.hbmHold → q.pc ≠ pc)) ∧
    (∃ (s : State) (pc row clocks : Nat) (errs : List WordErr), (s.maps.wf = true) ∧ (pc < 512) ∧ (s.pcState pc = 2) ∧ (s.dying = false) ∧
      ((s.pcRec pc).repairing = some row) ∧ (s.frames = [])) ∧
    (∃ (s : State) (pc : Nat), (s.maps.wf = true) ∧ (pc < 512) ∧ (s.pcState pc ≠ 3) ∧ (s.pcState pc ≠ 4) ∧ (s.dying = false) ∧ (∀ (q :
      HbmReq), q ∈ s.hbmHold → q.pc ≠ pc)) ∧
    (∃ (s : State) (pc : Nat), (s.maps.wf = true) ∧ (pc < 512) ∧ (s.pcState pc = 3 ∨ s.pcState pc = 4)) :=
  ⟨⟨(pcKnown { pc := 497, corr := 3 } (limits gMem)), 497, .errors, by decide +kernel⟩,
   ⟨(pcIn 505 2 (pcKnown { pc := 497, corr := 3 } (limits gMem))), 497, .errors, by decide +kernel⟩,
   ⟨(pcKnown { pc := 497, fails := 2 } (pcIn 497 1 gMem)), 497, 9, false, by decide +kernel⟩,
   ⟨(pcKnown { pc := 497, fails := 2 } (pcIn 497 1 gMem)), 497, 9, true, by decide +kernel⟩,
   ⟨(holdReqs 3 (pcIn 497 1 gMem)), 497, 9, true, by decide +kernel⟩,
   ⟨(dying (holdReqs 3 (pcIn 497 1 gMem))), 497, 9, true, by decide +kernel⟩,
   ⟨(dueRow 497 0 gMem), 497, by decide +kernel⟩,
   ⟨(spares 16 (dueRow 497 0 gMem)), 497, 0, by decide +kernel⟩,
   ⟨(spares 0 (dueRow 497 0 gMem)), 497, 0, by decide +kernel⟩,
   ⟨(spares 1 (pcKnown { pc := 497, repairing := some 0 } (pcIn 497 2 (dueRow 497 0 gMem)))), 497, 0, 70, by decide +kernel⟩,
   ⟨(spares 1 (pcKnown { pc := 497, repairing := some 0 } (pcIn 497 2 (dueRow 497 0 gMem)))), 497, 0, 70, [⟨63, true⟩], by decide +kernel⟩,
   ⟨(dueRow 497 0 (pcIn 497 1 gMem)), 497, by decide +kernel⟩,
   ⟨(pcIn 511 4 gMem), 511, by decide +kernel⟩⟩

theorem test_witness_ControlCoreFaultsRestartOrEndTheModule :
    (∃ (s : State) (core : Nat) (exc : Bool) (waiting pages : List Nat), (s.maps.wf = true) ∧ (core < 8) ∧ (s.fatal = false) ∧ (s.dying =
      false) ∧ (s.boot = BootPhase.firmware)) ∧
    (∃ (s : State) (core : Nat) (exc : Bool), (s.maps.wf = true) ∧ (core < 8) ∧ (s.fatal = false) ∧ (s.dying = false) ∧ (s.boot =
      BootPhase.firmware)) ∧
    (∃ (s : State) (core : Nat) (exc : Bool) (tid : Nat) (x : TaskRec), (s.maps.wf = true) ∧ (core < 8) ∧ (s.fatal = false) ∧ (s.dying =
      false) ∧ (s.boot = BootPhase.firmware) ∧ (s.task tid = some x) ∧ (x.phase ≠ TPhase.done) ∧ (x.phase ≠ TPhase.ended) ∧ (1 ≤
      x.coreFaults ∨ x.oneShot = true)) ∧
    (∃ (s : State) (core : Nat) (exc : Bool) (tid : Nat) (x : TaskRec), (s.maps.wf = true) ∧ (core < 8) ∧ (s.fatal = false) ∧ (s.dying =
      false) ∧ (s.boot = BootPhase.firmware) ∧ (s.task tid = some x) ∧ (x.phase ≠ TPhase.done) ∧ (x.phase ≠ TPhase.running) ∧ (x.coreFaults
      = 0) ∧ (x.oneShot = false) ∧ (x.p < 8)) ∧
    (∃ (s : State) (core : Nat) (exc : Bool) (m : MigRec), (s.maps.wf = true) ∧ (core < 8) ∧ (s.fatal = false) ∧ (s.dying = false) ∧
      (s.boot = BootPhase.firmware) ∧ (m ∈ s.migs)) ∧
    (∃ (s : State) (core : Nat) (exc : Bool), (s.maps.wf = true) ∧ (core < 8) ∧ (s.fatal = false) ∧ (s.dying = false)) ∧
    (∃ (s : State) (core : Nat) (exc : Bool), (s.maps.wf = true) ∧ (core < 8) ∧ (s.fatal = false) ∧ (s.dying = false) ∧ (s.restarting core
      = true)) ∧
    (∃ (s : State) (core : Nat) (exc : Bool), (s.maps.wf = true) ∧ (core < 8) ∧ (s.fatal = false) ∧ (s.dying = false) ∧ (s.restarting core
      = false)) :=
  ⟨⟨up, 7, true, [0], [0], by decide +kernel⟩,
   ⟨up, 7, false, by decide +kernel⟩,
   ⟨(inRun oneFault), 0, true, 0, oneFault, by decide +kernel⟩,
   ⟨(inRun wait0), 0, true, 0, wait0, by decide +kernel⟩,
   ⟨(moving [1]), 0, true, (moveOf [1]), by decide +kernel⟩,
   ⟨restart7, 7, true, by decide +kernel⟩,
   ⟨restart7, 7, true, by decide +kernel⟩,
   ⟨restart7, 0, true, by decide +kernel⟩⟩

theorem test_witness_ArrivingBlocksAreCheckedAndFoulsRepeat :
    (∃ (s : State) (tid uid blk : Nat) (bad : Bool) (x : TaskRec) (u : UnitRec) (c : Nat), (s.maps.wf = true) ∧ (s.task tid = some x) ∧
      (x.p < 8) ∧ (x.unit uid = some u) ∧ (u.phase = UPhase.issued ∨ u.phase = UPhase.summed) ∧ (x.f 0 1 ≤ 1) ∧ (¬blk ∈ u.arrived) ∧ (blk ∈
      s.unitNeeds x u) ∧ (x.phase = TPhase.running) ∧ (c = (s.foulPath x.p blk (s.gathered x u blk)).fst) ∧ (s.lost blk = false) ∧
      (s.readable (blk / 64) = false)) ∧
    (∃ (s : State) (tid uid blk : Nat) (bad : Bool) (x : TaskRec) (u : UnitRec) (c : Nat) (seen : Bool), (s.maps.wf = true) ∧ (s.task tid
      = some x) ∧ (x.p < 8) ∧ (x.unit uid = some u) ∧ (u.phase = UPhase.issued ∨ u.phase = UPhase.summed) ∧ (x.f 0 1 ≤ 1) ∧ (¬blk ∈
      u.arrived) ∧ (blk ∈ s.unitNeeds x u) ∧ (x.phase = TPhase.running) ∧ (c = (s.foulPath x.p blk (s.gathered x u blk)).fst) ∧ (s.lost blk
      = false) ∧ (s.readable (blk / 64) = true) ∧ ((bad || s.crcBad blk) = false) ∧ (seen = x.slices.any fun y => y.die == u.die &&
      y.seen.contains blk)) ∧
    (∃ (s : State) (tid uid blk : Nat) (bad : Bool) (x : TaskRec) (u : UnitRec) (c : Nat) (seen : Bool), (s.maps.wf = true) ∧ (s.task tid
      = some x) ∧ (x.p < 8) ∧ (x.unit uid = some u) ∧ (u.phase = UPhase.issued ∨ u.phase = UPhase.summed) ∧ (x.f 0 1 ≤ 1) ∧ (¬blk ∈
      u.arrived) ∧ (blk ∈ s.unitNeeds x u) ∧ (x.phase = TPhase.running) ∧ (c = (s.foulPath x.p blk (s.gathered x u blk)).fst) ∧ (s.lost blk
      = false) ∧ (s.readable (blk / 64) = true) ∧ ((bad || s.crcBad blk) = false) ∧ (seen = x.slices.any fun y => y.die == u.die &&
      y.seen.contains blk)) ∧
    (∃ (s : State) (tid uid blk : Nat) (bad : Bool) (x : TaskRec) (u : UnitRec) (c : Nat), (s.maps.wf = true) ∧ (s.task tid = some x) ∧
      (x.p < 8) ∧ (x.unit uid = some u) ∧ (u.phase = UPhase.issued ∨ u.phase = UPhase.summed) ∧ (x.f 0 1 ≤ 1) ∧ (¬blk ∈ u.arrived) ∧ (blk ∈
      s.unitNeeds x u) ∧ (x.phase = TPhase.running) ∧ (c = (s.foulPath x.p blk (s.gathered x u blk)).fst) ∧ (s.lost blk = false) ∧
      (s.readable (blk / 64) = true) ∧ ((bad || s.crcBad blk) = true)) ∧
    (∃ (s : State) (tid uid blk : Nat) (bad : Bool) (x : TaskRec) (u : UnitRec) (c : Nat), (s.maps.wf = true) ∧ (s.task tid = some x) ∧
      (x.p < 8) ∧ (x.unit uid = some u) ∧ (u.phase = UPhase.issued ∨ u.phase = UPhase.summed) ∧ (x.f 0 1 ≤ 1) ∧ (¬blk ∈ u.arrived) ∧ (blk ∈
      s.unitNeeds x u) ∧ (x.phase = TPhase.running) ∧ (c = (s.foulPath x.p blk (s.gathered x u blk)).fst) ∧ (s.lost blk = false) ∧
      (s.readable (blk / 64) = true) ∧ ((bad || s.crcBad blk) = true)) ∧
    (∃ (s : State) (tid uid blk : Nat) (bad : Bool) (x : TaskRec) (u : UnitRec) (c : Nat), (s.maps.wf = true) ∧ (s.task tid = some x) ∧
      (x.p < 8) ∧ (x.unit uid = some u) ∧ (u.phase = UPhase.issued ∨ u.phase = UPhase.summed) ∧ (x.f 0 1 ≤ 1) ∧ (¬blk ∈ u.arrived) ∧ (blk ∈
      s.unitNeeds x u) ∧ (x.phase = TPhase.running) ∧ (c = (s.foulPath x.p blk (s.gathered x u blk)).fst) ∧ (s.lost blk = true) ∧
      (s.recoverable blk = none) ∧ (s.blockQuiesced blk = false)) ∧
    (∃ (s : State) (tid uid blk : Nat) (bad : Bool) (x : TaskRec) (u : UnitRec) (c : Nat) (h : KvHold), (s.maps.wf = true) ∧ (s.task tid =
      some x) ∧ (x.p < 8) ∧ (x.unit uid = some u) ∧ (u.phase = UPhase.issued ∨ u.phase = UPhase.summed) ∧ (x.f 0 1 ≤ 1) ∧ (¬blk ∈ u.arrived)
      ∧ (blk ∈ s.unitNeeds x u) ∧ (x.phase = TPhase.running) ∧ (c = (s.foulPath x.p blk (s.gathered x u blk)).fst) ∧ (s.lost blk = true) ∧
      (s.recoverable blk = some h) ∧ (s.blockQuiesced blk = false)) ∧
    (∃ (s : State) (tid uid blk : Nat) (bad : Bool) (x : TaskRec) (u : UnitRec), (s.maps.wf = true) ∧ (s.task tid = some x) ∧ (x.p < 8) ∧
      (x.unit uid = some u) ∧ (blk ∈ u.arrived ∨ ¬blk ∈ s.unitNeeds x u)) ∧
    (∃ (s : State) (tid uid blk : Nat) (bad : Bool) (x : TaskRec) (c : Nat), (s.maps.wf = true) ∧ (s.task tid = some x) ∧ (x.p < 8) ∧
      (x.unit uid = none) ∧ (x.phase = TPhase.ready) ∧ (x.f 0 1 = 2 ∨ x.f 0 1 = 3) ∧ (blk ∈ s.stepNeeds x) ∧ (c = (s.foulPath x.p blk
      (s.wordBlock x blk)).fst) ∧ (s.lost blk = true) ∧ (s.recoverable blk = none) ∧ (s.blockQuiesced blk = false)) ∧
    (∃ (s : State) (tid uid blk : Nat) (bad : Bool) (x : TaskRec) (c : Nat), (s.maps.wf = true) ∧ (s.task tid = some x) ∧ (x.p < 8) ∧
      (x.unit uid = none) ∧ (x.phase = TPhase.ready) ∧ (x.f 0 1 = 2 ∨ x.f 0 1 = 3) ∧ (blk ∈ s.stepNeeds x) ∧ (c = (s.foulPath x.p blk
      (s.wordBlock x blk)).fst) ∧ (s.lost blk = false) ∧ ((bad || s.crcBad blk) = false)) ∧
    (∃ (s : State) (tid uid blk : Nat) (bad : Bool) (x : TaskRec) (c : Nat), (s.maps.wf = true) ∧ (s.task tid = some x) ∧ (x.p < 8) ∧
      (x.unit uid = none) ∧ (x.phase = TPhase.ready) ∧ (x.f 0 1 = 2 ∨ x.f 0 1 = 3) ∧ (blk ∈ s.stepNeeds x) ∧ (c = (s.foulPath x.p blk
      (s.wordBlock x blk)).fst) ∧ (s.lost blk = false) ∧ (s.readable (blk / 64) = true) ∧ ((bad || s.crcBad blk) = true)) ∧
    (∃ (s : State) (tid uid blk : Nat) (bad : Bool) (x : TaskRec) (u : UnitRec), (s.maps.wf = true) ∧ (s.task tid = some x) ∧ (x.p < 8) ∧
      (x.unit uid = some u) ∧ (u.phase ≠ UPhase.failed) ∧ (s.lost blk = true) ∧ (s.blockQuiesced blk = true)) ∧
    (∃ (s : State) (tid uid blk : Nat) (bad : Bool) (x : TaskRec) (u : UnitRec) (c : Nat), (s.maps.wf = true) ∧ (s.task tid = some x) ∧
      (x.p < 8) ∧ (x.unit uid = some u) ∧ (u.phase = UPhase.failed) ∧ (u.why = 9) ∧ (¬blk ∈ u.arrived) ∧ (blk ∈ s.unitNeeds x u) ∧
      (s.readable (blk / 64) = true) ∧ (bad = true) ∧ (c = (s.foulPath x.p blk (s.gathered x u blk)).fst)) :=
  ⟨⟨(inHost (inRun (prodIn [] [uIssued]))), 0, 0, 2, false, (prodIn [] [uIssued]), uIssued, ((inHost (inRun (prodIn []
     [uIssued]))).foulPath 0 2 false).1, by decide +kernel⟩,
   ⟨(inRun (prodIn [] [uIssued])), 0, 0, 2, false, (prodIn [] [uIssued]), uIssued, ((inRun (prodIn [] [uIssued])).foulPath 0 2 false).1,
     false, by decide +kernel⟩,
   ⟨(inRun (prodIn [] [uIssued])), 0, 0, 3, false, (prodIn [] [uIssued]), uIssued, ((inRun (prodIn [] [uIssued])).foulPath 0 3 false).1,
     false, by decide +kernel⟩,
   ⟨(inRun (prodIn [] [uIssuedF 2])), 0, 0, 3, true, (prodIn [] [uIssuedF 2]), (uIssuedF 2), ((inRun (prodIn [] [uIssuedF 2])).foulPath 0
     3 false).1, by decide +kernel⟩,
   ⟨(inRun (prodIn [] [uIssuedF 1])), 0, 0, 3, true, (prodIn [] [uIssuedF 1]), (uIssuedF 1), ((inRun (prodIn [] [uIssuedF 1])).foulPath 0
     3 false).1, by decide +kernel⟩,
   ⟨(lost2 (inRun (prodIn [] [uIssued]))), 0, 0, 2, false, (prodIn [] [uIssued]), uIssued, ((lost2 (inRun (prodIn [] [uIssued]))).foulPath
     0 2 false).1, by decide +kernel⟩,
   ⟨lostKv, 0, 0, 20, false, prodKv, uIssued, (lostKv.foulPath 0 20 false).1, { entry := 0x10300, record := 0x10100, pool := 0x10000 },
     by decide +kernel⟩,
   ⟨(inRun (prodIn [] [unitIn .issued])), 0, 0, 2, true, (prodIn [] [unitIn .issued]), (unitIn .issued), by decide +kernel⟩,
   ⟨(lost2 (jobRun (cvJob []))), 0, 0, 2, false, (cvJob []), ((lost2 (jobRun (cvJob []))).foulPath 0 2 false).1, by decide +kernel⟩,
   ⟨(jobRun (cvJob [])), 0, 0, 2, false, (cvJob []), ((jobRun (cvJob [])).foulPath 0 2 false).1, by decide +kernel⟩,
   ⟨(jobRun (cvJob [])), 0, 0, 2, true, (cvJob []), ((jobRun (cvJob [])).foulPath 0 2 false).1, by decide +kernel⟩,
   ⟨((lost2 (inRun (prodIn [] [uIssued]))).setFld (Addr.hbmPc 32 0) 3 0 2), 0, 0, 2, false, (prodIn [] [uIssued]), uIssued,
     by decide +kernel⟩,
   ⟨(inRun (prodIn [] [{ uIssued with phase := .failed, why := 9 }])), 0, 0, 3, true, (prodIn []
     [{ uIssued with phase := .failed, why := 9 }]), { uIssued with phase := .failed, why := 9 }, ((inRun (prodIn []
     [{ uIssued with phase := .failed, why := 9 }])).foulPath 0 3 false).1, by decide +kernel⟩⟩

theorem test_witness_StartsWaitForEveryMember :
    (∃ (s : State) (tid : Nat) (x : TaskRec) (r : StartRec), (s.memGood) ∧ (s.CanStep x (rngBlocks x.listReads) []) ∧ (s.maps.wf = true) ∧
      (s.task tid = some x) ∧ (x.isKind 5 32 = true) ∧ (s.mayRun x = true) ∧ (s.groupBusy x = false) ∧ (∀ (y : StartRec), y ∈ s.starts →
      y.tid ≠ tid) ∧ (∀ (m : StartMsg), m ∈ s.startMsgs → ¬(m.p = x.p ∧ m.group = x.f 32 2 ∧ m.seq = x.f 36 4)) ∧ (r =
      { tid := tid, group := x.f 32 2, seq := x.f 36 4, p := x.p, method := s.rd (Addr.syn x.p 0) 0 0, list := s.memberList x }) ∧ (s.listOk
      x = false ∨ x.zeros 56 64 = false)) ∧
    (∃ (s : State) (tid : Nat) (x : TaskRec) (r : StartRec), (s.memGood) ∧ (s.CanStep x (rngBlocks x.listReads) []) ∧ (s.maps.wf = true) ∧
      (s.task tid = some x) ∧ (x.isKind 5 32 = true) ∧ (s.mayRun x = true) ∧ (s.groupBusy x = false) ∧ (∀ (y : StartRec), y ∈ s.starts →
      y.tid ≠ tid) ∧ (∀ (m : StartMsg), m ∈ s.startMsgs → ¬(m.p = x.p ∧ m.group = x.f 32 2 ∧ m.seq = x.f 36 4)) ∧ (r =
      { tid := tid, group := x.f 32 2, seq := x.f 36 4, p := x.p, method := s.rd (Addr.syn x.p 0) 0 0, list := s.memberList x }) ∧ (s.listOk
      x = true) ∧ (x.zeros 56 64 = true) ∧ (s.isRoot r = false) ∧ (r.method = 0)) ∧
    (∃ (s : State) (tid : Nat) (x : TaskRec) (r : StartRec), (s.memGood) ∧ (s.CanStep x (rngBlocks x.listReads) []) ∧ (s.maps.wf = true) ∧
      (s.task tid = some x) ∧ (x.isKind 5 32 = true) ∧ (s.mayRun x = true) ∧ (s.groupBusy x = false) ∧ (∀ (y : StartRec), y ∈ s.starts →
      y.tid ≠ tid) ∧ (∀ (m : StartMsg), m ∈ s.startMsgs → ¬(m.p = x.p ∧ m.group = x.f 32 2 ∧ m.seq = x.f 36 4)) ∧ (r =
      { tid := tid, group := x.f 32 2, seq := x.f 36 4, p := x.p, method := s.rd (Addr.syn x.p 0) 0 0, list := s.memberList x }) ∧ (s.listOk
      x = true) ∧ (x.zeros 56 64 = true) ∧ (s.isRoot r = true) ∧ (r.method = 0 ∨ x.f 40 8 = 0)) ∧
    (∃ (s : State) (m : StartMsg) (r : StartRec) (x : TaskRec), (s.maps.wf = true) ∧ (m.p < 8) ∧ (s.startFor m = some r) ∧ (s.task r.tid =
      some x) ∧ (x.phase = TPhase.running) ∧ (m.kind = StartKind.withdrawal)) ∧
    (∃ (s : State) (m : StartMsg) (r : StartRec) (x : TaskRec), (s.maps.wf = true) ∧ (m.p < 8) ∧ (s.startFor m = some r) ∧ (s.task r.tid =
      some x) ∧ (x.phase = TPhase.running) ∧ (m.kind ≠ StartKind.withdrawal) ∧ (m.method ≠ r.method ∨ m.list ≠ r.list)) ∧
    (∃ (s : State) (m : StartMsg) (r : StartRec) (x : TaskRec), (s.maps.wf = true) ∧ (m.p < 8) ∧ (s.startFor m = some r) ∧ (s.task r.tid =
      some x) ∧ (x.phase = TPhase.running) ∧ (m.method = r.method) ∧ (m.list = r.list) ∧ (m.kind = StartKind.release) ∧ (r.method = 0)) ∧
    (∃ (s : State) (m : StartMsg) (r : StartRec) (x : TaskRec), (s.maps.wf = true) ∧ (m.p < 8) ∧ (s.startFor m = some r) ∧ (s.task r.tid =
      some x) ∧ (x.phase = TPhase.running) ∧ (m.method = r.method) ∧ (m.list = r.list) ∧ (m.kind = StartKind.arrival) ∧ (s.isRoot r = true)
      ∧ (m.sender ∈ r.list) ∧ ((List.filter (fun a => a.fst != m.sender) r.arrivals).length + 1 < r.list.length)) ∧
    (∃ (s : State) (m : StartMsg) (r : StartRec) (x : TaskRec), (s.maps.wf = true) ∧ (m.p < 8) ∧ (s.startFor m = some r) ∧ (s.task r.tid =
      some x) ∧ (x.phase = TPhase.running) ∧ (m.method = r.method) ∧ (m.list = r.list) ∧ (m.kind = StartKind.arrival) ∧ (s.isRoot r = true)
      ∧ (m.sender ∈ r.list) ∧ (r.list.length ≤ (List.filter (fun a => a.fst != m.sender) r.arrivals).length + 1) ∧ (r.method = 0)) ∧
    (∃ (s : State) (m : StartMsg) (r : StartRec) (x : TaskRec), (s.maps.wf = true) ∧ (m.p < 8) ∧ (s.startFor m = some r) ∧ (s.task r.tid =
      some x) ∧ (x.phase = TPhase.running) ∧ (m.method = r.method) ∧ (m.list = r.list) ∧ (m.kind = StartKind.count) ∧ (r.method = 1) ∧
      (m.count < s.gcount)) ∧
    (∃ (s : State) (m : StartMsg) (r : StartRec) (x : TaskRec), (s.maps.wf = true) ∧ (m.p < 8) ∧ (s.startFor m = some r) ∧ (s.task r.tid =
      some x) ∧ (x.phase = TPhase.running) ∧ (m.method = r.method) ∧ (m.list = r.list) ∧ (m.kind = StartKind.count) ∧ (r.method = 1) ∧
      (s.gcount ≤ m.count)) ∧
    (∃ (s : State) (m : StartMsg), (m.p < 8) ∧ (s.startFor m = none) ∧ (s.collFor m = none)) ∧
    (∃ (s : State) (r : StartRec) (x : TaskRec) (c : Nat), (s.maps.wf = true) ∧ (List.find? (fun y => y.tid == r.tid) s.starts = some r) ∧
      (r.target = some c) ∧ (c < pow2 64) ∧ (s.gcount ≤ c) ∧ (s.task r.tid = some x) ∧ (x.phase = TPhase.running)) ∧
    (∃ (s : State) (r : StartRec) (x : TaskRec), (s.maps.wf = true) ∧ (List.find? (fun y => y.tid == r.tid) s.starts = some r) ∧ (s.task
      r.tid = some x) ∧ (x.phase = TPhase.running)) :=
  ⟨⟨(stMem 0 0 (stJob .ready 2)), 0, (stJob .ready 2), (stRec 0 [0, 0]), memGood_of_side rfl, canStep_of (by decide +kernel),
     by decide +kernel⟩,
   ⟨(stMem 65537 0 (stJob .ready 2)), 0, (stJob .ready 2), (stRec 0 [65537, 0]), memGood_of_side rfl, canStep_of (by decide +kernel),
     by decide +kernel⟩,
   ⟨(stMem 0 1 (stJob .ready 2)), 0, (stJob .ready 2), (stRec 0 [0, 1]), memGood_of_side rfl, canStep_of (by decide +kernel),
     by decide +kernel⟩,
   ⟨(stRun (stRec 0 [0, 1])), (stMsg .withdrawal 1 0 []), (stRec 0 [0, 1]), (stJob .running 2), by decide +kernel⟩,
   ⟨(stRun (stRec 0 [0, 1])), (stMsg .arrival 0 0 [0, 2]), (stRec 0 [0, 1]), (stJob .running 2), by decide +kernel⟩,
   ⟨(stRun (stRec 0 [1, 0])), (stMsg .release 0 0 [1, 0]), (stRec 0 [1, 0]), (stJob .running 2), by decide +kernel⟩,
   ⟨(stRun (stRec 0 [0, 1, 2])), (stMsg .arrival 0 4 [0, 1, 2]), (stRec 0 [0, 1, 2]), (stJob .running 2), by decide +kernel⟩,
   ⟨(stRun arrived1), (stMsg .arrival 0 4 [0, 1]), arrived1, (stJob .running 2), by decide +kernel⟩,
   ⟨(gc 5 (stRun (stRec 1 [1, 0]))), (stMsg .count 1 4 [1, 0]), (stRec 1 [1, 0]), (stJob .running 2), by decide +kernel⟩,
   ⟨(gc 4 (stRun (stRec 1 [1, 0]))), (stMsg .count 1 4 [1, 0]), (stRec 1 [1, 0]), (stJob .running 2), by decide +kernel⟩,
   ⟨up, (stMsg .arrival 0 4 [0, 1]), by decide +kernel⟩,
   ⟨(gc 4 (stRun (aimed 1 [1, 0] 4))), (aimed 1 [1, 0] 4), (stJob .running 2), 4, by decide +kernel⟩,
   ⟨(stRun (stRec 0 [0, 1])), (stRec 0 [0, 1]), (stJob .running 2), by decide +kernel⟩⟩

theorem test_witness_FrameTickClosesTheFrame :
    (∃ (s : State) (env : TickEnv), (s.maps.wf = true) ∧ (env.dieTemps.length = 20) ∧ (env.stackTemps.length = 8) ∧ (∀ (w : StallWait), w
      ∈ env.waits → w.d < 8) ∧ (∀ (x : Nat × Nat), x ∈ env.cqFull → x.fst < 8) ∧ (s.boot ≠ BootPhase.firmware ∨ s.ready = false ∧ s.held =
      false ∨ s.tickDue env.clocks = false)) ∧
    (∃ (s : State) (env : TickEnv), (s.maps.wf = true) ∧ (env.dieTemps.length = 20) ∧ (env.stackTemps.length = 8) ∧ (∀ (w : StallWait), w
      ∈ env.waits → w.d < 8) ∧ (∀ (x : Nat × Nat), x ∈ env.cqFull → x.fst < 8) ∧ (s.boot = BootPhase.firmware) ∧ (s.ready = true ∨ s.held =
      true) ∧ (s.tickDue env.clocks = true)) ∧
    (∃ (s : State) (env : TickEnv), (s.maps.wf = true) ∧ (env.dieTemps.length = 20) ∧ (env.stackTemps.length = 8) ∧ (∀ (w : StallWait), w
      ∈ env.waits → w.d < 8) ∧ (∀ (x : Nat × Nat), x ∈ env.cqFull → x.fst < 8) ∧ (s.boot = BootPhase.firmware) ∧ (s.ready = true ∨ s.held =
      true) ∧ (s.tickDue env.clocks = true)) ∧
    (∃ (s : State) (env : TickEnv), (s.maps.wf = true) ∧ (env.dieTemps.length = 20) ∧ (env.stackTemps.length = 8) ∧ (∀ (w : StallWait), w
      ∈ env.waits → w.d < 8) ∧ (∀ (x : Nat × Nat), x ∈ env.cqFull → x.fst < 8) ∧ (s.boot = BootPhase.firmware) ∧ (s.ready = true ∨ s.held =
      true) ∧ (s.tickDue env.clocks = true)) ∧
    (∃ (s : State) (env : TickEnv), (s.maps.wf = true) ∧ (env.dieTemps.length = 20) ∧ (env.stackTemps.length = 8) ∧ (∀ (w : StallWait), w
      ∈ env.waits → w.d < 8) ∧ (∀ (x : Nat × Nat), x ∈ env.cqFull → x.fst < 8) ∧ (s.boot = BootPhase.firmware) ∧ (s.ready = true ∨ s.held =
      true) ∧ (s.tickDue env.clocks = true)) ∧
    (∃ (s : State) (env : TickEnv), (s.maps.wf = true) ∧ (env.dieTemps.length = 20) ∧ (env.stackTemps.length = 8) ∧ (∀ (w : StallWait), w
      ∈ env.waits → w.d < 8) ∧ (∀ (x : Nat × Nat), x ∈ env.cqFull → x.fst < 8) ∧ (s.boot = BootPhase.firmware) ∧ (s.ready = true ∨ s.held =
      true) ∧ (s.tickDue env.clocks = true)) ∧
    (∃ (s : State) (env : TickEnv), (s.maps.wf = true) ∧ (env.dieTemps.length = 20) ∧ (env.stackTemps.length = 8) ∧ (∀ (w : StallWait), w
      ∈ env.waits → w.d < 8) ∧ (∀ (x : Nat × Nat), x ∈ env.cqFull → x.fst < 8) ∧ (s.boot ≠ BootPhase.firmware ∨ s.ready = false ∧ s.held =
      false ∨ s.tickDue env.clocks = false)) ∧
    (∃ (s : State) (env : TickEnv), (s.maps.wf = true) ∧ (env.dieTemps.length = 20) ∧ (env.stackTemps.length = 8) ∧ (∀ (w : StallWait), w
      ∈ env.waits → w.d < 8) ∧ (∀ (x : Nat × Nat), x ∈ env.cqFull → x.fst < 8) ∧ (s.boot = BootPhase.firmware) ∧ (s.ready = true ∨ s.held =
      true) ∧ (s.tickDue env.clocks = true)) ∧
    (∃ (s : State) (clocks : Nat), (s.boot = BootPhase.firmware) ∧ (s.ready = true) ∧ (s.idleAt clocks = true)) ∧
    (∃ (s : State) (clocks : Nat), (s.boot ≠ BootPhase.firmware ∨ s.ready = false ∨ s.idleAt clocks = false)) :=
  ⟨⟨fwNone, (tickEnv 20 20 0), by decide +kernel⟩,
   ⟨aged, (tickEnv 105 20 1000), by decide +kernel⟩,
   ⟨aged, (tickEnv 20 20 2000), by decide +kernel⟩,
   ⟨(second 0 0), { tickEnv 20 20 0 with clocks := 250000 }, by decide +kernel⟩,
   ⟨(second 1 (-31250)), { tickEnv 20 20 0 with clocks := 218750 }, by decide +kernel⟩,
   ⟨(second 2 0), { tickEnv 20 20 0 with clocks := 250000 }, by decide +kernel⟩,
   ⟨(second 0 0), { tickEnv 20 20 0 with clocks := 249999 }, by decide +kernel⟩,
   ⟨((heldIn aged).setFld 0x8 18 18 0), (tickEnv 105 20 1000), by decide +kernel⟩,
   ⟨ringOn, 2500000, by decide +kernel⟩,
   ⟨pRun, 0, by decide +kernel⟩⟩

theorem test_witness_TimeFollowsTheMaster :
    (∃ (s : State) (m : TimingMsg), (s.maps.wf = true) ∧ (m.port < 24) ∧ (s.follows = false ∨ s.upPort ≠ m.port ∨ s.rd (Addr.port m.port
      0) 3 0 ≠ 2)) ∧
    (∃ (s : State) (m : TimingMsg), (s.maps.wf = true) ∧ (m.port < 24) ∧ (s.follows = true) ∧ (s.upPort = m.port) ∧ (s.rd (Addr.port
      m.port 0) 3 0 = 2) ∧ (2 ≤ s.rd (Addr.port m.port 0) 44 43) ∧ (s.gcAcquired = false) ∧ (s.starts = []) ∧ (m.stamp + m.rtt / 2 < pow2
      64)) ∧
    (∃ (s : State) (m : TimingMsg), (s.maps.wf = true) ∧ (m.port < 24) ∧ (s.follows = true) ∧ (s.upPort = m.port) ∧ (s.rd (Addr.port
      m.port 0) 3 0 = 2) ∧ (2 ≤ s.rd (Addr.port m.port 0) 44 43) ∧ (s.gcAcquired = true) ∧ (s.gcAhead ≤ m.clocks) ∧ (s.gcount + (m.clocks -
      s.gcAhead) < pow2 64)) ∧
    (∃ (s : State) (clocks : Nat), (s.maps.wf = true) ∧ (s.follows = true) ∧ (s.gcAcquired = true) ∧ (s.rd (Addr.port s.upPort 0) 3 0 =
      2)) ∧
    (∃ (s : State) (e : Int), (s.maps.wf = true) ∧ (s.rd 9437216 59 58 = 1) ∧ (s.fsync.edge = none) ∧ (-↑s.period < 2 * e) ∧ (2 * e ≤
      ↑s.period) ∧ (s.fsync.relock = 0) ∧ (8 * e.natAbs ≤ s.period)) ∧
    (∃ (s : State) (e : Int), (s.maps.wf = true) ∧ (s.rd 9437216 59 58 = 1) ∧ (s.fsync.edge = none) ∧ (-↑s.period < 2 * e) ∧ (2 * e ≤
      ↑s.period) ∧ (s.fsync.relock = 0) ∧ (s.period < 8 * e.natAbs)) ∧
    (∃ (s : State) (e : Int), (s.maps.wf = true) ∧ (s.rd 9437216 59 58 ≠ 1 ∨ s.fsync.edge ≠ none ∨ 2 * e ≤ -↑s.period ∨ ↑s.period < 2 *
      e)) :=
  ⟨⟨follower, ⟨7, 0, 1000, 9, 3⟩, by decide +kernel⟩,
   ⟨follower, ⟨7, 23, 1000, 9, 3⟩, by decide +kernel⟩,
   ⟨(acquired 0), ⟨7, 23, 4, 9, 4⟩, by decide +kernel⟩,
   ⟨(acquired (-9)), 8191, by decide +kernel⟩,
   ⟨fsyncIn, 78125, by decide +kernel⟩,
   ⟨fsyncIn, (-78126), by decide +kernel⟩,
   ⟨fsyncIn, 312501, by decide +kernel⟩⟩

theorem test_witness_CodecSessionsOpenAndClose :
    (∃ (s : State) (tid : Nat) (x : TaskRec), (s.memGood) ∧ (s.maps.wf = true) ∧ (s.task tid = some x) ∧ (s.mayRun x = true) ∧
      (s.canWriteAll noDie (rngPages [x.cdRecord]) = true) ∧ (x.isKind 4 0 = true) ∧ (s.openOk x = false)) ∧
    (∃ (s : State) (tid : Nat) (x : TaskRec) (c : Instr), (s.memGood) ∧ (s.maps.wf = true) ∧ (s.task tid = some x) ∧ (s.mayRun x = true) ∧
      (s.canWriteAll noDie (rngPages [x.cdRecord]) = true) ∧ (s.session x.p x.cdSess = none) ∧ (c = Instr.codecClose tid ∧ x.isKind 4 7 =
      true ∨ c = Instr.codecResume tid ∧ x.isKind 4 6 = true ∨ c = Instr.codecKeyRequest tid ∧ x.isKind 4 3 = true ∨ c = Instr.codecRelease
      tid ∧ x.isKind 4 4 = true ∨ c = Instr.codecDecode tid true ∧ x.isKind 4 1 = true ∨ c = Instr.codecEncode tid ∧ x.isKind 4 2 = true ∨ c
      = Instr.codecFlush tid ∧ x.isKind 4 5 = true)) ∧
    (∃ (s : State) (tid : Nat) (x : TaskRec) (c : Instr), (s.memGood) ∧ (s.maps.wf = true) ∧ (s.task tid = some x) ∧ (s.mayRun x = true) ∧
      (s.canWriteAll noDie (rngPages [x.cdRecord]) = true) ∧ (s.session x.p x.cdSess = none) ∧ (c = Instr.codecClose tid ∧ x.isKind 4 7 =
      true ∨ c = Instr.codecResume tid ∧ x.isKind 4 6 = true ∨ c = Instr.codecKeyRequest tid ∧ x.isKind 4 3 = true ∨ c = Instr.codecRelease
      tid ∧ x.isKind 4 4 = true ∨ c = Instr.codecDecode tid true ∧ x.isKind 4 1 = true ∨ c = Instr.codecEncode tid ∧ x.isKind 4 2 = true ∨ c
      = Instr.codecFlush tid ∧ x.isKind 4 5 = true)) ∧
    (∃ (s : State) (tid : Nat) (x : TaskRec) (y : SessRec), (s.memGood) ∧ (s.maps.wf = true) ∧ (s.task tid = some x) ∧ (s.mayRun x = true)
      ∧ (s.canWriteAll noDie (rngPages [x.cdRecord]) = true) ∧ (s.session x.p x.cdSess = some y) ∧ (x.isKind 4 7 = true) ∧ (x.zeros 40 64 =
      true)) ∧
    (∃ (s : State) (tid : Nat) (x : TaskRec) (y : SessRec), (s.memGood) ∧ (s.maps.wf = true) ∧ (s.task tid = some x) ∧ (s.mayRun x = true)
      ∧ (s.canWriteAll noDie (rngPages [x.cdRecord]) = true) ∧ (s.session x.p x.cdSess = some y) ∧ (x.isKind 4 6 = true) ∧ (x.zeros 40 64 =
      true) ∧ (s.sessState x.cdSess = 2)) ∧
    (∃ (s : State) (tid : Nat) (x : TaskRec) (y : SessRec), (s.memGood) ∧ (s.maps.wf = true) ∧ (s.task tid = some x) ∧ (s.mayRun x = true)
      ∧ (s.canWriteAll noDie (rngPages [x.cdRecord]) = true) ∧ (s.session x.p x.cdSess = some y) ∧ (x.isKind 4 3 = true) ∧ (x.zeros 40 64 =
      true) ∧ (s.sessState x.cdSess ≠ 2) ∧ (y.encodes = true)) ∧
    (∃ (s : State) (tid : Nat) (x : TaskRec) (y : SessRec) (m : BufMark), (s.memGood) ∧ (s.maps.wf = true) ∧ (s.task tid = some x) ∧
      (s.mayRun x = true) ∧ (s.canWriteAll noDie (rngPages [x.cdRecord]) = true) ∧ (s.session x.p x.cdSess = some y) ∧ (x.isKind 4 4 = true)
      ∧ (x.zeros 42 64 = true) ∧ (y.marks[x.f 40 2]? = some m) ∧ (m.out = true)) ∧
    (∃ (s : State) (tid : Nat) (x : TaskRec) (y : SessRec) (c : Instr), (s.memGood) ∧ (s.maps.wf = true) ∧ (s.task tid = some x) ∧
      (s.mayRun x = true) ∧ (s.canWriteAll noDie (rngPages [x.cdRecord]) = true) ∧ (s.session x.p x.cdSess = some y) ∧ (c =
      Instr.codecDecode tid true ∧ x.isKind 4 1 = true ∨ c = Instr.codecEncode tid ∧ x.isKind 4 2 = true ∨ c = Instr.codecFlush tid ∧
      x.isKind 4 5 = true) ∧ (s.sessState x.cdSess = 2)) ∧
    (∃ (s : State) (tid : Nat) (x : TaskRec) (y : SessRec) (c : Instr), (s.memGood) ∧ (s.maps.wf = true) ∧ (s.task tid = some x) ∧
      (s.mayRun x = true) ∧ (s.canWriteAll noDie (rngPages [x.cdRecord]) = true) ∧ (s.session x.p x.cdSess = some y) ∧ (c =
      Instr.codecDecode tid true ∧ x.isKind 4 1 = true ∨ c = Instr.codecEncode tid ∧ x.isKind 4 2 = true ∨ c = Instr.codecFlush tid ∧
      x.isKind 4 5 = true) ∧ (s.sessState x.cdSess ≠ 2) ∧ (x.cdOk y = false)) ∧
    (∃ (s : State) (tid : Nat) (x : TaskRec) (y : SessRec), (s.memGood) ∧ (s.CanStep x (rngBlocks (x.cdReads y)) []) ∧ (s.maps.wf = true)
      ∧ (s.task tid = some x) ∧ (s.mayRun x = true) ∧ (s.canWriteAll noDie (rngPages [x.cdRecord]) = true) ∧ (s.session x.p x.cdSess = some
      y) ∧ (x.isKind 4 1 = true) ∧ (s.sessState x.cdSess ≠ 2) ∧ (x.cdOk y = true)) ∧
    (∃ (s : State) (tid : Nat) (x : TaskRec) (y : SessRec) (c : Instr), (s.memGood) ∧ (s.CanStep x (rngBlocks (x.cdReads y)) []) ∧
      (s.maps.wf = true) ∧ (s.task tid = some x) ∧ (s.mayRun x = true) ∧ (s.canWriteAll noDie (rngPages [x.cdRecord]) = true) ∧ (s.session
      x.p x.cdSess = some y) ∧ (c = Instr.codecDecode tid true ∧ x.isKind 4 1 = true ∨ c = Instr.codecEncode tid ∧ x.isKind 4 2 = true ∨ c =
      Instr.codecFlush tid ∧ x.isKind 4 5 = true) ∧ (s.sessState x.cdSess ≠ 2) ∧ (x.cdOk y = true)) ∧
    (∃ (s : State) (tid : Nat) (x : TaskRec) (y : SessRec) (c : Instr), (s.memGood) ∧ (s.CanStep x (rngBlocks (x.cdReads y)) []) ∧
      (s.maps.wf = true) ∧ (s.task tid = some x) ∧ (s.mayRun x = true) ∧ (s.canWriteAll noDie (rngPages [x.cdRecord]) = true) ∧ (s.session
      x.p x.cdSess = some y) ∧ (c = Instr.codecDecode tid true ∧ x.isKind 4 1 = true ∨ c = Instr.codecEncode tid ∧ x.isKind 4 2 = true ∨ c =
      Instr.codecFlush tid ∧ x.isKind 4 5 = true) ∧ (s.sessState x.cdSess ≠ 2) ∧ (x.cdOk y = true)) ∧
    (∃ (s : State) (tid : Nat) (x : TaskRec) (y : SessRec) (c : Instr), (s.memGood) ∧ (s.CanStep x (rngBlocks (x.cdReads y)) []) ∧
      (s.maps.wf = true) ∧ (s.task tid = some x) ∧ (s.mayRun x = true) ∧ (s.canWriteAll noDie (rngPages [x.cdRecord]) = true) ∧ (s.session
      x.p x.cdSess = some y) ∧ (c = Instr.codecDecode tid true ∧ x.isKind 4 1 = true ∨ c = Instr.codecEncode tid ∧ x.isKind 4 2 = true ∨ c =
      Instr.codecFlush tid ∧ x.isKind 4 5 = true) ∧ (s.sessState x.cdSess ≠ 2) ∧ (x.cdOk y = true)) :=
  ⟨⟨(cdMem [] 0 (openJob 1 3 [(0x28, 1, 4)])), 0, (openJob 1 3 [(0x28, 1, 4)]), memGood_of_side rfl, by decide +kernel⟩,
   ⟨(cdMem [] 0 (decJob [])), 0, (decJob []), (.codecDecode 0 true), memGood_of_side rfl, by decide +kernel⟩,
   ⟨(cdMem [] 0 (cdJob 64 7 [])), 0, (cdJob 64 7 []), (.codecClose 0), memGood_of_side rfl, by decide +kernel⟩,
   ⟨(cdMem [sess 1 [] marks4] 1 (cdJob 64 7 [])), 0, (cdJob 64 7 []), (sess 1 [] marks4), memGood_of_side rfl, by decide +kernel⟩,
   ⟨(cdMem [sess 1 [] marks4] 2 (cdJob 64 6 [])), 0, (cdJob 64 6 []), (sess 1 [] marks4), memGood_of_side rfl, by decide +kernel⟩,
   ⟨(cdMem [sess 1 [] marks4] 1 (cdJob 64 3 [])), 0, (cdJob 64 3 []), (sess 1 [] marks4), memGood_of_side rfl, by decide +kernel⟩,
   ⟨(cdMem [sess 0 [] marks4] 2 (cdJob 64 4 [(0x28, 2, 1)])), 0, (cdJob 64 4 [(0x28, 2, 1)]), (sess 0 [] marks4), { out := true },
     memGood_of_side rfl, by decide +kernel⟩,
   ⟨(cdMem [sess 0 [] marks4] 2 (decJob [])), 0, (decJob []), (sess 0 [] marks4), (.codecDecode 0 true), memGood_of_side rfl,
     by decide +kernel⟩,
   ⟨(cdMem [sess 1 [] marks4] 1 (decJob [])), 0, (decJob []), (sess 1 [] marks4), (.codecDecode 0 true), memGood_of_side rfl,
     by decide +kernel⟩,
   ⟨(cdMem [sess 0 [] marks4] 1 (decJob [])), 0, (decJob []), (sess 0 [] marks4), memGood_of_side rfl, canStep_of (by decide +kernel),
     by decide +kernel⟩,
   ⟨(cdMem [sess 0 [] marks4] 1 (decJob [])), 0, (decJob []), (sess 0 [] marks4), (.codecDecode 0 true), memGood_of_side rfl,
     canStep_of (by decide +kernel), by decide +kernel⟩,
   ⟨(cdMem [sess 1 [] marks4] 1 (encJob 2 [])), 0, (encJob 2 []), (sess 1 [] marks4), (.codecEncode 0), memGood_of_side rfl,
     canStep_of (by decide +kernel), by decide +kernel⟩,
   ⟨(cdMem [sess 1 [] marks4] 1 (encJob 5 [(0x30, 8, 0), (0x38, 4, 0)])), 0, (encJob 5 [(0x30, 8, 0), (0x38, 4, 0)]), (sess 1 [] marks4),
     (.codecFlush 0), memGood_of_side rfl, canStep_of (by decide +kernel), by decide +kernel⟩⟩

theorem test_witness_CodecPicturesUpdateTheirSession :
    (∃ (s : State) (tid : Nat) (pic : CodecPic) (x : TaskRec) (y : SessRec), (s.maps.wf = true) ∧ (s.task tid = some x) ∧ (x.p < 8) ∧
      (x.isKind 4 1 = true ∨ x.isKind 4 2 = true ∨ x.isKind 4 5 = true) ∧ (x.phase = TPhase.running) ∧ (s.session x.p x.cdSess = some y) ∧
      (s.groupCores y = [])) ∧
    (∃ (s : State) (tid : Nat) (pic : CodecPic) (x : TaskRec) (y : SessRec) (core : Nat), (s.maps.wf = true) ∧ (s.task tid = some x) ∧
      (x.p < 8) ∧ (x.isKind 4 1 = true ∨ x.isKind 4 2 = true ∨ x.isKind 4 5 = true) ∧ (x.phase = TPhase.running) ∧ (s.session x.p x.cdSess =
      some y) ∧ (s.groupCores y ≠ []) ∧ (pic.coreErr = some core) ∧ (core ∈ s.groupCores y) ∧ ((Option.map Prod.snd (List.find? (fun e =>
      e.fst == core) s.coreErrs)).getD 0 < 15) ∧ (x.retries < s.taskRetries)) ∧
    (∃ (s : State) (tid : Nat) (pic : CodecPic) (x : TaskRec) (y : SessRec) (k : Option Nat), (s.maps.wf = true) ∧ (s.task tid = some x) ∧
      (x.p < 8) ∧ (x.isKind 4 1 = true ∨ x.isKind 4 2 = true ∨ x.isKind 4 5 = true) ∧ (x.phase = TPhase.running) ∧ (s.session x.p x.cdSess =
      some y) ∧ (s.groupCores y ≠ []) ∧ (pic.coreErr = none) ∧ (pic.foul = none) ∧ (∀ (b : Nat), b ∈ x.cdInputs y pic → s.lost b = false ∧
      s.crcBad b = false ∧ s.readable (b / 64) = true) ∧ (k = if pic.takes = true then List.find? (fun i => (y.marks.getD i { }).free)
      (List.range y.marks.length) else none) ∧ (s.canWriteAll noDie (x.cdPages y k) = true) ∧ (y.encodes = false) ∧ (y.f 54 1 = 1) ∧
      (pic.missing ≠ 0)) ∧
    (∃ (s : State) (tid : Nat) (pic : CodecPic) (x : TaskRec) (y : SessRec) (k : Option Nat), (s.maps.wf = true) ∧ (s.task tid = some x) ∧
      (x.p < 8) ∧ (x.isKind 4 1 = true ∨ x.isKind 4 2 = true ∨ x.isKind 4 5 = true) ∧ (x.phase = TPhase.running) ∧ (s.session x.p x.cdSess =
      some y) ∧ (s.groupCores y ≠ []) ∧ (pic.coreErr = none) ∧ (pic.foul = none) ∧ (∀ (b : Nat), b ∈ x.cdInputs y pic → s.lost b = false ∧
      s.crcBad b = false ∧ s.readable (b / 64) = true) ∧ (k = if pic.takes = true then List.find? (fun i => (y.marks.getD i { }).free)
      (List.range y.marks.length) else none) ∧ (s.canWriteAll noDie (x.cdPages y k) = true) ∧ (y.encodes = true ∨ y.f 54 1 ≠ 1 ∨ pic.missing
      = 0) ∧ (pic.takes = true) ∧ (y.freeCount = 0)) ∧
    (∃ (s : State) (tid : Nat) (pic : CodecPic) (x : TaskRec) (y : SessRec) (k : Option Nat) (ms : List BufMark) (concealed : Bool),
      (s.maps.wf = true) ∧ (s.task tid = some x) ∧ (x.p < 8) ∧ (x.isKind 4 1 = true ∨ x.isKind 4 2 = true ∨ x.isKind 4 5 = true) ∧ (x.phase
      = TPhase.running) ∧ (s.session x.p x.cdSess = some y) ∧ (s.groupCores y ≠ []) ∧ (pic.coreErr = none) ∧ (pic.foul = none) ∧ (∀ (b :
      Nat), b ∈ x.cdInputs y pic → s.lost b = false ∧ s.crcBad b = false ∧ s.readable (b / 64) = true) ∧ (k = if pic.takes = true then
      List.find? (fun i => (y.marks.getD i { }).free) (List.range y.marks.length) else none) ∧ (s.canWriteAll noDie (x.cdPages y k) = true)
      ∧ (y.encodes = false) ∧ (y.f 54 1 ≠ 1 ∨ pic.missing = 0) ∧ (x.words.getD 0 0 ≤ 17) ∧ (pic.takes = true → k.isSome = true) ∧ (concealed
      = (pic.takes && (pic.missing != 0 || pic.syntaxErrs != 0 || !pic.random && pic.refs.any fun i => (y.marks.getD i { }).concealed))) ∧
      (ms = markBufs y.marks k pic concealed false (x.f 64 8 == 0))) ∧
    (∃ (s : State) (tid : Nat) (pic : CodecPic) (x : TaskRec) (y : SessRec) (k : Option Nat) (ms : List BufMark) (concealed : Bool),
      (s.maps.wf = true) ∧ (s.task tid = some x) ∧ (x.p < 8) ∧ (x.isKind 4 1 = true ∨ x.isKind 4 2 = true ∨ x.isKind 4 5 = true) ∧ (x.phase
      = TPhase.running) ∧ (s.session x.p x.cdSess = some y) ∧ (s.groupCores y ≠ []) ∧ (pic.coreErr = none) ∧ (pic.foul = none) ∧ (∀ (b :
      Nat), b ∈ x.cdInputs y pic → s.lost b = false ∧ s.crcBad b = false ∧ s.readable (b / 64) = true) ∧ (k = if pic.takes = true then
      List.find? (fun i => (y.marks.getD i { }).free) (List.range y.marks.length) else none) ∧ (s.canWriteAll noDie (x.cdPages y k) = true)
      ∧ (y.encodes = false) ∧ (y.f 54 1 ≠ 1 ∨ pic.missing = 0) ∧ (x.words.getD 0 0 ≤ 17) ∧ (pic.takes = true → k.isSome = true) ∧ (concealed
      = (pic.takes && (pic.missing != 0 || pic.syntaxErrs != 0 || !pic.random && pic.refs.any fun i => (y.marks.getD i { }).concealed))) ∧
      (ms = markBufs y.marks k pic concealed false (x.f 64 8 == 0))) ∧
    (∃ (s : State) (tid : Nat) (pic : CodecPic) (x : TaskRec) (y : SessRec) (k : Option Nat), (s.maps.wf = true) ∧ (s.task tid = some x) ∧
      (x.p < 8) ∧ (x.isKind 4 1 = true ∨ x.isKind 4 2 = true ∨ x.isKind 4 5 = true) ∧ (x.phase = TPhase.running) ∧ (s.session x.p x.cdSess =
      some y) ∧ (s.groupCores y ≠ []) ∧ (pic.coreErr = none) ∧ (pic.foul = none) ∧ (∀ (b : Nat), b ∈ x.cdInputs y pic → s.lost b = false ∧
      s.crcBad b = false ∧ s.readable (b / 64) = true) ∧ (k = if pic.takes = true then List.find? (fun i => (y.marks.getD i { }).free)
      (List.range y.marks.length) else none) ∧ (s.canWriteAll noDie (x.cdPages y k) = true) ∧ (y.encodes = true) ∧ (x.words.getD 0 0 ≤ 17) ∧
      (pic.takes = true → k.isSome = true) ∧ (codedOk x y k pic = true)) ∧
    (∃ (s : State) (tid : Nat) (pic : CodecPic) (x : TaskRec) (y : SessRec) (k : Option Nat), (s.maps.wf = true) ∧ (s.task tid = some x) ∧
      (x.p < 8) ∧ (x.isKind 4 1 = true ∨ x.isKind 4 2 = true ∨ x.isKind 4 5 = true) ∧ (x.phase = TPhase.running) ∧ (s.session x.p x.cdSess =
      some y) ∧ (s.groupCores y ≠ []) ∧ (pic.coreErr = none) ∧ (pic.foul = none) ∧ (∀ (b : Nat), b ∈ x.cdInputs y pic → s.lost b = false ∧
      s.crcBad b = false) ∧ (k = if pic.takes = true then List.find? (fun i => (y.marks.getD i { }).free) (List.range y.marks.length) else
      none) ∧ (s.canWriteAll noDie (x.cdPages y k) = false)) ∧
    (∃ (s : State) (tid : Nat) (pic : CodecPic) (x : TaskRec) (y : SessRec) (b : Nat), (s.maps.wf = true) ∧ (s.task tid = some x) ∧ (x.p <
      8) ∧ (x.isKind 4 1 = true ∨ x.isKind 4 2 = true ∨ x.isKind 4 5 = true) ∧ (x.phase = TPhase.running) ∧ (s.session x.p x.cdSess = some
      y) ∧ (s.groupCores y ≠ []) ∧ (pic.coreErr = none) ∧ (List.find? (fun k => s.lost k) (x.cdInputs y pic) = some b) ∧ (s.recoverable b =
      none) ∧ (s.blockQuiesced b = false)) ∧
    (∃ (s : State) (tid : Nat) (pic : CodecPic) (x : TaskRec) (y : SessRec) (b : Nat), (s.maps.wf = true) ∧ (s.task tid = some x) ∧ (x.p <
      8) ∧ (x.isKind 4 1 = true ∨ x.isKind 4 2 = true ∨ x.isKind 4 5 = true) ∧ (x.phase = TPhase.running) ∧ (s.session x.p x.cdSess = some
      y) ∧ (s.groupCores y ≠ []) ∧ (pic.coreErr = none) ∧ (∀ (k : Nat), k ∈ x.cdInputs y pic → s.lost k = false) ∧ (pic.foul = some b) ∧ (b
      ∈ x.cdInputs y pic)) ∧
    (∃ (s : State) (tid : Nat) (pic : CodecPic) (x : TaskRec) (y : SessRec) (b : Nat), (s.maps.wf = true) ∧ (s.task tid = some x) ∧ (x.p <
      8) ∧ (x.isKind 4 1 = true ∨ x.isKind 4 2 = true ∨ x.isKind 4 5 = true) ∧ (x.phase = TPhase.running) ∧ (s.session x.p x.cdSess = some
      y) ∧ (s.groupCores y ≠ []) ∧ (pic.coreErr = none) ∧ (∀ (k : Nat), k ∈ x.cdInputs y pic → s.lost k = false) ∧ (pic.foul = some b) ∧ (b
      ∈ x.cdInputs y pic)) :=
  ⟨⟨(coreless (cdMem [sess 0 [] marks4] 1 (runs [0, 0, 0] (decJob [])))), 0, (picOf true), (runs [0, 0, 0] (decJob [])), (sess 0 []
     marks4), by decide +kernel⟩,
   ⟨(cdMem [sess 0 [] marks4] 1 (runs [0, 0, 0] (decJob []))), 0, coreErrPic, (runs [0, 0, 0] (decJob [])), (sess 0 [] marks4), 0,
     by decide +kernel⟩,
   ⟨(cdMem [strict] 1 (runs [0, 0, 0] (decJob []))), 0, missingPic, (runs [0, 0, 0] (decJob [])), strict, (some 3), by decide +kernel⟩,
   ⟨(cdMem [sess 0 [] marksFull] 1 (runs [0, 0, 0] (decJob []))), 0, (picOf true), (runs [0, 0, 0] (decJob [])), (sess 0 [] marksFull),
     none, by decide +kernel⟩,
   ⟨(cdMem [sess 0 [] marks4] 1 (runs [17, 0, 0] (decJob []))), 0, (picOf true), (runs [17, 0, 0] (decJob [])), (sess 0 [] marks4), (some
     3), (markBufs marks4 (some 3) (picOf true) true false false), true, by decide +kernel⟩,
   ⟨(cdMem [sess 0 [] marks4] 1 (runs [0, 0, 0] (decJob []))), 0, (picOf false), (runs [0, 0, 0] (decJob [])), (sess 0 [] marks4), (some
     3), (markBufs marks4 (some 3) (picOf false) true false false), true, by decide +kernel⟩,
   ⟨(cdMem [sess 1 [] marks4] 1 (runs [0, 0, 0] (encJob 2 []))), 0, (codedPic [coded1]), (runs [0, 0, 0] (encJob 2 [])), (sess 1 []
     marks4), (some 3), by decide +kernel⟩,
   ⟨(heldPage (cdMem [sess 0 [] marks4] 1 (runs [0, 0, 0] (decJob [])))), 0, (picOf true), (runs [0, 0, 0] (decJob [])), (sess 0 []
     marks4), (some 3), by decide +kernel⟩,
   ⟨((cdMem [sess 0 [] marks4] 1 (runs [0, 0, 0] (decJob []))).setSide 7 0x100000000), 0, (picOf true), (runs [0, 0, 0] (decJob [])),
     (sess 0 [] marks4), 7, by decide +kernel⟩,
   ⟨(cdMem [sess 0 [] marks4] 1 (runs [0, 0, 2] (decJob []))), 0, { picOf true with foul := some 7 }, (runs [0, 0, 2] (decJob [])), (sess
     0 [] marks4), 7, by decide +kernel⟩,
   ⟨(cdMem [sess 0 [] marks4] 1 (runs [0, 0, 1] (decJob []))), 0, { picOf true with foul := some 7 }, (runs [0, 0, 1] (decJob [])), (sess
     0 [] marks4), 7, by decide +kernel⟩⟩

theorem test_witness_CollectivesExchangeReduceAndEnd :
    (∃ (s : State) (tid : Nat) (x : TaskRec) (c : Instr), (s.memGood) ∧ (s.CanStep x (rngBlocks x.coReads) []) ∧ (s.maps.wf = true) ∧
      (s.task tid = some x) ∧ (s.mayRun x = true) ∧ (s.hasTurn SharedUnit.collectives s.collWaiting x.p = true) ∧ (c = Instr.allReduce tid ∧
      x.isKind 5 0 = true ∨ c = Instr.allGather tid ∧ x.isKind 5 1 = true ∨ c = Instr.reduceScatter tid ∧ x.isKind 5 2 = true) ∧ (s.coOk x =
      false)) ∧
    (∃ (s : State) (tid : Nat) (x : TaskRec) (c : Instr), (s.memGood) ∧ (s.CanStep x (rngBlocks x.coReads) []) ∧ (s.maps.wf = true) ∧
      (s.task tid = some x) ∧ (s.mayRun x = true) ∧ (s.hasTurn SharedUnit.collectives s.collWaiting x.p = true) ∧ (c = Instr.allReduce tid ∧
      x.isKind 5 0 = true ∨ c = Instr.allGather tid ∧ x.isKind 5 1 = true ∨ c = Instr.reduceScatter tid ∧ x.isKind 5 2 = true) ∧ (s.coOk x =
      true)) ∧
    (∃ (s : State) (tid : Nat) (x : TaskRec) (c : Instr), (s.memGood) ∧ (s.CanStep x (rngBlocks x.coReads) []) ∧ (s.maps.wf = true) ∧
      (s.task tid = some x) ∧ (s.mayRun x = true) ∧ (s.hasTurn SharedUnit.collectives s.collWaiting x.p = true) ∧ (c = Instr.allReduce tid ∧
      x.isKind 5 0 = true ∨ c = Instr.allGather tid ∧ x.isKind 5 1 = true ∨ c = Instr.reduceScatter tid ∧ x.isKind 5 2 = true) ∧ (s.coOk x =
      true)) ∧
    (∃ (s : State) (tid : Nat) (x : TaskRec) (c : Instr), (s.memGood) ∧ (s.CanStep x (rngBlocks x.coReads) []) ∧ (s.maps.wf = true) ∧
      (s.task tid = some x) ∧ (s.mayRun x = true) ∧ (s.hasTurn SharedUnit.collectives s.collWaiting x.p = true) ∧ (c = Instr.allReduce tid ∧
      x.isKind 5 0 = true ∨ c = Instr.allGather tid ∧ x.isKind 5 1 = true ∨ c = Instr.reduceScatter tid ∧ x.isKind 5 2 = true) ∧ (s.coOk x =
      true)) ∧
    (∃ (s : State) (tid : Nat) (b : CollBlock) (x : TaskRec) (k : CollRec), (s.maps.wf = true) ∧ (s.task tid = some x) ∧ (x.phase =
      TPhase.running) ∧ (List.find? (fun c => c.tid == tid) s.colls = some k) ∧ (k.p < 8) ∧ (b.member < k.list.length) ∧ (b.member ≠ k.me) ∧
      (b.digest ≠ k.digest ∨ b.list ≠ k.list) ∧ (∀ (r : StartRec), r ∈ s.starts → r.tid ≠ tid)) ∧
    (∃ (s : State) (tid : Nat) (b : CollBlock) (x : TaskRec) (k : CollRec), (s.maps.wf = true) ∧ (s.task tid = some x) ∧ (x.phase =
      TPhase.running) ∧ (List.find? (fun c => c.tid == tid) s.colls = some k) ∧ (k.p < 8) ∧ (b.member < k.list.length) ∧ (b.member ≠ k.me) ∧
      (b.digest = k.digest) ∧ (b.list = k.list) ∧ (b.idx < k.blocks.length) ∧ (∃ g, g ∈ k.got ∧ g.member = b.member ∧ g.idx = b.idx)) ∧
    (∃ (s : State) (tid : Nat) (b : CollBlock) (x : TaskRec) (k : CollRec), (s.maps.wf = true) ∧ (s.task tid = some x) ∧ (x.phase =
      TPhase.running) ∧ (List.find? (fun c => c.tid == tid) s.colls = some k) ∧ (k.p < 8) ∧ (b.member < k.list.length) ∧ (b.member ≠ k.me) ∧
      (b.digest = k.digest) ∧ (b.list = k.list) ∧ (b.idx < k.blocks.length) ∧ (∀ (g : CollBlock), g ∈ k.got → ¬(g.member = b.member ∧ g.idx
      = b.idx)) ∧ (b.good = false)) ∧
    (∃ (s : State) (tid : Nat) (b : CollBlock) (x : TaskRec) (k : CollRec), (s.maps.wf = true) ∧ (s.task tid = some x) ∧ (x.phase =
      TPhase.running) ∧ (List.find? (fun c => c.tid == tid) s.colls = some k) ∧ (k.p < 8) ∧ (b.member < k.list.length) ∧ (b.member ≠ k.me) ∧
      (b.digest = k.digest) ∧ (b.list = k.list) ∧ (b.idx < k.blocks.length) ∧ (∀ (g : CollBlock), g ∈ k.got → ¬(g.member = b.member ∧ g.idx
      = b.idx)) ∧ (b.good = false)) ∧
    (∃ (s : State) (tid : Nat) (b : CollBlock) (x : TaskRec) (k k' : CollRec), (s.maps.wf = true) ∧ (s.task tid = some x) ∧ (x.phase =
      TPhase.running) ∧ (List.find? (fun c => c.tid == tid) s.colls = some k) ∧ (k.p < 8) ∧ (b.member < k.list.length) ∧ (b.member ≠ k.me) ∧
      (b.digest = k.digest) ∧ (b.list = k.list) ∧ (b.idx < k.blocks.length) ∧ (∀ (g : CollBlock), g ∈ k.got → ¬(g.member = b.member ∧ g.idx
      = b.idx)) ∧ (b.good = true) ∧ (k' = ({ k with got := k.got ++ [b] } : CollRec)) ∧ (k'.full = true → s.canWriteAll noDie (rngPages
      (s.coWrites x)) = true)) ∧
    (∃ (s : State) (tid : Nat) (b : CollBlock) (x : TaskRec) (k k' : CollRec), (s.maps.wf = true) ∧ (s.task tid = some x) ∧ (x.phase =
      TPhase.running) ∧ (List.find? (fun c => c.tid == tid) s.colls = some k) ∧ (k.p < 8) ∧ (b.member < k.list.length) ∧ (b.member ≠ k.me) ∧
      (b.digest = k.digest) ∧ (b.list = k.list) ∧ (b.idx < k.blocks.length) ∧ (∀ (g : CollBlock), g ∈ k.got → ¬(g.member = b.member ∧ g.idx
      = b.idx)) ∧ (b.good = true) ∧ (k' = ({ k with got := k.got ++ [b] } : CollRec)) ∧ (k'.full = true → s.canWriteAll noDie (rngPages
      (s.coWrites x)) = true)) ∧
    (∃ (s : State) (tid : Nat) (b : CollBlock) (x : TaskRec) (k : CollRec), (s.maps.wf = true) ∧ (s.task tid = some x) ∧ (x.phase =
      TPhase.running) ∧ (List.find? (fun c => c.tid == tid) s.colls = some k) ∧ (k.p < 8) ∧ (b.member < k.list.length) ∧ (b.member ≠ k.me) ∧
      (b.digest = k.digest) ∧ (b.list = k.list) ∧ (b.idx < k.blocks.length) ∧ (∀ (g : CollBlock), g ∈ k.got → ¬(g.member = b.member ∧ g.idx
      = b.idx)) ∧ (b.good = true) ∧ (({ k with got := k.got ++ [b] } : CollRec).full = true) ∧ (s.canWriteAll noDie (rngPages (s.coWrites
      x)) = false)) ∧
    (∃ (s : State) (tid j i : Nat) (x : TaskRec) (k k' : CollRec), (s.maps.wf = true) ∧ (s.task tid = some x) ∧ (x.phase = TPhase.running)
      ∧ (List.find? (fun c => c.tid == tid) s.colls = some k) ∧ (j < k.list.length) ∧ (i < k.blocks.length) ∧ ((j, i) ∈ k.acked)) ∧
    (∃ (s : State) (tid j i : Nat) (x : TaskRec) (k k' : CollRec), (s.maps.wf = true) ∧ (s.task tid = some x) ∧ (x.phase = TPhase.running)
      ∧ (List.find? (fun c => c.tid == tid) s.colls = some k) ∧ (j < k.list.length) ∧ (i < k.blocks.length) ∧ (¬(j, i) ∈ k.acked) ∧ (k' =
      ({ k with acked := k.acked ++ [(j, i)] } : CollRec)) ∧ (k.full = false ∨ k.stored = true)) ∧
    (∃ (s : State) (tid : Nat) (x : TaskRec) (k : CollRec), (s.maps.wf = true) ∧ (s.task tid = some x) ∧ (x.p < 8) ∧ (List.find? (fun c =>
      c.tid == tid) s.colls = some k) ∧ (k.p < 8)) ∧
    (∃ (s : State) (tid : Nat) (x : TaskRec) (k : CollRec), (s.maps.wf = true) ∧ (s.task tid = some x) ∧ (x.p < 8) ∧ (List.find? (fun c =>
      c.tid == tid) s.colls = some k) ∧ (k.p < 8) ∧ (s.noRoute k = true) ∧ (x.phase = TPhase.running)) ∧
    (∃ (s : State) (tid : Nat) (x : TaskRec) (k : CollRec), (s.maps.wf = true) ∧ (s.task tid = some x) ∧ (x.p < 8) ∧ (List.find? (fun c =>
      c.tid == tid) s.colls = some k) ∧ (k.p < 8) ∧ (s.noRoute k = false)) :=
  ⟨⟨(stMem 0 1 (coJob .ready 1 [(0x44, 4, 15)])), 0, (coJob .ready 1 [(0x44, 4, 15)]), (.allGather 0), memGood_of_side rfl,
     canStep_of (by decide +kernel), by decide +kernel⟩,
   ⟨(stMem 0 1 (coJob .ready 0 [])), 0, (coJob .ready 0 []), (.allReduce 0), memGood_of_side rfl, canStep_of (by decide +kernel),
     by decide +kernel⟩,
   ⟨(stMem 65536 0 (coJob .ready 2 [])), 0, (coJob .ready 2 []), (.reduceScatter 0), memGood_of_side rfl, canStep_of (by decide +kernel),
     by decide +kernel⟩,
   ⟨(stMem 0 65536 (coJob .ready 1 [])), 0, (coJob .ready 1 []), (.allGather 0), memGood_of_side rfl, canStep_of (by decide +kernel),
     by decide +kernel⟩,
   ⟨(coRun (coRec [] [] [])), 0, (coBlock true [0, 2]), (coJob .running 0 []), (coRec [] [] []), by decide +kernel⟩,
   ⟨(coRun (coRec [coBlock true [0, 1]] [] [])), 0, (coBlock true [0, 1]), (coJob .running 0 []), (coRec [coBlock true [0, 1]] [] []),
     by decide +kernel⟩,
   ⟨(coRun (coRec [] [] [(1, 0), (1, 0), (1, 0)])), 0, (coBlock false [0, 1]), (coJob .running 0 []), (coRec [] [] [(1, 0), (1, 0), (1,
     0)]), by decide +kernel⟩,
   ⟨(coRun (coRec [] [] [(1, 0), (1, 0)])), 0, (coBlock false [0, 1]), (coJob .running 0 []), (coRec [] [] [(1, 0), (1, 0)]),
     by decide +kernel⟩,
   ⟨(coRun (coRec [] [(1, 0)] [])), 0, (coBlock true [0, 1]), (coJob .running 0 []), (coRec [] [(1, 0)] []), (coRec [coBlock true [0, 1]]
     [(1, 0)] []), by decide +kernel⟩,
   ⟨(coRun (coRec [] [] [])), 0, (coBlock true [0, 1]), (coJob .running 0 []), (coRec [] [] []), (coRec [coBlock true [0, 1]] [] []),
     by decide +kernel⟩,
   ⟨(heldPage (coRun (coRec [] [(1, 0)] []))), 0, (coBlock true [0, 1]), (coJob .running 0 []), (coRec [] [(1, 0)] []), by decide +kernel⟩,
   ⟨(coRun (coRec [] [(1, 0)] [])), 0, 1, 0, (coJob .running 0 []), (coRec [] [(1, 0)] []), (coRec [] [(1, 0)] []), by decide +kernel⟩,
   ⟨(coRun (coKept (coRec [coBlock true [0, 1]] [] []))), 0, 1, 0, (coJob .running 0 []), (coKept (coRec [coBlock true [0, 1]] [] [])),
     (coKept (coRec [coBlock true [0, 1]] [(1, 0)] [])), by decide +kernel⟩,
   ⟨(coRun (coRec [] [] [])), 0, (coJob .running 0 []), (coRec [] [] []), by decide +kernel⟩,
   ⟨(coRun (coRec [] [] [])), 0, (coJob .running 0 []), (coRec [] [] []), by decide +kernel⟩,
   ⟨(coRun (coNear)), 0, (coJob .running 0 []), coNear, by decide +kernel⟩⟩

theorem test_witness_CallbacksPassThroughTheirQueue :
    (∃ (s : State) (tid : Nat) (x : TaskRec), (s.memGood) ∧ (s.maps.wf = true) ∧ (s.task tid = some x) ∧ (x.isKind 6 0 = true) ∧ (s.mayRun
      x = true) ∧ (x.desc.length = 128) ∧ (x.cbkOk = false)) ∧
    (∃ (s : State) (tid : Nat) (x : TaskRec), (s.memGood) ∧ (∀ (i j : Nat), i < 64 + 64 * pow2 (x.f 40 1) → j < 4 → x.f 32 8 + i ≠ x.f 80
      8 + j) ∧ (s.maps.wf = true) ∧ (s.task tid = some x) ∧ (x.isKind 6 0 = true) ∧ (s.mayRun x = true) ∧ (x.desc.length = 128) ∧ (x.cbkOk =
      true) ∧ (s.canWriteAll noDie (rngPages x.cbkWrites) = true) ∧ (∀ (b : Nat), b ∈ rngBlocks x.cbkReads → s.readable (b / 64) = true)) ∧
    (∃ (s : State) (tid : Nat) (x : TaskRec), (s.memGood) ∧ (∀ (i j : Nat), i < 64 + 64 * pow2 (x.f 40 1) → j < 4 → x.f 32 8 + i ≠ x.f 80
      8 + j) ∧ (s.maps.wf = true) ∧ (s.task tid = some x) ∧ (x.isKind 6 0 = true) ∧ (s.mayRun x = true) ∧ (x.desc.length = 128) ∧ (x.cbkOk =
      true) ∧ (s.canWriteAll noDie (rngPages x.cbkWrites) = true) ∧ (∀ (b : Nat), b ∈ rngBlocks x.cbkReads → s.readable (b / 64) = true)) ∧
    (∃ (s : State) (tid : Nat) (x : TaskRec) (n : Nat), (s.maps.wf = true) ∧ (s.task tid = some x) ∧ (x.isKind 6 0 = true) ∧
      (s.canWriteAll noDie (rngPages x.cbkWrites) = false) ∧ (x.phase = TPhase.running)) ∧
    (∃ (s : State) (tid : Nat) (x : TaskRec) (v : W32), (s.maps.wf = true) ∧ (s.task tid = some x) ∧ (x.isKind 6 0 = true) ∧
      (s.canWriteAll noDie (rngPages x.cbkWrites) = false) ∧ (x.phase = TPhase.running)) ∧
    (∃ (s : State) (tid : Nat) (x : TaskRec) (consumer : Nat), (s.maps.wf = true) ∧ (s.task tid = some x) ∧ (x.isKind 6 0 = true) ∧
      (s.canWriteAll noDie (rngPages x.cbkWrites) = true) ∧ (x.phase = TPhase.running) ∧ (x.mark = 2)) ∧
    (∃ (s : State) (tid : Nat) (x : TaskRec) (consumer : Nat), (s.maps.wf = true) ∧ (s.task tid = some x) ∧ (x.isKind 6 0 = true) ∧
      (s.canWriteAll noDie (rngPages x.cbkWrites) = true) ∧ (x.phase = TPhase.running) ∧ (x.mark = 1) ∧ ((s.devNat (x.f 32 8) 8 + pow2 64 -
      consumer % pow2 64) % pow2 64 < pow2 (x.f 40 1))) ∧
    (∃ (s : State) (tid : Nat) (x : TaskRec) (v : W32), (s.maps.wf = true) ∧ (s.task tid = some x) ∧ (x.isKind 6 0 = true) ∧
      (s.canWriteAll noDie (rngPages x.cbkWrites) = true) ∧ (x.phase = TPhase.running) ∧ (x.mark = 2)) ∧
    (∃ (s : State) (tid : Nat) (x : TaskRec) (v : W32), (s.maps.wf = true) ∧ (s.task tid = some x) ∧ (x.isKind 6 0 = true) ∧
      (s.canWriteAll noDie (rngPages x.cbkWrites) = true) ∧ (x.phase = TPhase.running) ∧ (x.mark = 2)) :=
  ⟨⟨(cbState 15 (cbJob6 .ready 0 [(0x28, 1, 3)])), 0, (cbJob6 .ready 0 [(0x28, 1, 3)]), memGood_of_side rfl, by decide +kernel⟩,
   ⟨(cbState 15 (cbJob6 .ready 0 [])), 0, (cbJob6 .ready 0 []), memGood_of_side rfl, apart_of (by decide +kernel), by decide +kernel⟩,
   ⟨(cbState 16 (cbJob6 .ready 0 [])), 0, (cbJob6 .ready 0 []), memGood_of_side rfl, apart_of (by decide +kernel), by decide +kernel⟩,
   ⟨(heldPage (cbState 16 (cbJob6 .running 2 []))), 0, (cbJob6 .running 2 []), 1, by decide +kernel⟩,
   ⟨(heldPage (cbState 16 (cbJob6 .running 2 []))), 0, (cbJob6 .running 2 []), 5, by decide +kernel⟩,
   ⟨(cbState 16 (cbJob6 .running 2 [])), 0, (cbJob6 .running 2 []), 1, by decide +kernel⟩,
   ⟨(cbState 16 (cbJob6 .running 1 [])), 0, (cbJob6 .running 1 []), 1, by decide +kernel⟩,
   ⟨(cbState 16 (cbJob6 .running 2 [])), 0, (cbJob6 .running 2 []), 0xFFFFFFFF, by decide +kernel⟩,
   ⟨(cbState 16 (cbJob6 .running 2 [])), 0, (cbJob6 .running 2 []), 0, by decide +kernel⟩⟩

theorem test_witness_PortsCheckAcknowledgeAndReplay :
    (∃ (s : State) (i : Nat) (f : Flit) (stall : Nat), (s.maps.wf = true) ∧ (i < 24) ∧ (s.portState i ≠ 2)) ∧
    (∃ (s : State) (i : Nat) (f : Flit) (stall : Nat), (s.maps.wf = true) ∧ (i < 24) ∧ (s.portState i = 2) ∧ (2 ≤ f.found ∨ flitHasSeq f =
      true ∧ f.seq ≠ (s.port i).rxNext) ∧ ((s.port i).awaiting = true) ∧ (f.found < 2)) ∧
    (∃ (s : State) (i : Nat) (f : Flit) (stall : Nat), (s.maps.wf = true) ∧ (i < 24) ∧ (s.portState i = 2) ∧ (2 ≤ f.found ∨ flitHasSeq f =
      true ∧ f.seq ≠ (s.port i).rxNext) ∧ ((s.port i).awaiting = false ∨ 2 ≤ f.found)) ∧
    (∃ (s : State) (i : Nat) (f : Flit) (stall : Nat), (s.maps.wf = true) ∧ (i < 24) ∧ (s.portState i = 2) ∧ (2 ≤ f.found ∨ flitHasSeq f =
      true ∧ f.seq ≠ (s.port i).rxNext) ∧ ((s.port i).awaiting = false ∨ 2 ≤ f.found)) ∧
    (∃ (s : State) (i : Nat) (f : Flit) (stall : Nat), (s.maps.wf = true) ∧ (i < 24) ∧ (s.portState i = 2) ∧ (f.found < 2) ∧ (flitHasSeq f
      = true) ∧ (f.seq = (s.port i).rxNext) ∧ (f.nak = false) ∧ ((s.port i).queue = []) ∧ (f.kind ≠ 1 ∧ f.kind ≠ 2 ∨ f.part ≠ s.portOwner i
      ∨ f.dest = s.moduleId)) ∧
    (∃ (s : State) (i ack : Nat), (s.maps.wf = true) ∧ (i < 24) ∧ (s.portState i = 2) ∧ (((s.port i).acked ack).unacked = [])) ∧
    (∃ (s : State) (i ack : Nat), (s.maps.wf = true) ∧ (i < 24) ∧ (s.portState i = 2) ∧ (((s.port i).acked ack).unacked ≠ [])) ∧
    (∃ (s : State) (i ack : Nat), (s.maps.wf = true) ∧ (i < 24) ∧ (s.portState i = 2) ∧ (((s.port i).acked ack).unacked ≠ [])) ∧
    (∃ (s : State) (i : Nat), (s.maps.wf = true) ∧ (i < 24) ∧ (s.portState i = 2) ∧ ((s.port i).unacked ≠ [])) ∧
    (∃ (s : State) (i partner rate : Nat), (s.maps.wf = true) ∧ (i < 24) ∧ (s.portState i = 1 ∨ s.portState i = 3) ∧ (1 ≤ rate) ∧ (rate ≤
      2) ∧ ((s.port i).maxRate = 1 → rate = 1) ∧ ((s.port i).expected ≠ 65535) ∧ ((s.port i).expected ≠ partner % 65536)) ∧
    (∃ (s : State) (i partner rate : Nat), (s.maps.wf = true) ∧ (i < 24) ∧ (s.portState i = 1 ∨ s.portState i = 3) ∧ (1 ≤ rate) ∧ (rate ≤
      2) ∧ ((s.port i).maxRate = 1 → rate = 1) ∧ ((s.port i).expected = 65535 ∨ (s.port i).expected = partner % 65536) ∧ ((s.port i).queue =
      [])) ∧
    (∃ (s : State) (i partner rate : Nat), (s.maps.wf = true) ∧ (i < 24) ∧ (s.portState i = 1 ∨ s.portState i = 3) ∧ (1 ≤ rate) ∧ (rate ≤
      2) ∧ ((s.port i).maxRate = 1 → rate = 1) ∧ ((s.port i).expected = 65535 ∨ (s.port i).expected = partner % 65536) ∧ ((s.port i).queue =
      [])) ∧
    (∃ (s : State) (i : Nat), (s.maps.wf = true) ∧ (i < 24) ∧ (s.portState i = 4)) ∧
    (∃ (s : State) (i : Nat), (s.maps.wf = true) ∧ (i < 24) ∧ (s.portState i = 3)) :=
  ⟨⟨(portIn 3 (port23 false [] 0)), 23, (flitOf 4095 0), 5, by decide +kernel⟩,
   ⟨(portIn 2 (port23 true [] 0)), 23, (flitOf 0 1), 5, by decide +kernel⟩,
   ⟨(portIn 2 (port23 true [] 0)), 23, (flitOf 4095 2), 5, by decide +kernel⟩,
   ⟨(portIn 2 (port23 false [] 0)), 23, (flitOf 4094 0), 5, by decide +kernel⟩,
   ⟨(portIn 2 (port23 true [flitOf 4095 0, flitOf 0 0] 0)), 23, (flitOf 4095 1), 5, by decide +kernel⟩,
   ⟨(portIn 2 (port23 true [flitOf 4095 0] 3)), 23, 4095, by decide +kernel⟩,
   ⟨(portIn 2 (port23 true [flitOf 4095 0] 7)), 23, 9, by decide +kernel⟩,
   ⟨(portIn 2 (port23 true [flitOf 4095 0, flitOf 0 0] 7)), 23, 4095, by decide +kernel⟩,
   ⟨(portIn 2 (port23 true [flitOf 4095 0] 7)), 23, by decide +kernel⟩,
   ⟨(portIn 1 (port23 false [] 0)), 23, 8, 2, by decide +kernel⟩,
   ⟨(portIn 1 (port23 false [flitOf 0 0] 0)), 23, 7, 2, by decide +kernel⟩,
   ⟨(portIn 3 (port23 false [flitOf 0 0] 0)), 23, 7, 1, by decide +kernel⟩,
   ⟨(portIn 4 (port23 false [] 0)), 23, by decide +kernel⟩,
   ⟨upPortRetrains, 23, by decide +kernel⟩⟩

theorem test_witness_PartitionCommandsFollowTheirStates :
    (∃ (s : State) (p : Nat) (v : W32) (c : Instr) (cmd : Nat), (s.maps.wf = true) ∧ (p < 8) ∧ (s.reaches 0 (Addr.sch p 0) = true) ∧ ((c,
      cmd) ∈ [(Instr.partSave 0 p v, 1), (Instr.partRestore 0 p v [], 2), (Instr.partStart 0 p v, 3), (Instr.partReset 0 p v, 4)]) ∧ (fld
      (BitVec.toNat v) 3 0 ≠ cmd)) ∧
    (∃ (s : State) (p : Nat) (v : W32) (c : Instr) (cmd : Nat), (s.maps.wf = true) ∧ (p < 8) ∧ (s.reaches 0 (Addr.sch p 0) = true) ∧ ((c,
      cmd) ∈ [(Instr.partSave 0 p v, 1), (Instr.partRestore 0 p v [], 2), (Instr.partStart 0 p v, 3), (Instr.partReset 0 p v, 4)]) ∧ (fld
      (BitVec.toNat v) 3 0 = cmd) ∧ ((s.part p).isNone = true ∨ s.stopped = true ∨ cmd = 1 ∧ s.pstate p ≠ 0 ∨ (cmd = 2 ∨ cmd = 3) ∧ s.pstate
      p ≠ 2 ∨ cmd = 4 ∧ s.pstate p = 4)) ∧
    (∃ (s : State) (p : Nat) (v : W32) (c : Instr) (cmd : Nat), (s.maps.wf = true) ∧ (p < 8) ∧ (s.reaches 0 (Addr.sch p 0) = true) ∧ ((c,
      cmd) ∈ [(Instr.partSave 0 p v, 1), (Instr.partRestore 0 p v [], 2), (Instr.partStart 0 p v, 3), (Instr.partReset 0 p v, 4)]) ∧ (fld
      (BitVec.toNat v) 3 0 = cmd) ∧ ((s.part p).isNone = true ∨ s.stopped = true ∨ cmd = 1 ∧ s.pstate p ≠ 0 ∨ (cmd = 2 ∨ cmd = 3) ∧ s.pstate
      p ≠ 2 ∨ cmd = 4 ∧ s.pstate p = 4)) ∧
    (∃ (s : State) (p : Nat) (v : W32), (s.maps.wf = true) ∧ (p < 8) ∧ (s.reaches 0 (Addr.sch p 0) = true) ∧ ((s.part p).isSome = true) ∧
      (s.stopped = false) ∧ (fld (BitVec.toNat v) 3 0 = 3) ∧ (s.pstate p = 2)) ∧
    (∃ (s : State) (p : Nat) (v : W32), (s.maps.wf = true) ∧ (p < 8) ∧ (s.reaches 0 (Addr.sch p 0) = true) ∧ ((s.part p).isSome = true) ∧
      (s.stopped = false) ∧ (fld (BitVec.toNat v) 3 0 = 2) ∧ (s.pstate p = 2)) ∧
    (∃ (s : State) (p : Nat) (v : W32), (s.maps.wf = true) ∧ (p < 8) ∧ (s.reaches 0 (Addr.sch p 0) = true) ∧ ((s.part p).isSome = true) ∧
      (s.stopped = false) ∧ (fld (BitVec.toNat v) 3 0 = 1) ∧ (s.pstate p = 0) ∧ (∀ (r : StartRec), r ∈ s.starts → r.p ≠ p) ∧ (∀ (c :
      CollRec), c ∈ s.colls → c.p ≠ p)) ∧
    (∃ (s : State) (p : Nat) (v : W32), (s.maps.wf = true) ∧ (p < 8) ∧ (s.reaches 0 (Addr.sch p 0) = true) ∧ ((s.part p).isSome = true) ∧
      (s.stopped = false) ∧ (fld (BitVec.toNat v) 3 0 = 4) ∧ (s.pstate p ≠ 4)) ∧
    (∃ (s : State) (p : Nat) (c : CtxCmd) (size : Nat), (s.maps.wf = true) ∧ (p < 8) ∧ (List.find? (fun c => c.p == p) s.ctxCmds = some c)
      ∧ (s.stopped = false) ∧ (s.pstate p = 1) ∧ (256 ≤ size) ∧ (s.flights = []) ∧ (s.entryWait = []) ∧ (s.removal = 0) ∧ (∀ (y : TaskRec),
      y ∈ s.tasks → y.p = p → ∀ (u : UnitRec), u ∈ y.units → u.phase ≠ UPhase.issued) ∧ ((if c.addr = 0 then 201326592 else c.len) < size)) ∧
    (∃ (s : State) (p : Nat) (c : CtxCmd) (size : Nat), (s.maps.wf = true) ∧ (p < 8) ∧ (List.find? (fun c => c.p == p) s.ctxCmds = some c)
      ∧ (s.stopped = false) ∧ (s.pstate p = 1) ∧ (256 ≤ size) ∧ (s.flights = []) ∧ (s.entryWait = []) ∧ (s.removal = 0) ∧ (∀ (y : TaskRec),
      y ∈ s.tasks → y.p = p → ∀ (u : UnitRec), u ∈ y.units → u.phase ≠ UPhase.issued) ∧ (size ≤ if c.addr = 0 then 201326592 else c.len) ∧
      (size < pow2 64)) ∧
    (∃ (s : State) (p : Nat) (c : CtxCmd) (size : Nat), (s.maps.wf = true) ∧ (p < 8) ∧ (List.find? (fun c => c.p == p) s.ctxCmds = some c)
      ∧ (s.stopped = false) ∧ (s.pstate p = 1) ∧ (256 ≤ size) ∧ (s.flights = []) ∧ (s.entryWait = []) ∧ (s.removal = 0) ∧ (∀ (y : TaskRec),
      y ∈ s.tasks → y.p = p → ∀ (u : UnitRec), u ∈ y.units → u.phase ≠ UPhase.issued) ∧ (size ≤ if c.addr = 0 then 201326592 else c.len) ∧
      (size < pow2 64)) ∧
    (∃ (s : State) (p : Nat) (c : CtxCmd) (r : Nat), (s.maps.wf = true) ∧ (p < 8) ∧ (List.find? (fun c => c.p == p) s.ctxCmds = some c) ∧
      (s.stopped = false) ∧ (s.pstate p = 3) ∧ (s.findImage c = (none, r)) ∧ (r < 16)) ∧
    (∃ (s : State) (p : Nat) (c : CtxCmd) (img : CtxImage) (r : Nat), (s.maps.wf = true) ∧ (p < 8) ∧ (List.find? (fun c => c.p == p)
      s.ctxCmds = some c) ∧ (s.stopped = false) ∧ (s.pstate p = 3) ∧ (s.findImage c = (some img, r)) ∧ (∀ (q : RingRec × W64 × W64 × W64), q
      ∈ img.rings → q.fst.r < 16)) ∧
    (∃ (s : State) (p : Nat), (s.maps.wf = true) ∧ (p < 8) ∧ (s.pstate p = 4) ∧ (s.stopped = false) ∧ (∀ (i : Nat), i < 512 → s.pcState i
      ≠ 1 ∧ s.pcState i ≠ 2)) :=
  ⟨⟨up, 0, 2, (.partSave 0 0 2), 1, by decide +kernel⟩,
   ⟨up, 0, 3, (.partStart 0 0 3), 3, by decide +kernel⟩,
   ⟨up, 7, 4, (.partReset 0 7 4), 4, by decide +kernel⟩,
   ⟨(inState 2 ringOn), 0, 3, by decide +kernel⟩,
   ⟨(inState 2 gMem), 0, 0x112, by decide +kernel⟩,
   ⟨(inRun (prodIn [] [uIssued])), 0, 1, by decide +kernel⟩,
   ⟨(ringless (inRun (prodIn [] [uIssued]))), 0, 4, by decide +kernel⟩,
   ⟨(runsCmd (cmdTo 0x1000 255) (inState 1 pRun)), 0, (cmdTo 0x1000 255), 256, by decide +kernel⟩,
   ⟨(runsCmd (cmdTo 0x1000 256) (inState 1 pRun)), 0, (cmdTo 0x1000 256), 256, by decide +kernel⟩,
   ⟨(runsCmd (cmdTo 0 0) (inState 1 pRun)), 0, (cmdTo 0 0), 201326592, by decide +kernel⟩,
   ⟨(runsCmd (cmdTo 0 0) (inState 3 gMem)), 0, (cmdTo 0 0), 6, by decide +kernel⟩,
   ⟨(slotted1 (runsCmd (cmdTo 0 0) (inState 3 gMem))), 0, (cmdTo 0 0), image, 0, by decide +kernel⟩,
   ⟨(inState 4 returning0), 0, by decide +kernel⟩⟩

theorem test_witness_PowerAndLinkEventsResetTheModule :
    (∃ (s : State) (n : Nat) (c : Instr) (fall : Bool), (c = Instr.pwrenFall n ∧ fall = true ∨ c = Instr.supplyLoss n ∧ fall = false)) ∧
    (∃ (s : State) (n : Nat) (c : Instr) (fall : Bool), (c = Instr.pwrenFall n ∧ fall = true ∨ c = Instr.supplyLoss n ∧ fall = false)) ∧
    (∃ (s : State) (c : Instr) (rise : Bool), (s.maps.wf = true) ∧ (c = Instr.pwrenRise ∧ rise = true ∧ s.pwren = false ∨ c =
      Instr.supplyReturn ∧ rise = false ∧ s.supply = false) ∧ (s.boot ≠ BootPhase.off ∨ rise = true ∧ s.supply = false ∨ rise = false ∧
      s.pwren = false)) ∧
    (∃ (s : State) (c : Instr) (rise : Bool), (s.maps.wf = true) ∧ (c = Instr.pwrenRise ∧ rise = true ∧ s.pwren = false ∨ c =
      Instr.supplyReturn ∧ rise = false ∧ s.supply = false) ∧ (s.boot = BootPhase.off) ∧ (s.fuses.returning = false) ∧ (rise = true →
      s.supply = true) ∧ (rise = false → s.pwren = true)) ∧
    (∃ (s : State) (c : Instr) (rise : Bool), (s.maps.wf = true) ∧ (c = Instr.pwrenRise ∧ rise = true ∧ s.pwren = false ∨ c =
      Instr.supplyReturn ∧ rise = false ∧ s.supply = false) ∧ (s.boot = BootPhase.off) ∧ (s.fuses.returning = false) ∧ (rise = true →
      s.supply = true) ∧ (rise = false → s.pwren = true)) ∧
    (∃ (s : State) (c : Instr) (flr : Bool), (s.maps.wf = true) ∧ (c = Instr.perstNAssert ∧ flr = false ∨ c = Instr.pcieLinkDown ∧ flr =
      false ∨ c = Instr.flrPf0 ∧ flr = true) ∧ (s.boot = BootPhase.off ∨ s.dying = true)) ∧
    (∃ (s : State) (c : Instr) (flr : Bool), (s.maps.wf = true) ∧ (c = Instr.perstNAssert ∧ flr = false ∨ c = Instr.pcieLinkDown ∧ flr =
      false ∨ c = Instr.flrPf0 ∧ flr = true) ∧ (s.boot = BootPhase.firmware) ∧ (s.dying = false) ∧ (s.removal ≠ 3)) ∧
    (∃ (s : State) (c : Instr) (flr : Bool), (s.maps.wf = true) ∧ (c = Instr.perstNAssert ∧ flr = false ∨ c = Instr.pcieLinkDown ∧ flr =
      false ∨ c = Instr.flrPf0 ∧ flr = true) ∧ (s.boot ≠ BootPhase.off) ∧ (s.dying = false) ∧ (s.boot ≠ BootPhase.firmware ∨ s.removal = 3)
      ∧ (s.flushOwed = false) ∧ (s.quiescing = false) ∧ (s.fuses.returning = false)) ∧
    (∃ (s : State) (c : Instr) (flr : Bool), (s.maps.wf = true) ∧ (c = Instr.perstNAssert ∧ flr = false ∨ c = Instr.pcieLinkDown ∧ flr =
      false ∨ c = Instr.flrPf0 ∧ flr = true) ∧ (s.boot ≠ BootPhase.off) ∧ (s.dying = false) ∧ (s.boot ≠ BootPhase.firmware ∨ s.removal = 3)
      ∧ (s.flushOwed = false) ∧ (s.quiescing = false) ∧ (s.fuses.returning = false)) ∧
    (∃ (s : State) (c : Instr) (flr : Bool), (s.maps.wf = true) ∧ (c = Instr.perstNAssert ∧ flr = false ∨ c = Instr.pcieLinkDown ∧ flr =
      false ∨ c = Instr.flrPf0 ∧ flr = true) ∧ (s.boot ≠ BootPhase.off) ∧ (s.dying = false) ∧ (s.boot ≠ BootPhase.firmware ∨ s.removal = 3)
      ∧ (s.flushOwed = true ∨ s.quiescing = true)) ∧
    (∃ (s : State) (gen width : Nat), (s.maps.wf = true) ∧ (s.boot = BootPhase.off ∨ gen < 4 ∨ 7 < gen ∨ ¬width ∈ [4, 8, 16])) ∧
    (∃ (s : State) (gen width : Nat), (s.maps.wf = true) ∧ (s.boot ≠ BootPhase.off) ∧ (4 ≤ gen) ∧ (gen ≤ 7) ∧ (width ∈ [4, 8, 16])) :=
  ⟨⟨(linked pRun), 5, (.pwrenFall 5), true, by decide +kernel⟩,
   ⟨(power true true (linked pRun)), 0, (.supplyLoss 0), false, by decide +kernel⟩,
   ⟨(power false false {}), .pwrenRise, true, by decide +kernel⟩,
   ⟨(power false true {}), .pwrenRise, true, by decide +kernel⟩,
   ⟨(power true false (fwImage 0 2 (fwImage 1 3 {}))), .supplyReturn, false, by decide +kernel⟩,
   ⟨(linked (dying pRun)), .pcieLinkDown, false, by decide +kernel⟩,
   ⟨(linked pRun), .perstNAssert, false, by decide +kernel⟩,
   ⟨(linked (leftBy 3 pRun)), .flrPf0, true, by decide +kernel⟩,
   ⟨(linked (bootIn .recovery pRun)), .perstNAssert, false, by decide +kernel⟩,
   ⟨(linked (leftBy 3 (pcIn 497 2 pRun))), .pcieLinkDown, false, by decide +kernel⟩,
   ⟨pRun, 8, 16, by decide +kernel⟩,
   ⟨(linked pRun), 7, 4, by decide +kernel⟩⟩

theorem test_witness_FunctionsAndRemoval :
    (∃ (s : State) (n : Nat), (s.maps.wf = true) ∧ (1 ≤ n) ∧ (n ≤ 8) ∧ (s.numVfs < n ∨ s.stopped = true ∨ s.part (n - 1) = none ∨ s.pstate
      (n - 1) = 4)) ∧
    (∃ (s : State) (n : Nat), (s.maps.wf = true) ∧ (1 ≤ n) ∧ (n ≤ 8) ∧ (n ≤ s.numVfs) ∧ (s.stopped = false) ∧ ((s.part (n - 1)).isSome =
      true) ∧ (s.pstate (n - 1) ≠ 4)) ∧
    (∃ (s : State) (n : Nat) (master : Bool), (s.maps.wf = true) ∧ (n ≤ 8) ∧ (s.boot = BootPhase.off ∨ s.stopped = true ∨ n = s.numVfs)) ∧
    (∃ (s : State) (n : Nat) (master : Bool), (s.maps.wf = true) ∧ (n ≤ 8) ∧ (s.boot ≠ BootPhase.off) ∧ (s.stopped = false) ∧ (n ≠
      s.numVfs) ∧ (∀ (x : PartRec), x ∈ s.parts → x.p < 8) ∧ ((List.map PartRec.p s.parts).Nodup)) ∧
    (∃ (s : State) (n : Nat) (master : Bool), (s.maps.wf = true) ∧ (n ≤ 8) ∧ (s.boot ≠ BootPhase.off) ∧ (s.stopped = false) ∧ (n ≠
      s.numVfs) ∧ (∀ (x : PartRec), x ∈ s.parts → x.p < 8) ∧ ((List.map PartRec.p s.parts).Nodup)) ∧
    (∃ (s : State) (f : HostFault), (s.maps.wf = true) ∧ (∀ (x : Nat × Nat), x ∈ f.ring → x.fst < 8 ∧ x.snd < 16) ∧ (∀ (b : Nat), b ∈
      f.blk → b < 268435456)) ∧
    (∃ (s : State) (f : HostFault), (s.maps.wf = true) ∧ (∀ (x : Nat × Nat), x ∈ f.ring → x.fst < 8 ∧ x.snd < 16) ∧ (∀ (b : Nat), b ∈
      f.blk → b < 268435456)) ∧
    (∃ (s : State) (c : Instr), (s.maps.wf = true) ∧ (c = Instr.prepareRemove 0 ∨ c = Instr.d3hotEntry 0) ∧ (s.boot = BootPhase.firmware)
      ∧ (s.dying = true ∨ s.rd 8 19 19 = 1)) ∧
    (∃ (s : State) (c : Instr), (s.maps.wf = true) ∧ (c = Instr.prepareRemove 0 ∨ c = Instr.d3hotEntry 0) ∧ (s.boot = BootPhase.firmware)
      ∧ (s.dying = false) ∧ (s.rd 8 19 19 = 0) ∧ (s.loading = none) ∧ (s.fatal = true)) ∧
    (∃ (s : State) (c : Instr), (s.maps.wf = true) ∧ (c = Instr.prepareRemove 0 ∨ c = Instr.d3hotEntry 0) ∧ (s.boot = BootPhase.firmware)
      ∧ (s.dying = false) ∧ (s.rd 8 19 19 = 0) ∧ (s.loading = none) ∧ (s.fatal = false) ∧ (∃ k, k ∈ s.ctxCmds ∧ s.pstate k.p = 1)) ∧
    (∃ (s : State) (c : Instr), (s.maps.wf = true) ∧ (c = Instr.prepareRemove 0 ∨ c = Instr.d3hotEntry 0) ∧ (s.boot = BootPhase.firmware)
      ∧ (s.dying = false) ∧ (s.rd 8 19 19 = 0) ∧ (s.loading = none) ∧ (s.fatal = false) ∧ (∀ (k : CtxCmd), k ∈ s.ctxCmds → s.pstate k.p ≠
      1)) ∧
    (∃ (s : State) (fn : Nat), (fn ≤ 8) ∧ (fn ≠ 0)) ∧
    (∃ (s : State) (f : HostFault), (s.maps.wf = true) ∧ (∀ (x : Nat × Nat), x ∈ f.ring → x.fst < 8 ∧ x.snd < 16) ∧ (∀ (b : Nat), b ∈
      f.blk → b < 268435456)) :=
  ⟨⟨vf2, 3, by decide +kernel⟩,
   ⟨vf2, 2, by decide +kernel⟩,
   ⟨vf2, 2, true, by decide +kernel⟩,
   ⟨vf2, 1, true, by decide +kernel⟩,
   ⟨vf2, 8, false, by decide +kernel⟩,
   ⟨ringRead, ⟨true, some 0xFFFFFFF, some (0, 0)⟩, by decide +kernel⟩,
   ⟨ringRead, ⟨false, none, none⟩, by decide +kernel⟩,
   ⟨(dying pRun), (.d3hotEntry 0), by decide +kernel⟩,
   ⟨(fatal pRun), (.prepareRemove 0), by decide +kernel⟩,
   ⟨(runsCmd (cmdTo 0 0) (inState 1 pRun)), (.prepareRemove 0), by decide +kernel⟩,
   ⟨(ringKept { p := 0, r := 0, kept := [cqe 1] } pRun), (.d3hotEntry 0), by decide +kernel⟩,
   ⟨pRun, 8, by decide +kernel⟩,
   ⟨(inHost gMem), ⟨true, some 2, none⟩, by decide +kernel⟩⟩

theorem test_witness_SidebandAndAttestationAnswer :
    (∃ (s : State), (s.maps.wf = true) ∧ (s.boot = BootPhase.firmware)) ∧
    (∃ (s : State) (n : Nat), (s.maps.wf = true) ∧ (s.boot = BootPhase.firmware) ∧ (n ≤ 34)) ∧
    (∃ (s : State) (w : Nat), (s.maps.wf = true) ∧ (s.boot = BootPhase.firmware)) ∧
    (∃ (s : State) (w : Nat), (s.maps.wf = true) ∧ (s.boot = BootPhase.firmware)) ∧
    (∃ (s : State) (n w : Nat), (s.maps.wf = true) ∧ (s.boot ≠ BootPhase.firmware) ∧ (n ≤ 34)) ∧
    (∃ (s : State) (c : Instr) (a : SpdmAnswer), (c = Instr.spdmGetVersion ∧ a = SpdmAnswer.version 1 3 ∨ c = Instr.spdmGetCapabilities ∧
      a = SpdmAnswer.capabilities ∨ s.fuses.idKey = true ∧ (c = Instr.spdmNegotiateAlgorithms ∧ a = SpdmAnswer.algorithms ∨ c =
      Instr.spdmGetDigests ∧ a = SpdmAnswer.digests (sha48 Config.certChain) ∨ (∃ off len, c = Instr.spdmGetCertificate off len ∧ a =
      SpdmAnswer.certificate (List.take len (List.drop off Config.certChain))) ∨ c = Instr.spdmUnsupported ∧ a = SpdmAnswer.unsupported ∨ ∃
      i nonce, (i = 0 ∨ 6 < i) ∧ i ≠ 255 ∧ c = Instr.spdmGetMeasurements i nonce ∧ a = SpdmAnswer.unsupported)) ∧ (s.boot =
      BootPhase.firmware)) ∧
    (∃ (s : State) (c : Instr) (a : SpdmAnswer), (c = Instr.spdmGetVersion ∧ a = SpdmAnswer.version 1 3 ∨ c = Instr.spdmGetCapabilities ∧
      a = SpdmAnswer.capabilities ∨ s.fuses.idKey = true ∧ (c = Instr.spdmNegotiateAlgorithms ∧ a = SpdmAnswer.algorithms ∨ c =
      Instr.spdmGetDigests ∧ a = SpdmAnswer.digests (sha48 Config.certChain) ∨ (∃ off len, c = Instr.spdmGetCertificate off len ∧ a =
      SpdmAnswer.certificate (List.take len (List.drop off Config.certChain))) ∨ c = Instr.spdmUnsupported ∧ a = SpdmAnswer.unsupported ∨ ∃
      i nonce, (i = 0 ∨ 6 < i) ∧ i ≠ 255 ∧ c = Instr.spdmGetMeasurements i nonce ∧ a = SpdmAnswer.unsupported)) ∧ (s.boot =
      BootPhase.firmware)) ∧
    (∃ (s : State) (c : Instr) (a : SpdmAnswer), (c = Instr.spdmGetVersion ∧ a = SpdmAnswer.version 1 3 ∨ c = Instr.spdmGetCapabilities ∧
      a = SpdmAnswer.capabilities ∨ s.fuses.idKey = true ∧ (c = Instr.spdmNegotiateAlgorithms ∧ a = SpdmAnswer.algorithms ∨ c =
      Instr.spdmGetDigests ∧ a = SpdmAnswer.digests (sha48 Config.certChain) ∨ (∃ off len, c = Instr.spdmGetCertificate off len ∧ a =
      SpdmAnswer.certificate (List.take len (List.drop off Config.certChain))) ∨ c = Instr.spdmUnsupported ∧ a = SpdmAnswer.unsupported ∨ ∃
      i nonce, (i = 0 ∨ 6 < i) ∧ i ≠ 255 ∧ c = Instr.spdmGetMeasurements i nonce ∧ a = SpdmAnswer.unsupported)) ∧ (s.boot =
      BootPhase.firmware)) ∧
    (∃ (s : State) (nonce : List Byte), (s.boot = BootPhase.firmware) ∧ (s.fuses.idKey = true)) ∧
    (∃ (s : State) (nonce : List Byte) (i : Nat), (s.boot = BootPhase.firmware) ∧ (s.fuses.idKey = true) ∧ (1 ≤ i) ∧ (i ≤ 6)) ∧
    (∃ (s : State) (nonce : List Byte) (i : Nat), (s.boot = BootPhase.firmware) ∧ (s.fuses.idKey = true) ∧ (1 ≤ i) ∧ (i ≤ 6)) ∧
    (∃ (s : State), (s.boot ≠ BootPhase.firmware)) :=
  ⟨⟨pRun, by decide +kernel⟩,
   ⟨pRun, 34, by decide +kernel⟩,
   ⟨pRun, 399, by decide +kernel⟩,
   ⟨pRun, 1651, by decide +kernel⟩,
   ⟨State.reset, 34, 1651, by decide +kernel⟩,
   ⟨pRun, (.spdmGetCertificate 3 5), (.certificate ((Config.certChain.drop 3).take 5)), .inr (.inr ⟨by decide +kernel, .inr (.inr (.inl
     ⟨3, 5, rfl, rfl⟩))⟩), by decide +kernel⟩,
   ⟨pRun, (.spdmGetMeasurements 7 []), .unsupported, .inr (.inr ⟨by decide +kernel, .inr (.inr (.inr (.inr ⟨7, [], .inr (by decide), by
     decide, rfl, rfl⟩)))⟩), by decide +kernel⟩,
   ⟨pRun, .spdmGetVersion, (.version 1 3), .inl ⟨rfl, rfl⟩, by decide +kernel⟩,
   ⟨pRun, [], by decide +kernel⟩,
   ⟨pRun, [], 1, by decide +kernel⟩,
   ⟨pRun, [], 6, by decide +kernel⟩,
   ⟨State.reset, by decide +kernel⟩⟩

theorem test_witness_SecurityCommandsAndFormationLoads :
    (∃ (s : State) (slot op : Nat) (c : Instr), (s.maps.wf = true) ∧ (s.answers 8388668 = true) ∧ ((c, op) ∈ [(Instr.stageFw 0 [], 1),
      (Instr.stageForm 0 [], 2), (Instr.formLoad 0 slot, 3), (Instr.lcTransition 0 [], 4), (Instr.debugOpen 0 [], 5), (Instr.debugClose 0,
      6)]) ∧ (s.secBusy = true)) ∧
    (∃ (s : State) (slot op : Nat) (c : Instr), (s.maps.wf = true) ∧ (s.answers 8388668 = true) ∧ ((c, op) ∈ [(Instr.stageFw 0 [], 1),
      (Instr.stageForm 0 [], 2), (Instr.formLoad 0 slot, 3), (Instr.lcTransition 0 [], 4), (Instr.debugOpen 0 [], 5), (Instr.debugClose 0,
      6)]) ∧ (s.secBusy = false) ∧ (s.boot = BootPhase.recovery) ∧ (op ≠ 1)) ∧
    (∃ (s : State) (fn slot : Nat) (c : Instr), (1 ≤ fn) ∧ (fn ≤ 8) ∧ (c ∈ [Instr.stageFw fn [], Instr.stageForm fn [], Instr.formLoad fn
      slot, Instr.lcTransition fn [], Instr.debugOpen fn [], Instr.debugClose fn])) ∧
    (∃ (s : State) (r k : Nat), (r = s.fwCheck (s.hostAt s.secAddr) (min 67108864 s.secLen)) ∧ (k = s.fwTarget) ∧ (s.maps.wf = true) ∧
      (s.answers 8388668 = true) ∧ (s.secBusy = false)) ∧
    (∃ (s : State) (r k : Nat), (r = s.fwCheck (s.hostAt s.secAddr) (min 67108864 s.secLen)) ∧ (k = s.fwTarget) ∧ (s.maps.wf = true) ∧
      (s.answers 8388668 = true) ∧ (s.secBusy = false)) ∧
    (∃ (s : State) (r k : Nat), (r = s.fmCheck5 (s.hostAt s.secAddr) (min 33554432 s.secLen)) ∧ (k = s.formTarget) ∧ (s.maps.wf = true) ∧
      (s.answers 8388668 = true) ∧ (s.secBusy = false) ∧ (s.boot = BootPhase.firmware)) ∧
    (∃ (s : State) (slot : Nat), (s.maps.wf = true) ∧ (s.answers 8388668 = true) ∧ (s.secBusy = false) ∧ (s.boot = BootPhase.firmware) ∧
      (s.formLoadResult slot ≠ 0)) ∧
    (∃ (s : State) (r new : Nat), (r = s.signedResult 4) ∧ (s.maps.wf = true) ∧ (s.answers 8388668 = true) ∧ (s.secBusy = false) ∧ (s.boot
      = BootPhase.firmware) ∧ (new = imNat (s.hostAt s.secAddr) 48 4)) ∧
    (∃ (s : State) (r new : Nat), (r = s.signedResult 4) ∧ (s.maps.wf = true) ∧ (s.answers 8388668 = true) ∧ (s.secBusy = false) ∧ (s.boot
      = BootPhase.firmware) ∧ (new = imNat (s.hostAt s.secAddr) 48 4)) ∧
    (∃ (s : State) (r new : Nat), (r = s.signedResult 4) ∧ (s.maps.wf = true) ∧ (s.answers 8388668 = true) ∧ (s.secBusy = false) ∧ (s.boot
      = BootPhase.firmware) ∧ (new = imNat (s.hostAt s.secAddr) 48 4)) ∧
    (∃ (s : State) (r : Nat), (r = s.signedResult 5) ∧ (s.maps.wf = true) ∧ (s.answers 8388668 = true) ∧ (s.secBusy = false) ∧ (s.boot =
      BootPhase.firmware)) ∧
    (∃ (s : State) (r : Nat), (r = s.signedResult 5) ∧ (s.maps.wf = true) ∧ (s.answers 8388668 = true) ∧ (s.secBusy = false) ∧ (s.boot =
      BootPhase.firmware)) ∧
    (∃ (s : State), (s.maps.wf = true) ∧ (s.answers 8388668 = true) ∧ (s.secBusy = false) ∧ (s.boot = BootPhase.firmware)) ∧
    (∃ (s : State), (s.maps.wf = true) ∧ (s.fuses.state = 2 ∨ s.fuses.state = 3) ∧ (s.rd 8388672 2 0 ≠ 0)) ∧
    (∃ (s : State), (s.maps.wf = true) ∧ (s.rd 8388672 2 0 = 0)) ∧
    (∃ (s : State) (c : SecCmd), (s.maps.wf = true) ∧ (s.sec = some c) ∧ (c.result < 16) ∧ (c.op = 3) ∧ (s.loading.isSome = true)) ∧
    (∃ (s : State) (c : SecCmd), (s.maps.wf = true) ∧ (s.sec = some c) ∧ (c.result < 16) ∧ (c.result ≠ 0 ∨ c.op = 1 ∨ c.op = 2 ∨ c.op = 3
      ∨ c.op = 6) ∧ (c.op = 3 → s.loading = none) ∧ (1 ≤ c.op) ∧ (c.op ≤ 6)) ∧
    (∃ (s : State) (c : SecCmd), (s.maps.wf = true) ∧ (s.sec = some c) ∧ (c.result < 16) ∧ (c.result ≠ 0 ∨ c.op = 1 ∨ c.op = 2 ∨ c.op = 3
      ∨ c.op = 6) ∧ (c.op = 3 → s.loading = none) ∧ (1 ≤ c.op) ∧ (c.op ≤ 6)) ∧
    (∃ (s : State) (c : SecCmd), (s.maps.wf = true) ∧ (s.sec = some c) ∧ (c.result < 16) ∧ (c.result = 0) ∧ (c.op = 5)) ∧
    (∃ (s : State) (c : SecCmd), (s.maps.wf = true) ∧ (s.sec = some c) ∧ (c.result < 16) ∧ (c.result = 0) ∧ (c.op = 4) ∧ (s.boot =
      BootPhase.firmware) ∧ (s.dying = false) ∧ (s.removal ≠ 3)) ∧
    (∃ (s : State) (kat : List (Nat × Nat)), (s.maps.wf = true) ∧ (∀ (x : Nat × Nat), x ∈ kat → x.fst < 8) ∧ (s.loading = none)) ∧
    (∃ (s : State) (kat : List (Nat × Nat)) (slot : Nat) (b : Nat → Byte), (∀ (i : Nat), i < 512 → s.pcState i ≠ 1 ∧ s.pcState i ≠ 2) ∧ (b
      = s.flashAt (formSlotAt slot)) ∧ (s.maps.wf = true) ∧ (∀ (x : Nat × Nat), x ∈ kat → x.fst < 8) ∧ (s.loading = some slot) ∧ (slot < 2)
      ∧ (s.boot = BootPhase.firmware) ∧ (s.stopped = false) ∧ (s.ctxCmds = []) ∧ (2 ≤ s.failedPcs.length ∨ kat ≠ [])) ∧
    (∃ (s : State) (kat : List (Nat × Nat)) (slot : Nat) (b : Nat → Byte), (∀ (i : Nat), i < 512 → s.pcState i ≠ 1 ∧ s.pcState i ≠ 2) ∧ (b
      = s.flashAt (formSlotAt slot)) ∧ (s.maps.wf = true) ∧ (∀ (x : Nat × Nat), x ∈ kat → x.fst < 8) ∧ (s.loading = some slot) ∧ (slot < 2)
      ∧ (s.boot = BootPhase.firmware) ∧ (s.stopped = false) ∧ (s.ctxCmds = []) ∧ (s.failedPcs.length < 2) ∧ (kat = []) ∧ (∀ (x : PartRec), x
      ∈ fmParts b → ∀ (d : Nat), d ∈ x.dies → d < 8 ∧ ∃ k, k < 17 ∧ s.engineState b d k = 0)) :=
  ⟨⟨(busy pRun), 0, 3, (.formLoad 0 0), by decide +kernel⟩,
   ⟨(bootIn .recovery fw), 0, 2, (.stageForm 0 []), by decide +kernel⟩,
   ⟨pRun, 8, 2, (.lcTransition 8 []), by decide +kernel⟩,
   ⟨(offered 0 pRun), ((offered 0 pRun).fwCheck ((offered 0 pRun).hostAt (offered 0 pRun).secAddr) (min 0x4000000 (offered 0
     pRun).secLen)), (offered 0 pRun).fwTarget, rfl, rfl, by decide +kernel⟩,
   ⟨(offered 64 pRun), ((offered 64 pRun).fwCheck ((offered 64 pRun).hostAt (offered 64 pRun).secAddr) (min 0x4000000 (offered 64
     pRun).secLen)), (offered 64 pRun).fwTarget, rfl, rfl, by decide +kernel⟩,
   ⟨(offeredForm pRun), ((offeredForm pRun).fmCheck5 ((offeredForm pRun).hostAt (offeredForm pRun).secAddr) (min 0x2000000 (offeredForm
     pRun).secLen)), (offeredForm pRun).formTarget, rfl, rfl, by decide +kernel⟩,
   ⟨(fatal pRun), 1, by decide +kernel⟩,
   ⟨(inLife 3 (offeredCmd 4 4 0 pRun)), ((inLife 3 (offeredCmd 4 4 0 pRun)).signedResult 4), 4, rfl, by decide +kernel⟩,
   ⟨(offeredCmd 4 4 0 pRun), ((offeredCmd 4 4 0 pRun).signedResult 4), 4, rfl, by decide +kernel⟩,
   ⟨(offeredCmd 4 2 0 pRun), ((offeredCmd 4 2 0 pRun).signedResult 4), 2, rfl, by decide +kernel⟩,
   ⟨(offeredCmd 5 7 86400 pRun), ((offeredCmd 5 7 86400 pRun).signedResult 5), rfl, by decide +kernel⟩,
   ⟨(offeredCmd 5 7 86401 pRun), ((offeredCmd 5 7 86401 pRun).signedResult 5), rfl, by decide +kernel⟩,
   ⟨(token pRun), by decide +kernel⟩,
   ⟨(token (inLife 3 pRun)), by decide +kernel⟩,
   ⟨pRun, by decide +kernel⟩,
   ⟨(loads 1 (secIs (secOf 3 0 1) pRun)), (secOf 3 0 1), by decide +kernel⟩,
   ⟨(secIs (secOf 2 0 1) pRun), (secOf 2 0 1), by decide +kernel⟩,
   ⟨(secIs (secOf 4 15 1) pRun), (secOf 4 15 1), by decide +kernel⟩,
   ⟨(secIs (secOf 5 0 7) pRun), (secOf 5 0 7), by decide +kernel⟩,
   ⟨(secIs (secOf 4 0 4) pRun), (secOf 4 0 4), by decide +kernel⟩,
   ⟨pRun, [(7, 127)], by decide +kernel⟩,
   ⟨(loads 1 (formImage 1 pRun)), [(7, 127)], 1, ((loads 1 (formImage 1 pRun)).flashAt (formSlotAt 1)), channels_quiet, rfl,
     by decide +kernel⟩,
   ⟨(loads 1 (formImage 1 pRun)), [], 1, ((loads 1 (formImage 1 pRun)).flashAt (formSlotAt 1)), channels_quiet, rfl, by decide +kernel⟩⟩

theorem test_witness_TestHoldGeneratorsAndSelfTests :
    (∃ (s : State) (v : W32), (s.maps.wf = true) ∧ (s.answers 7377152 = true) ∧ (s.stopped = false) ∧ (bit (BitVec.toNat v) 0 = false)) ∧
    (∃ (s : State) (v : W32), (s.maps.wf = true) ∧ (s.answers 7377152 = true) ∧ (s.stopped = false) ∧ (bit (BitVec.toNat v) 1 = false)) ∧
    (∃ (s : State) (v : W32), (s.maps.wf = true) ∧ (s.answers 7377152 = true) ∧ (s.stopped = false) ∧ (bit (BitVec.toNat v) 0 = true) ∧
      (s.held = false) ∧ (s.holding = false) ∧ (s.inUse = true)) ∧
    (∃ (s : State) (v : W32), (s.maps.wf = true) ∧ (s.answers 7377152 = true) ∧ (s.stopped = false) ∧ (bit (BitVec.toNat v) 0 = true) ∧
      (s.held = false) ∧ (s.holding = false) ∧ (s.inUse = false)) ∧
    (∃ (s : State) (v : W32), (s.maps.wf = true) ∧ (s.answers 7377152 = true) ∧ (s.stopped = false) ∧ (bit (BitVec.toNat v) 0 = true) ∧
      (s.held = true ∨ s.holding = true)) ∧
    (∃ (s : State) (v : W32), (s.maps.wf = true) ∧ (s.answers 7377152 = true) ∧ (s.stopped = false) ∧ (bit (BitVec.toNat v) 0 = true) ∧
      (s.held = true ∨ s.holding = true)) ∧
    (∃ (s : State) (v : W32), (s.maps.wf = true) ∧ (s.answers 7377152 = true) ∧ (s.stopped = false) ∧ (bit (BitVec.toNat v) 1 = true) ∧
      (s.held = true) ∧ (s.testing = false)) ∧
    (∃ (s : State) (v : W32), (s.maps.wf = true) ∧ (s.answers 7377152 = true) ∧ (s.stopped = false) ∧ (bit (BitVec.toNat v) 1 = true) ∧
      (s.held = false ∨ s.testing = true)) ∧
    (∃ (s : State) (v : W32), (s.maps.wf = true) ∧ (s.answers 7377152 = true) ∧ (s.stopped = false) ∧ (bit (BitVec.toNat v) 1 = true) ∧
      (s.held = false ∨ s.testing = true)) ∧
    (∃ (s : State), (s.maps.wf = true) ∧ (s.holding = true) ∧ (s.stopped = false)) ∧
    (∃ (s : State), (s.maps.wf = true) ∧ (s.holding = false)) ∧
    (∃ (s : State), (s.maps.wf = true) ∧ (s.testing = true) ∧ (s.diagStop = true)) ∧
    (∃ (s : State), (s.maps.wf = true) ∧ (s.testing = false ∨ s.diagStop = false)) ∧
    (∃ (s : State) (tests : Nat) (requal : Bool) (fails : List DiagFail), (s.maps.wf = true) ∧ (s.diag = some (tests, requal)) ∧
      (s.stopped = false) ∧ (s.tripped = false) ∧ (s.diagStop = false)) ∧
    (∃ (s : State) (tests : Nat) (requal : Bool) (fails : List DiagFail), (s.maps.wf = true) ∧ (s.diag = some (tests, requal)) ∧
      (s.stopped = false) ∧ (s.tripped = false) ∧ (s.diagStop = false)) ∧
    (∃ (s : State) (tests : Nat) (requal : Bool) (fails : List DiagFail), (s.maps.wf = true) ∧ (s.diag = some (tests, requal)) ∧
      (s.stopped = false) ∧ (s.tripped = false) ∧ (s.diagStop = false)) ∧
    (∃ (s : State) (ch core : Nat) (v : W64), (s.maps.wf = true) ∧ (ch < 256) ∧ (core < 8) ∧ (s.answers (Addr.tg ch 0) = true) ∧
      (s.stopped = false) ∧ (getBits v 0 0 = 1) ∧ (s.held = true) ∧ (s.rd (Addr.tg ch 24) 0 0 = 0) ∧ (s.rd (Addr.tg ch 8) 22 0 ≤ s.rd
      (Addr.tg ch 8) 54 32)) ∧
    (∃ (s : State) (ch core : Nat) (v : W64), (s.maps.wf = true) ∧ (ch < 256) ∧ (core < 8) ∧ (s.answers (Addr.tg ch 0) = true) ∧
      (s.stopped = false) ∧ (getBits v 0 0 = 1) ∧ (s.held = false ∨ s.rd (Addr.tg ch 24) 0 0 = 1 ∨ s.rd (Addr.tg ch 8) 54 32 < s.rd (Addr.tg
      ch 8) 22 0)) ∧
    (∃ (s : State) (ch core : Nat) (v : W64), (s.maps.wf = true) ∧ (ch < 256) ∧ (core < 8) ∧ (s.answers (Addr.tg ch 0) = true) ∧
      (s.stopped = false) ∧ (getBits v 0 0 = 1) ∧ (s.held = false ∨ s.rd (Addr.tg ch 24) 0 0 = 1 ∨ s.rd (Addr.tg ch 8) 54 32 < s.rd (Addr.tg
      ch 8) 22 0)) ∧
    (∃ (s : State) (ch core : Nat) (v : W64), (s.maps.wf = true) ∧ (ch < 256) ∧ (core < 8) ∧ (s.answers (Addr.tg ch 0) = true) ∧
      (s.stopped = false) ∧ (getBits v 1 1 = 1) ∧ (s.rd (Addr.tg ch 24) 0 0 = 1)) ∧
    (∃ (s : State) (ch : Nat) (r : TgResult), (s.maps.wf = true) ∧ (ch < 256) ∧ (s.stopped = false) ∧ (s.rd (Addr.tg ch 24) 0 0 = 0 ∨
      s.tripped = true ∨ s.rd (Addr.tg ch 0) 31 24 = 0 ∧ ¬ch ∈ s.tgStops)) ∧
    (∃ (s : State) (ch : Nat) (r : TgResult), (s.maps.wf = true) ∧ (ch < 256) ∧ (s.stopped = false) ∧ (s.rd (Addr.tg ch 24) 0 0 = 1) ∧
      (s.tripped = false) ∧ (s.rd (Addr.tg ch 0) 31 24 ≠ 0 ∨ ch ∈ s.tgStops)) ∧
    (∃ (s : State) (ch : Nat) (r : TgResult), (s.maps.wf = true) ∧ (ch < 256) ∧ (s.stopped = false) ∧ (s.rd (Addr.tg ch 24) 0 0 = 1) ∧
      (s.tripped = false) ∧ (s.rd (Addr.tg ch 0) 31 24 ≠ 0 ∨ ch ∈ s.tgStops)) ∧
    (∃ (s : State) (ch : Nat) (r : TgResult), (s.maps.wf = true) ∧ (ch < 256) ∧ (s.stopped = false) ∧ (s.rd (Addr.tg ch 24) 0 0 = 0 ∨
      s.tripped = true ∨ s.rd (Addr.tg ch 0) 31 24 = 0 ∧ ¬ch ∈ s.tgStops)) :=
  ⟨⟨pRun, 6, by decide +kernel⟩,
   ⟨pRun, 5, by decide +kernel⟩,
   ⟨pRun, 1, by decide +kernel⟩,
   ⟨ringsDown, 1, by decide +kernel⟩,
   ⟨(heldIn ringsDown), 1, by decide +kernel⟩,
   ⟨(holdOn ringsDown), 1, by decide +kernel⟩,
   ⟨(heldIn ringsDown), 0xFF06, by decide +kernel⟩,
   ⟨ringsDown, 0xFF06, by decide +kernel⟩,
   ⟨(testRun 255 true ringsDown), 0xFF06, by decide +kernel⟩,
   ⟨(holdOn ringsDown), by decide +kernel⟩,
   ⟨pRun, by decide +kernel⟩,
   ⟨(hot (testRun 255 true ringsDown)), by decide +kernel⟩,
   ⟨(testRun 255 true ringsDown), by decide +kernel⟩,
   ⟨(testRun 255 false ringsDown), 255, false, [], by decide +kernel⟩,
   ⟨(mapped (testRun 255 true ringsDown)), 255, true, [⟨0, 3, 0⟩, ⟨4, 0x3005, 0⟩, ⟨7, 0x1203, 0⟩, ⟨9, 0x1203, 0⟩], by decide +kernel⟩,
   ⟨(testRun 1 true ringsDown), 1, true, [⟨0, 3, 0⟩, ⟨1, 3, 0⟩], by decide +kernel⟩,
   ⟨(tgLines 8388607 8388607 (heldIn ringsDown)), 255, 7, 0x301, by decide +kernel⟩,
   ⟨ringsDown, 255, 7, 1, by decide +kernel⟩,
   ⟨(tgLines 5 4 (heldIn ringsDown)), 255, 7, 1, by decide +kernel⟩,
   ⟨(tgRuns 0 ringsDown), 255, 0, 2, by decide +kernel⟩,
   ⟨(tgRuns 0 ringsDown), 255, ⟨0, 5, 2, 1, some 7⟩, by decide +kernel⟩,
   ⟨(tgRuns 3 ringsDown), 255, ⟨3, 5, 2, 1, some 7⟩, by decide +kernel⟩,
   ⟨(tgRuns 3 ringsDown), 255, ⟨3, 5, 0, 1, none⟩, by decide +kernel⟩,
   ⟨{ tgRuns 3 ringsDown with tripped := true }, 255, ⟨3, 5, 2, 1, some 7⟩, by decide +kernel⟩⟩

theorem test_witness_ScorebookMirrorsAndFlushes :
    (∃ (s : State), (s.maps.wf = true) ∧ (s.boot = BootPhase.firmware) ∧ (s.sb.mirrored < s.sb.head)) ∧
    (∃ (s : State), (s.maps.wf = true) ∧ (s.boot ≠ BootPhase.firmware ∨ s.sb.head ≤ s.sb.mirrored)) ∧
    (∃ (s : State) (reason : Nat) (rest : List Nat) (unreadable : Bool), (s.maps.wf = true) ∧ (s.sb.waiting = reason :: rest) ∧ (s.boot =
      BootPhase.firmware) ∧ (s.sb.flushing = none) ∧ (s.sb.segs.getD s.sb.nextSeg none = none) ∧ (s.sb.erasing ≠ some s.sb.nextSeg)) ∧
    (∃ (s : State) (reason : Nat) (rest : List Nat) (unreadable : Bool), (s.maps.wf = true) ∧ (s.sb.waiting = reason :: rest) ∧ (s.boot ≠
      BootPhase.firmware ∨ s.sb.flushing.isSome = true ∨ (s.sb.segs.getD s.sb.nextSeg none).isSome = true ∨ s.sb.erasing = some
      s.sb.nextSeg)) ∧
    (∃ (s : State) (reason : Nat) (rest : List Nat) (unreadable : Bool), (s.maps.wf = true) ∧ (s.sb.waiting = reason :: rest) ∧ (s.boot ≠
      BootPhase.firmware ∨ s.sb.flushing.isSome = true ∨ (s.sb.segs.getD s.sb.nextSeg none).isSome = true ∨ s.sb.erasing = some
      s.sb.nextSeg)) ∧
    (∃ (s : State) (unreadable : Bool), (s.maps.wf = true) ∧ (s.sb.waiting = [])) ∧
    (∃ (s : State), (s.maps.wf = true) ∧ (s.sb.flushing = none)) ∧
    (∃ (s : State) (seg reason : Nat) (recs : List SbRec), (s.maps.wf = true) ∧ (s.sb.flushing = some (seg, reason, recs)) ∧ (s.dying =
      false ∨ reason ≠ 2) ∧ (s.removal ≠ 2 ∨ reason ≠ 1)) ∧
    (∃ (s : State) (seg reason : Nat) (recs : List SbRec), (s.maps.wf = true) ∧ (s.sb.flushing = some (seg, reason, recs)) ∧ (s.dying =
      false ∨ reason ≠ 2) ∧ (s.removal ≠ 2 ∨ reason ≠ 1)) ∧
    (∃ (s : State) (seg reason : Nat) (recs : List SbRec), (s.maps.wf = true) ∧ (s.sb.flushing = some (seg, reason, recs)) ∧ (s.removal =
      2) ∧ (reason = 1) ∧ (s.dying = false)) ∧
    (∃ (s : State) (seg reason : Nat) (recs : List SbRec), (s.maps.wf = true) ∧ (s.sb.flushing = some (seg, reason, recs)) ∧ (s.dying =
      true) ∧ (reason = 2) ∧ (s.quiescing = false) ∧ (¬2 ∈ s.sb.waiting) ∧ (s.fuses.returning = false)) ∧
    (∃ (s : State) (seg reason : Nat) (recs : List SbRec), (s.maps.wf = true) ∧ (s.sb.flushing = some (seg, reason, recs)) ∧ (s.dying =
      true) ∧ (reason = 2) ∧ (s.quiescing = true ∨ 2 ∈ s.sb.waiting)) ∧
    (∃ (s : State) (i : Nat), (s.maps.wf = true) ∧ (s.sb.erasing = some i)) ∧
    (∃ (s : State), (s.maps.wf = true) ∧ (s.sb.erasing = none)) :=
  ⟨⟨(booked { head := 3 } pRun), by decide +kernel⟩,
   ⟨pRun, by decide +kernel⟩,
   ⟨(booked { waiting := [4, 1], nextSeg := 7, head := 3 } pRun), 4, [1], true, by decide +kernel⟩,
   ⟨(booked { flushIs 2 4 with waiting := [1] } pRun), 1, [], false, by decide +kernel⟩,
   ⟨(booked { waiting := [1], nextSeg := 7, erasing := some 7 } pRun), 1, [], false, by decide +kernel⟩,
   ⟨pRun, true, by decide +kernel⟩,
   ⟨pRun, by decide +kernel⟩,
   ⟨(booked (flushIs 7 4) pRun), 7, 4, [], by decide +kernel⟩,
   ⟨(dying (booked (flushIs 7 4) pRun)), 7, 4, [], by decide +kernel⟩,
   ⟨(leftBy 2 (booked (flushIs 7 1) pRun)), 7, 1, [], by decide +kernel⟩,
   ⟨(dying (booked (flushIs 7 2) pRun)), 7, 2, [], by decide +kernel⟩,
   ⟨(pcIn 511 1 (dying (booked (flushIs 7 2) pRun))), 7, 2, [], by decide +kernel⟩,
   ⟨(booked { erasing := some 3, segs := (flushIs 3 1).segs } pRun), 3, by decide +kernel⟩,
   ⟨pRun, by decide +kernel⟩⟩

theorem test_witness_LimitsOfHeatAndPower :
    (∃ (s : State) (n temp : Nat), (s.maps.wf = true) ∧ (n < 28) ∧ (s.boot ≠ BootPhase.firmware ∨ temp < s.critOf n)) ∧
    (∃ (s : State) (n temp : Nat), (s.maps.wf = true) ∧ (n < 28) ∧ (s.boot ≠ BootPhase.firmware ∨ temp < s.critOf n)) ∧
    (∃ (s : State) (n temp : Nat), (s.maps.wf = true) ∧ (n < 28) ∧ (s.boot = BootPhase.firmware) ∧ (s.critOf n ≤ temp)) ∧
    (∃ (s : State) (n temp : Nat), (s.maps.wf = true) ∧ (n < 28) ∧ (s.boot = BootPhase.firmware) ∧ (s.critOf n ≤ temp)) ∧
    (∃ (s : State) (n temp : Nat), (s.maps.wf = true) ∧ (n < 28) ∧ (s.boot = BootPhase.firmware) ∧ (s.critOf n ≤ temp)) ∧
    (∃ (s : State) (dies hbms : List Nat), (s.maps.wf = true) ∧ (dies.length = 20) ∧ (hbms.length = 8) ∧ (s.rd 10485760 2 2 = 0 ∨ ∃ n, n <
      28 ∧ s.critOf n < (dies ++ hbms).getD n 0 + 10)) ∧
    (∃ (s : State) (dies hbms : List Nat), (s.maps.wf = true) ∧ (dies.length = 20) ∧ (hbms.length = 8) ∧ (s.rd 10485760 2 2 = 1) ∧ (∀ (n :
      Nat), n < 28 → (dies ++ hbms).getD n 0 + 10 ≤ s.critOf n)) ∧
    (∃ (s : State) (dies hbms : List Nat), (s.maps.wf = true) ∧ (dies.length = 20) ∧ (hbms.length = 8) ∧ (s.rd 10485760 2 2 = 0 ∨ ∃ n, n <
      28 ∧ s.critOf n < (dies ++ hbms).getD n 0 + 10)) ∧
    (∃ (s : State), (s.maps.wf = true) ∧ (s.boot = BootPhase.firmware) ∧ (s.rd 10485760 15 8 ≠ 64)) ∧
    (∃ (s : State), (s.maps.wf = true) ∧ (s.boot ≠ BootPhase.firmware ∨ s.rd 10485760 15 8 = 64)) ∧
    (∃ (s : State) (w : Nat), (s.maps.wf = true) ∧ (s.boot ≠ BootPhase.firmware ∨ 10 * w ≤ 11 * s.rd 10485772 10 0)) ∧
    (∃ (s : State) (w : Nat), (s.maps.wf = true) ∧ (s.boot = BootPhase.firmware) ∧ (11 * s.rd 10485772 10 0 < 10 * w)) ∧
    (∃ (s : State) (w : Nat), (s.maps.wf = true) ∧ (s.boot = BootPhase.firmware) ∧ (11 * s.rd 10485772 10 0 < 10 * w)) :=
  ⟨⟨pRun, 27, 10, by decide +kernel⟩,
   ⟨(fw), 0, 0, by decide +kernel⟩,
   ⟨pRun, 0, 200, by decide +kernel⟩,
   ⟨pRun, 27, 200, by decide +kernel⟩,
   ⟨(hot pRun), 20, 200, by decide +kernel⟩,
   ⟨pRun, (List.replicate 20 30), (List.replicate 8 30), by decide +kernel⟩,
   ⟨(hot pRun), (List.replicate 20 30), (List.replicate 8 30), by decide +kernel⟩,
   ⟨(hot pRun), (List.replicate 20 30), (List.replicate 8 200), by decide +kernel⟩,
   ⟨(pRun.setFld 0xA00000 15 8 5), by decide +kernel⟩,
   ⟨(pRun.setFld 0xA00000 15 8 64), by decide +kernel⟩,
   ⟨(pRun.setFld 0xA0000C 10 0 500), 550, by decide +kernel⟩,
   ⟨(pRun.setFld 0xA0000C 10 0 500), 551, by decide +kernel⟩,
   ⟨({ pRun with tripped := true }.setFld 0xA0000C 10 0 500), 551, by decide +kernel⟩⟩

/-- The session that opens, where the module supports its coding (R475, a free value). -/
theorem test_witness_CodecSessionsOpenAndClose_open (h : Config.codingOk 1 1 0 0 8 1 = true) :
    ∃ (s : State) (tid : Nat) (x : TaskRec), (s.memGood) ∧ (s.openOk x = true) ∧ (s.maps.wf = true) ∧ (s.task tid = some x) ∧ (s.mayRun x
      = true) ∧ (s.canWriteAll noDie (rngPages [x.cdRecord]) = true) ∧ (x.isKind 4 0 = true) :=
  ⟨(cdMem [] 0 (openJob 1 4 [])), 0, (openJob 1 4 []), memGood_of_side rfl, open_passes h, by decide +kernel⟩

/-- The load that is accepted, where the signature verifies (a free value). -/
theorem test_witness_SecurityCommandsAndFormationLoads_waiting_load
    (h1 : let s := okImage (runsCmd (cmdTo 0 0) pRun)
      State.signedBy (s.flashAt (formSlotAt 1)) (fmBody (s.flashAt (formSlotAt 1))) s.signerDigest = true) :
    ∃ (s : State) (slot : Nat), (s.maps.wf = true) ∧ (s.formLoadResult slot = 0) ∧ (s.answers 8388668 = true) ∧ (s.secBusy = false) ∧
      (s.boot = BootPhase.firmware) ∧ (s.ctxCmds ≠ []) :=
  ⟨(okImage (runsCmd (cmdTo 0 0) pRun)), 1, okImage_wf _ (by decide +kernel), image_passes _ (.inr rfl) h1, by decide +kernel⟩

/-- The load that is accepted, where the signature verifies (a free value). -/
theorem test_witness_SecurityCommandsAndFormationLoads_load
    (h1 : let s := okImage pRun
      State.signedBy (s.flashAt (formSlotAt 1)) (fmBody (s.flashAt (formSlotAt 1))) s.signerDigest = true) :
    ∃ (s : State) (slot : Nat), (s.maps.wf = true) ∧ (s.formLoadResult slot = 0) ∧ (s.answers 8388668 = true) ∧ (s.secBusy = false) ∧
      (s.boot = BootPhase.firmware) ∧ (s.ctxCmds = []) :=
  ⟨(okImage pRun), 1, okImage_wf _ (by decide +kernel), image_passes _ (.inl rfl) h1, by decide +kernel⟩
end Sys2Proof.Tests
end

section
/-! SUPPORT. The statement about loads and generation of randomness bounds no partition number, and the registers of partition 4096,
which no module has, would lie where other registers do: RNG_STATUS of that partition, 0x600008 + 4096 * 0x100, would be RAS_STATUS at
0x700008 (R440). A seed load there raises the fatal state, in which the module has no task left to end. -/
namespace Sys2Proof.Machine
open Sys2Proof

/-- A seed load whose descriptor names the seed block at 0x2000, of a partition that no module has. -/
def strayLoad : TaskRec :=
  { tid := 0, gid := 0, p := 4096, r := 0, seq := 0, idx := 0, tenant := 0, descAddr := 0, phase := .ready
    desc := [3#8, 4#8] ++ List.replicate 31 0#8 ++ [0x20#8] ++ List.replicate 30 0#8 }

/-- A formation whose one partition has the number 4096 and no die, with that task ready and a seed block that names stream 0 alone. -/
def strayState : State :=
  ({ boot := .firmware, parts := [{ p := 4096 }], tasks := [strayLoad], maps := { dev := [(0x2000, 1#8)] } } : State).setFld 0x8 18 18 1

/-- While the fatal state stands, no engine works on any task (R432). -/
theorem State.task_of_fatal {s : State} (h : s.fatal = true) (tid : Nat) : s.task tid = none := by
  simp [State.task, State.stopped, h]

/-- Where the side table is empty, no block is lost and every block passes its check. -/
theorem State.memGood_of_side_nil {s : State} (h : s.maps.side = []) : s.memGood := by
  have hz : ∀ b, s.side b = 0 := fun b => by simp [State.side, h, Sparse.get]
  exact fun b => by simp [State.lost, State.crcBad, hz, getBits, fld]

/-- The seed load in `strayState` meets every hypothesis of its clause. -/
theorem strayState_mayLoad :
    strayState.maps.wf = true ∧ strayState.task 0 = some strayLoad ∧ strayLoad.isKind 3 4 = true ∧ strayState.mayRun strayLoad = true ∧
      strayLoad.loadDescOk false false = true ∧ strayState.devNat (strayLoad.f 0x20 8 + 2) 6 = 0 ∧
      (∀ b ∈ rngBlocks strayLoad.seedReads, strayState.readable (b / 64) = true) ∧
      strayState.canWriteAll ((strayState.taskDies strayLoad).headD 0) (rngPages []) = true := by
  decide +kernel

/-- The load sets bit 0 of RNG_STATUS, and with it RAS_STATUS.FATAL. -/
theorem strayLoad_is_fatal : ∀ t, exec (.seedLoad 0) strayState = .next t → t.fatal = true := by
  have hrun : (match exec (.seedLoad 0) strayState with | .next t => t.fatal | _ => true) = true := by decide +kernel
  intro t ht
  rwa [ht] at hrun

/-- Refutes O32: its seed-load clause takes any partition number. In `strayState` the mark of stream 0 in RNG_STATUS of partition 4096 is
RAS_STATUS.FATAL, so that after the load the task has no record that could read ended. -/
theorem not_loadsAndGenerationOfRandomness : ¬ Obligations.LoadsAndGenerationOfRandomness := by
  unfold Obligations.LoadsAndGenerationOfRandomness
  intro ⟨⟨_, hseed⟩, _⟩
  obtain ⟨hwf, htask, hkind, hrun, hdesc, hres, hreads⟩ := strayState_mayLoad
  obtain ⟨t, ht, ⟨⟨us, hended⟩, _⟩, _⟩ :=
    hseed strayState 0 strayLoad hwf (State.memGood_of_side_nil rfl) htask hkind hrun hdesc hres hreads
  rw [State.task_of_fatal (strayLoad_is_fatal t ht)] at hended
  contradiction

end Sys2Proof.Machine
end

section
/-! SUPPORT. The frames of the statements: what `Keeps` gives, and which groups of state the named operations reach. -/
namespace Sys2Proof.Machine
open Sys2Proof

theorem Group.same_refl (g : Group) (s : State) : g.same s s := by
  cases g <;> simp [Group.same]

theorem Group.same_trans {g : Group} {s t u : State} (h : g.same s t) (h' : g.same t u) : g.same s u := by
  cases g <;> simp_all [Group.same]

theorem Keeps.refl (gs : List Group) (s : State) : Keeps gs s s := fun g _ => g.same_refl s

theorem Keeps.trans {gs : List Group} {s t u : State} (h : Keeps gs s t) (h' : Keeps gs t u) : Keeps gs s u :=
  fun g hg => Group.same_trans (h g hg) (h' g hg)

theorem Keeps.mono {gs hs : List Group} {s t : State} (h : Keeps gs s t) (hsub : gs ⊆ hs) : Keeps hs s t :=
  fun g hg => h g fun hmem => hg (hsub hmem)

theorem State.setTask_keeps (s : State) (x : TaskRec) : Keeps [.tasks] s (s.setTask x) := by
  intro g hg
  cases g <;> simp_all [Group.same, State.devByte, State.hostByte, State.rt, State.side, State.reg, State.ctr, State.snapOf]

theorem State.bump_keeps (s : State) (a n : Nat) : Keeps [.ctrs] s (s.bump a n) := by
  intro g hg
  cases g <;> simp_all [Group.same, State.devByte, State.hostByte, State.rt, State.side, State.reg, State.snapOf]

theorem State.event_keeps (s : State) (c u p x y : Nat) : Keeps [.ctrs, .sb] s (s.event c u p x y) := by
  intro g hg
  cases g <;> simp_all [Group.same, State.devByte, State.hostByte, State.rt, State.side, State.reg, State.snapOf]

theorem Keeps.ctr_eq {gs : List Group} {s t : State} (h : Keeps gs s t) (hg : .ctrs ∉ gs) (a : Nat) : t.ctr a = s.ctr a :=
  h .ctrs hg a

theorem Keeps.tasks_eq {gs : List Group} {s t : State} (h : Keeps gs s t) (hg : .tasks ∉ gs) : t.tasks = s.tasks :=
  (h .tasks hg).1

theorem Keeps.rd_eq {gs : List Group} {s t : State} (h : Keeps gs s t) (hg : .regs ∉ gs) (a hi lo : Nat) : t.rd a hi lo = s.rd a hi lo :=
  congrArg (getBits · hi lo) (h .regs hg a)

/-- Whether every engine has stopped is read from the registers and from the life of the module. -/
theorem Keeps.stopped_eq {gs : List Group} {s t : State} (h : Keeps gs s t) (hl : .life ∉ gs) (hr : .regs ∉ gs) :
    t.stopped = s.stopped := by
  obtain ⟨_, _, _, _, _, _, hdying, _⟩ := h .life hl
  simp only [State.stopped, State.fatal, h.rd_eq hr, hdying]

/-- What changes neither the tasks nor what stops them leaves the task of each number. -/
theorem Keeps.task_eq {gs : List Group} {s t : State} (h : Keeps gs s t) (ht : .tasks ∉ gs) (hl : .life ∉ gs) (hr : .regs ∉ gs)
    (tid : Nat) : t.task tid = s.task tid := by
  simp [State.task, h.stopped_eq hl hr, h.tasks_eq ht]

theorem TasksBut.of_tasks_eq {tid : Nat} {s u t : State} (h : TasksBut tid u t) (hu : u.tasks = s.tasks) : TasksBut tid s t := by
  rwa [TasksBut, hu] at h

/-! The tasks. -/

theorem State.tid_of_task {s : State} {tid : Nat} {x : TaskRec} (h : s.task tid = some x) : x.tid = tid := by
  simp only [State.task] at h
  split at h
  · cases h
  · simpa using List.find?_some h

theorem State.task_setTask {s : State} {x y : TaskRec} (h : s.task y.tid = some x) : (s.setTask y).task y.tid = some y := by
  have hid : x.tid = y.tid := State.tid_of_task h
  have hkey : (fun u : TaskRec => u.tid == y.tid) ∘ (fun u => if u.tid = y.tid then y else u) = fun u => u.tid == y.tid := by
    funext u
    by_cases hu : u.tid = y.tid <;> simp [hu]
  have hstop : (s.setTask y).stopped = s.stopped := (s.setTask_keeps y).stopped_eq (by simp) (by simp)
  simp only [State.task, hstop] at h ⊢
  split at h
  · cases h
  · next hrun => rw [if_neg hrun, State.setTask, List.find?_map, hkey, h, Option.map_some, if_pos hid]

theorem State.setTask_tasksBut (s : State) (y : TaskRec) : TasksBut y.tid s (s.setTask y) := by
  refine ⟨?_, fun z hz hne => ?_⟩
  · simp only [State.setTask, List.map_map]
    refine List.map_congr_left fun u _ => ?_
    by_cases hu : u.tid = y.tid <;> simp [hu]
  · obtain ⟨u, hu, rfl⟩ := List.mem_map.mp hz
    by_cases hid : u.tid = y.tid
    · simp [hid] at hne
    · simpa [hid] using hu

/-- Deciding the outcome of a task that has none ends it, and changes no other task and no other group of state. -/
theorem State.endTask_ends {s : State} {x : TaskRec} (hx : s.task x.tid = some x) (hready : x.phase = .ready) (st : Nat) :
    Ended x st s (s.endTask x.tid st) ∧ Keeps [.tasks] s (s.endTask x.tid st) := by
  have heq : s.endTask x.tid st = s.setTask { x with
      phase := .ended, status := st, slices := [], ran := x.runs st
      units := x.units.map fun u => { u with acc := [], staged := [], bank := none } } := by
    simp [State.endTask, hx, hready]
  rw [heq]
  exact ⟨⟨⟨_, State.task_setTask hx⟩, State.setTask_tasksBut s _⟩, State.setTask_keeps s _⟩

/-- The same after a change that reaches no task and does not stop the engines. -/
theorem Keeps.endTask_ends {gs : List Group} {s u : State} {x : TaskRec} (h : Keeps gs s u) (ht : .tasks ∉ gs) (hl : .life ∉ gs)
    (hr : .regs ∉ gs) (hx : s.task x.tid = some x) (hready : x.phase = .ready) (st : Nat) :
    Ended x st s (u.endTask x.tid st) ∧ Keeps (.tasks :: gs) s (u.endTask x.tid st) := by
  obtain ⟨⟨hrec, hothers⟩, hkeeps⟩ := State.endTask_ends ((h.task_eq ht hl hr _).trans hx) hready st
  exact ⟨⟨hrec, hothers.of_tasks_eq (h.tasks_eq ht)⟩, (h.mono (by simp)).trans (hkeeps.mono (by simp))⟩

end Sys2Proof.Machine
end

section
/-! SUPPORT. Tasks that run in one step: what reading their input blocks finds (R355, R427, R429), the checks before the step, and the
commands that begin one. -/
namespace Sys2Proof.Machine
open Sys2Proof

/-! Reading blocks. -/

theorem State.countFouls_keeps (s : State) (p b unitId : Nat) (narrow : Bool) (n : Nat) :
    Keeps [.ctrs, .sb] s (s.countFouls p b unitId narrow n) := by
  induction n generalizing s with
  | zero => exact Keeps.refl _ s
  | succ n ih =>
    rw [State.countFouls]
    refine Keeps.trans ?_ (ih _)
    cases narrow
    all_goals exact ((s.bump_keeps _ _).mono (by simp)).trans (State.event_keeps _ _ _ _ _ _)

/-- A block that is not lost and passes its check is read at once. -/
theorem State.readBlock_of_good {s : State} {b : Nat} (hl : s.lost b = false) (hc : s.crcBad b = false) (p unitId : Nat) (narrow : Bool) :
    s.readBlock p b unitId narrow none = (s, 0) := by
  simp +contextual [State.readBlock, hl, hc, State.countFouls]

/-- A block whose bytes and CRC disagree fouls every read, and each is counted and recorded. -/
theorem State.readBlock_of_foul {s : State} {b : Nat} (hl : s.lost b = false) (hc : s.crcBad b = true) (hf : s.foulRetries ≠ 0)
    (p unitId : Nat) (narrow : Bool) :
    ∃ u, s.readBlock p b unitId narrow none = (u, 0x20) ∧ Keeps [.ctrs, .sb] s u := by
  have hkeeps := s.countFouls_keeps p b unitId narrow s.foulRetries
  have hretries : (s.countFouls p b unitId narrow s.foulRetries).foulRetries = s.foulRetries := hkeeps.rd_eq (by simp) _ _ _
  exact ⟨_, by simp [State.readBlock, hl, hc, hf, hretries], hkeeps⟩

/-- Reading a list of blocks in turn, each unless an earlier one has failed: the reads of `State.readInputs`. -/
def State.readBlocks (p unitId : Nat) (word : List Nat) (bs : List Nat) (r : State × Nat) : State × Nat :=
  bs.foldl (fun (r : State × Nat) b => if r.2 = 0 then r.1.readBlock p b unitId (word.contains b) none else r) r

theorem State.readBlocks_of_failed (p unitId : Nat) (word bs : List Nat) {r : State × Nat} (h : r.2 ≠ 0) :
    State.readBlocks p unitId word bs r = r := by
  induction bs with
  | nil => rfl
  | cons b bs ih => rwa [State.readBlocks, List.foldl_cons, if_neg h]

/-- The first block that fouls ends the reads, with nothing changed but the counts and the records. -/
theorem State.readBlocks_of_foul {s : State} {bs : List Nat} (p unitId : Nat) (word : List Nat) (hl : ∀ b ∈ bs, s.lost b = false)
    (hc : ∃ b ∈ bs, s.crcBad b = true) (hf : s.foulRetries ≠ 0) :
    ∃ u, State.readBlocks p unitId word bs (s, 0) = (u, 0x20) ∧ Keeps [.ctrs, .sb] s u := by
  induction bs with
  | nil => simp at hc
  | cons b bs ih =>
    have hlb : s.lost b = false := hl b (by simp)
    rw [State.readBlocks, List.foldl_cons, if_pos rfl]
    by_cases hb : s.crcBad b = true
    · obtain ⟨u, hu, hkeeps⟩ := State.readBlock_of_foul hlb hb hf p unitId (word.contains b)
      exact ⟨u, by rw [hu]; exact State.readBlocks_of_failed p unitId word bs (by simp), hkeeps⟩
    · rw [State.readBlock_of_good hlb (by simpa using hb)]
      refine ih (fun c hc => hl c (by simp [hc])) ?_
      obtain ⟨c, hmem, hcrc⟩ := hc
      obtain rfl | hmem := List.mem_cons.mp hmem
      · exact absurd hcrc hb
      · exact ⟨c, hmem, hcrc⟩

/-! Input blocks. -/

/-- A lost block that nothing can restore, with none of its pseudo-channels quiesced, is counted and ends the task. -/
theorem State.lostInput_of_unrecoverable {s : State} {b : Nat} (hq : s.blockQuiesced b = false) (hr : s.recoverable b = none)
    (x : TaskRec) : s.lostInput x b = (s.bump (Addr.ras x.p 0x38) 1).endTask x.tid 0x22 := by
  simp [State.lostInput, hq, hr]

section Inputs
variable {s : State} {blks : List Nat} (x : TaskRec) (die unitId : Nat) (ok : State → State)

theorem State.readInputs_of_lost {b : Nat} (h : blks.find? (fun k => s.lost k) = some b) :
    s.readInputs x die unitId blks ok = s.lostInput x b := by
  simp [State.readInputs, h]

theorem State.readInputs_of_unreadable (hl : ∀ b ∈ blks, s.lost b = false) (hr : ∃ b ∈ blks, s.readable (b / 64) = false) :
    s.readInputs x die unitId blks ok = s := by
  have hfind : blks.find? (fun k => s.lost k) = none := by simpa using hl
  simp [State.readInputs, hfind, hr]

theorem State.readInputs_of_foul (hl : ∀ b ∈ blks, s.lost b = false) (hr : ∀ b ∈ blks, s.readable (b / 64) = true)
    (hc : ∃ b ∈ blks, s.crcBad b = true) (hf : s.foulRetries ≠ 0) :
    ∃ u, s.readInputs x die unitId blks ok = u.endTask x.tid 0x20 ∧ Keeps [.ctrs, .sb] s u := by
  have hfind : blks.find? (fun k => s.lost k) = none := by simpa using hl
  have hany : blks.any (fun b => !s.readable (b / 64)) = false := by simpa using hr
  obtain ⟨u, hu, hkeeps⟩ := State.readBlocks_of_foul x.p unitId
    (if x.isKind 2 0 && bit (x.f 0x2C 4) 0 then blocksOf (x.f 0x80 8) 4 else []) hl hc hf
  rw [State.readBlocks] at hu
  refine ⟨u, ?_, hkeeps⟩
  simp only [State.readInputs, hfind, hany, hu]
  rfl

end Inputs

/-! The checks before the step. -/

section Checks
variable {s : State} {x : TaskRec} (unitId : Nat) (ins : List Nat) (outs : List Rng) (run : State → State × Nat)

theorem State.runTask_of_rejected : s.runTask x false unitId ins outs run = s.endTask x.tid 0x10 := by
  simp [State.runTask]

theorem State.runTask_of_unwritable {outs : List Rng} (h : s.canWriteAll ((s.taskDies x).headD 0) (rngPages outs) = false) :
    s.runTask x true unitId ins outs run = s := by
  simp [State.runTask, h, -List.headD_eq_head?_getD]

theorem State.runTask_of_writable {outs : List Rng} (h : s.canWriteAll ((s.taskDies x).headD 0) (rngPages outs) = true) :
    s.runTask x true unitId ins outs run =
      s.readInputs x ((s.taskDies x).headD 0) unitId ins fun w => (run w).1.endTask x.tid (run w).2 := by
  simp [State.runTask, h, -List.headD_eq_head?_getD]

end Checks

/-- Command `c` runs task `x` in one step, under the check `ok` of its descriptor, with those input blocks and those outputs. -/
def State.RunsInOneStep (s : State) (c : Instr) (x : TaskRec) (ok : Bool) (ins : List Nat) (outs : List Rng) : Prop :=
  ∃ unitId run, exec c s = .next (s.runTask x ok unitId ins outs run)

section Commands
variable {s : State} {tid : Nat} {x : TaskRec} (hx : s.task tid = some x) (hrun : s.mayRun x = true)
include hx hrun

theorem State.convert_runs (hkind : x.isKind 3 0 = true) :
    s.RunsInOneStep (.convert tid) x x.cvOk (rngBlocks x.cvReads) x.cvWrites := by
  exact ⟨_, _, by simp only [exec, execConvert, hx, hkind, hrun]; rfl⟩

theorem State.codebookLoad_runs (hkind : x.isKind 3 2 = true) :
    s.RunsInOneStep (.codebookLoad tid) x (x.loadDescOk false true && decide (0x12 ≤ x.f 0x2C 4) && decide (x.f 0x2C 4 ≤ 0x1F))
      (rngBlocks x.cbReads) [] := by
  exact ⟨_, _, by simp only [exec, execCodebookLoad, hx, hkind, hrun]; rfl⟩

theorem State.seedLoad_runs (hkind : x.isKind 3 4 = true) :
    s.RunsInOneStep (.seedLoad tid) x (x.loadDescOk false false) (rngBlocks x.seedReads) [] := by
  exact ⟨_, _, by simp only [exec, execSeedLoad, hx, hkind, hrun]; rfl⟩

theorem State.rngFill_runs (hkind : x.isKind 3 5 = true) : s.RunsInOneStep (.rngFill tid) x x.rfOk [] x.rfWrites := by
  exact ⟨_, _, by simp only [exec, execRngFill, hx, hkind, hrun]; rfl⟩

theorem State.reuseGate_runs {vxe : Nat} (hv : vxe < 16) (hactive : ∀ d ∈ s.taskDies x, vxe ∈ s.activeVxes d)
    (hkind : x.isKind 2 1 = true) : s.RunsInOneStep (.reuseGate tid vxe) x x.rgOk (rngBlocks x.rgReads) x.rgWrites.flatten := by
  have hall : ((s.taskDies x).all fun d => (s.activeVxes d).contains vxe) = true := by simpa using hactive
  exact ⟨_, _, by simp only [exec, execReuseGate, Nat.not_le.mpr hv, hx, hkind, hrun, hall]; rfl⟩

theorem State.finiteCheck_runs {vxe : Nat} (hv : vxe < 16) (hactive : vxe ∈ s.activeVxes ((s.taskDies x).headD 0))
    (hkind : x.isKind 2 2 = true) : s.RunsInOneStep (.finiteCheck tid vxe) x x.fcOk (rngBlocks x.fcReads) x.fcWrites.flatten := by
  have hhead : (s.activeVxes ((s.taskDies x).headD 0)).contains vxe = true := by simpa using hactive
  exact ⟨_, _, by simp only [exec, execFiniteCheck, Nat.not_le.mpr hv, hx, hkind, hrun, hhead]; rfl⟩

end Commands

theorem State.ready_of_mayRun {s : State} {x : TaskRec} (h : s.mayRun x = true) : x.phase = .ready := by
  simp only [State.mayRun, Bool.and_eq_true, beq_iff_eq] at h
  obtain ⟨⟨hphase, _⟩, _⟩ := h
  exact hphase

/-! The outcomes of the checks. -/

section Outcomes
variable {s : State} {x : TaskRec} (hx : s.task x.tid = some x) (hready : x.phase = .ready) (die unitId : Nat) (ok : State → State)
include hx hready

/-- A lost input that nothing can restore ends the task before its step, and RAS_LOST_INPUTS adds 1. -/
theorem State.readInputs_ends_of_lost {blks : List Nat} {b : Nat} (hw : s.maps.wf = true) (hfind : blks.find? (fun k => s.lost k) = some b)
    (hrec : s.recoverable b = none) (hquiet : s.blockQuiesced b = false) :
    let t := s.readInputs x die unitId blks ok
    Ended x 0x22 s t ∧ t.ctr (Addr.ras x.p 0x38) = s.ctr (Addr.ras x.p 0x38) + 1 ∧ CtrsBut [Addr.ras x.p 0x38] s t ∧
      Keeps [.tasks, .ctrs] s t := by
  rw [State.readInputs_of_lost x die unitId ok hfind, State.lostInput_of_unrecoverable hquiet hrec]
  have hbump := s.bump_keeps (Addr.ras x.p 0x38) 1
  obtain ⟨_, hend⟩ := State.endTask_ends ((hbump.task_eq (by simp) (by simp) (by simp) _).trans hx) hready 0x22
  obtain ⟨hended, hkeeps⟩ := hbump.endTask_ends (by simp) (by simp) (by simp) hx hready 0x22
  obtain ⟨_, _, _, _, _, _, hctr, _⟩ := (Maps.wf_iff _).mp hw
  refine ⟨hended, ?_, fun a ha => ?_, hkeeps⟩
  · rw [hend.ctr_eq (by simp), State.ctr_bump hctr]; rfl
  · rw [hend.ctr_eq (by simp), State.ctr_bump_other hctr 1 (by simpa using ha)]

/-- An input whose bytes and CRC disagree ends the task before its step. -/
theorem State.readInputs_ends_of_foul {blks : List Nat} (hgood : ∀ b ∈ blks, s.lost b = false ∧ s.readable (b / 64) = true)
    (hc : ∃ b ∈ blks, s.crcBad b = true) (hf : s.foulRetries ≠ 0) :
    let t := s.readInputs x die unitId blks ok
    Ended x 0x20 s t ∧ Keeps [.tasks, .ctrs, .sb] s t := by
  obtain ⟨u, hu, hkeeps⟩ :=
    State.readInputs_of_foul x die unitId ok (fun b hb => (hgood b hb).1) (fun b hb => (hgood b hb).2) hc hf
  rw [hu]
  exact hkeeps.endTask_ends (by simp) (by simp) (by simp) hx hready 0x20

end Outcomes

/-- Settles O29: each of the six commands runs its task by `State.runTask`, whose checks come before the step. -/
theorem oneStepTasksCheckTheirInputs : Obligations.OneStepTasksCheckTheirInputs := by
  unfold Obligations.OneStepTasksCheckTheirInputs
  intro s tid vxe x c ok ins outs hw hv hx hrun hactive hdies hc
  have hstep : s.RunsInOneStep c x ok ins outs := by
    rcases hc with ⟨rfl, hk, rfl, rfl, rfl⟩ | ⟨rfl, hk, rfl, rfl, rfl⟩ | ⟨rfl, hk, rfl, rfl, rfl⟩ | ⟨rfl, hk, rfl, rfl, rfl⟩ |
      ⟨rfl, hk, rfl, rfl, rfl⟩ | ⟨rfl, hk, rfl, rfl, rfl⟩
    · exact State.convert_runs hx hrun hk
    · exact State.codebookLoad_runs hx hrun hk
    · exact State.seedLoad_runs hx hrun hk
    · exact State.rngFill_runs hx hrun hk
    · exact State.reuseGate_runs hx hrun hv hactive hk
    · refine State.finiteCheck_runs hx hrun hv (hactive _ ?_) hk
      rw [List.headD_eq_head?_getD, List.head?_eq_some_head hdies]
      exact List.head_mem hdies
  obtain ⟨unitId, run, hexec⟩ := hstep
  have hready := State.ready_of_mayRun hrun
  obtain rfl := State.tid_of_task hx
  rw [hexec]
  refine ⟨?rejected, ?unwritable, fun hok hwritable => ?writable⟩
  case rejected =>
    rintro rfl
    rw [State.runTask_of_rejected]
    exact ⟨_, rfl, State.endTask_ends hx hready 0x10⟩
  case unwritable =>
    rintro rfl hfull
    rw [State.runTask_of_unwritable unitId ins run hfull]
  case writable =>
    rw [hok, State.runTask_of_writable unitId ins run hwritable]
    refine ⟨fun b hfind hrec hquiet => ⟨_, rfl, ?_⟩, fun hl hr => ?_, fun hgood hcrc hf => ⟨_, rfl, ?_⟩⟩
    · exact State.readInputs_ends_of_lost hx hready _ _ _ hw hfind hrec hquiet
    · rw [State.readInputs_of_unreadable x _ _ _ hl hr]
    · exact State.readInputs_ends_of_foul hx hready _ _ _ hgood hcrc hf

end Sys2Proof.Machine
end

section
/-! SUPPORT. An issue that meets a lost block waits while a pseudo-channel of the block is quiesced (R368, R436), and with it the end of
the task: the clause on lost blocks in the statement about the issue of tiles does not ask that none is. -/
namespace Sys2Proof.Machine
open Sys2Proof

/-- While a pseudo-channel of a lost block is quiesced, nothing is decided about the task that needs it (R368). -/
theorem State.lostInput_of_quiesced {s : State} {b : Nat} (h : s.blockQuiesced b = true) (x : TaskRec) : s.lostInput x b = s := by
  simp [State.lostInput, h]

/-- TILE_ISSUE of a tile that may start and needs a lost block leaves that block to R429. -/
theorem exec_tileIssue_of_lost {s : State} {tid uid k b : Nat} {x : TaskRec} {u : UnitRec} (hk : k < 17) (hx : s.task tid = some x)
    (hu : x.unit uid = some u) (hready : s.tileReady x u k = true) (htodo : u.phase = .todo) (heng : s.engineOk x u k = true)
    (hepoch : s.epochAhead x u.die = false) (hlost : s.lostNeed x u = some b) :
    exec (.tileIssue tid uid k) s = .next (s.lostInput x b) := by
  simp [exec, execTileIssue, Nat.not_le.mpr hk, hx, hu, State.issueTile, hready, heng, htodo, hepoch, State.startTile, hlost]

/-- A descriptor of a product of 1 by 1 over K of 32, BF16 operands at 0x2000 and 0x3000, an FP32 output at 0x4000, no shadows. -/
def quiescedDesc : List Byte :=
  [(4, 1, 0xFF), (5, 1, 0xFF), (0x20, 4, 1), (0x24, 4, 1), (0x28, 4, 32), (0x2C, 4, 1), (0x3C, 4, 2), (0x40, 4, 2), (0x60, 8, 0x2000),
    (0x68, 8, 0x3000), (0x78, 8, 0x4000), (0x98, 4, 64), (0x9C, 4, 64), (0xA0, 4, 64)].foldl
    (fun bs x => putBytes bs x.1 (leBytes x.2.1 x.2.2)) (List.replicate 256 0#8)

/-- The one tile of that product, to do, and the running task with its slice on die 0. -/
def quiescedUnit : UnitRec := { uid := 0, last := 1 }
def quiescedTask : TaskRec :=
  { tid := 0, gid := 0, p := 0, r := 0, seq := 0, idx := 0, tenant := 0, descAddr := 0x1200, phase := .running, desc := quiescedDesc
    units := [quiescedUnit], slices := [{ die := 0, len := 1, frame := 0 }], plan := some ⟨1, 1, 16, 1⟩ }

/-- The task at work in partition 0. Page 0 lies in HBM, block 2 of it, which holds A, is lost, and pseudo-channel 32, where the block
begins, is RETRAINING. -/
def quiescedState : State :=
  (({ boot := .firmware, parts := [{ p := 0, dies := [0], spanPages := 16, hbmFrames := 100 }], tasks := [quiescedTask],
      maps := { rt := [(0, 0x000A000000000000#64)], side := [(2, 0x100000000#64)] } } : State).setFld 0x8 18 18 1).setFld
    (Addr.hbmPc 32 0) 3 0 1

/-- The descriptor keeps R145, and the issue in `quiescedState` meets every hypothesis of the clause on lost blocks. -/
theorem quiescedState_mayIssue :
    quiescedState.productOk quiescedTask = true ∧ quiescedState.maps.wf = true ∧ quiescedState.task 0 = some quiescedTask ∧
      quiescedTask.unit 0 = some quiescedUnit ∧ quiescedState.tileReady quiescedTask quiescedUnit 0 = true ∧
      quiescedState.engineOk quiescedTask quiescedUnit 0 = true ∧ quiescedState.epochAhead quiescedTask quiescedUnit.die = false ∧
      quiescedState.lostNeed quiescedTask quiescedUnit = some 2 ∧ quiescedState.recoverable 2 = none ∧
      quiescedState.blockQuiesced 2 = true := by
  decide +kernel

/-- Refutes O22: its clause on lost blocks does not ask that no pseudo-channel of the block is quiesced. In `quiescedState` one is, and
TILE_ISSUE leaves the task running until the quiesce ends (R368, R436). -/
theorem not_productsIssueTheirTiles : ¬ Obligations.ProductsIssueTheirTiles := by
  unfold Obligations.ProductsIssueTheirTiles
  intro ⟨_, hissue⟩
  obtain ⟨_, hwf, htask, hunit, hready, heng, hepoch, hlost, hrec, hquiesced⟩ := quiescedState_mayIssue
  obtain ⟨_, hend, _⟩ := hissue quiescedState 0 0 0 quiescedTask quiescedUnit hwf (by decide) htask hunit hready
  obtain ⟨t, hnext, ⟨⟨us, hended⟩, _⟩, _⟩ := hend 2 rfl heng hepoch hlost hrec
  have hwaits : exec (.tileIssue 0 0 0) quiescedState = .next quiescedState := by
    rw [exec_tileIssue_of_lost (by decide) htask hunit hready rfl heng hepoch hlost, State.lostInput_of_quiesced hquiesced]
  obtain rfl : quiescedState = t := Host.Outcome.next.inj (hwaits.symm.trans hnext)
  have hrunning : quiescedTask.phase = .ended := congrArg TaskRec.phase (Option.some.inj (htask.symm.trans hended))
  exact absurd hrunning (by decide)

end Sys2Proof.Machine
end
